-- ==== Sys2Proof/Word.lean ====
section
/-!
DEFINITION. The words the part works in: octets of a line or highway, and the 16-bit words of
control memory and of the host port (chapter 9).
-/
namespace Sys2Proof

/-- One octet of a line frame or of a highway. -/
abbrev Octet := BitVec 8

/-- One 16-bit word of control memory or of a register. -/
abbrev Word := BitVec 16

/-- A 32-bit wrapping count, or a 32-bit quantity held in two words of control memory. -/
abbrev Long := BitVec 32

/-- The number of a line, 0..63. -/
abbrev LineNo := Fin 64

/-- The number of a monitor, 0..7. -/
abbrev MonitorNo := Fin 8

/-- A group position, 0..3; addition wraps modulo 4. -/
abbrev GroupPos := Fin 4

end Sys2Proof
end

