-- ==== Sys2Proof/Config.lean ====
section
/-!
DEFINITION. The fixed quantities of the part, each with the rule that gives it.
The manual leaves no value open after which a command goes on, so there is no free value here.
-/
namespace Sys2Proof

/-- Bits the framer keeps in its search history (R2). -/
def Config.historyDepth : Nat := 5120

/-- Bits of one office frame or line frame (section 1.1). -/
def Config.frameBits : Nat := 320

/-- Silent office frames that make a line dead (R10). -/
def Config.deadFrames : Nat := 8

/-- Local cycles without an edge that make a bus clock missing (R89). -/
def Config.silenceLimit : Nat := 32

/-- Bus clock edges of a timing window (R90). -/
def Config.timingWindowEdges : Nat := 2560000

/-- Local cycles of a timing window at the nominal rate (R90). -/
def Config.nominalCycles : Nat := 20480000

/-- Local cycles between two patrol steps (R156). -/
def Config.patrolInterval : Nat := 2560

/-- Words the scrub visits at one patrol step (R152). -/
def Config.scrubWords : Nat := 8

/-- Words of control memory (R144). -/
def Config.memoryWords : Nat := 8192

/-- Byte offsets the bad-word list can hold (R153). -/
def Config.badListSize : Nat := 16

/-- Record numbers the prompt queue can hold (R157). -/
def Config.promptQueueSize : Nat := 8

/-- The part code, read from IDENT and from the directory (R149, section 9.8). -/
def Config.partCode : Word := 0x2480

/-- The revision described by the manual (R149). -/
def Config.revision : Word := 0x0001

end Sys2Proof
end

