-- ==== Sys2Proof/Syntax.lean ====
section
/-!
DEFINITION. The commands of the part: one constructor of `Instr` for each row of
spec/opcode_table.json, with the operands the rules need. A request operand carries the sixteen
words of the record's request half, REQSER first (section 9.8).
-/
namespace Sys2Proof.Machine

/-- The two timing buses (section 5.2). -/
inductive Bus where
  | a
  | b
deriving DecidableEq, Repr

/-- What comes before a grant of the arbiter to the patrol or the scrub (R144, R148, R149, R156): a
cycle of the host port, of the memory side, where the address names a word, or of the register side,
where it names a register; or `wait`, after which the step in progress is granted nothing until a later
local cycle or PATROL_STEP (assumption 9). -/
inductive HostCycle where
  | read (addr : BitVec 13)
  | write (addr : BitVec 13) (data : Word)
  | registerRead (reg : Fin 8)
  | registerWrite (reg : Fin 8) (data : Word)
  | wait
deriving DecidableEq, Repr

/-- What befalls the writing of one journal slot (R148, R166; assumptions 2 and 9). `stops` are the
numbers of words written at which the writing waits for its next grant, so that host cycles fall
there; `hits` names the bits of the slot that are struck between the writing and the read-back. -/
structure WritePlan where
  stops : List Nat := []
  hits : List (Fin 16 × Nat) := []
deriving DecidableEq, Repr

/-- What befalls the memories while a local cycle passes (assumptions 2 and 9).
`control` strikes bit 0..21 of a control memory word (16 data bits, 6 check bits);
`slot` strikes bit 0..71 of one of the five words of a store slot;
`nextPost` is the plan of a journal slot written later, one plan for each write, in order;
`host` is a host cycle that precedes grant `grant` of the patrol's work in this local cycle, and follows
the work of a cycle in which the patrol has none. -/
inductive Strike where
  | control (word : BitVec 13) (bit : Nat)
  | slot (bank : Fin 9) (slot : Fin 256) (word : Fin 5) (bit : Nat)
  | nextPost (plan : WritePlan)
  | host (grant : Nat) (cycle : HostCycle)
deriving DecidableEq, Repr

/-- The host cycles among the events of a local cycle, each with the grant it precedes (R148). -/
def hostCycles (strikes : List Strike) : List (Nat × HostCycle) :=
  strikes.filterMap fun x => match x with
    | .host k c => some (k, c)
    | .control _ _ => none
    | .slot _ _ _ _ => none
    | .nextPost _ => none

/-- The request half of a line record (section 9.8). `actions` is word 4: the idle code in bits
7..0, RECENTRE, RESTART_LINE, ARM_WINDOW and CLEAR_COUNTS in bits 8 to 11. -/
structure LineRequest where
  serial : Word := 0
  service : Word := 0
  confirmCount : Word := 0
  lossCount : Word := 0
  actions : Word := 0
  bank : Word := 0
  base : Word := 0
  capacity : Word := 0
  slipUnit : Word := 0
  tLow : Word := 0
  tHigh : Word := 0
  slipEvents : Word := 0
  windowLength : Word := 0
  windowMode : Word := 0
  reportWindows : Word := 0
  horizonLimit : Word := 0
deriving DecidableEq, Repr

/-- The request half of the timing record (R104). `actions` is word 8: REALIGN in bit 0,
CLEAR_HOLD_LATCH in bit 1, CLEAR_HISTORY in bit 2. -/
structure TimingRequest where
  serial : Word := 0
  preferred : Word := 0
  revertive : Word := 0
  force : Word := 0
  revertDelay : Word := 0
  badFrameLimit : Word := 0
  goodFrameCount : Word := 0
  freqLimit : Word := 0
  actions : Word := 0
deriving DecidableEq, Repr

/-- The request half of the store record (R123). -/
structure StoreRequest where
  serial : Word := 0
  spareAction : Word := 0
  swapBank : Word := 0
  clearBankCounts : Word := 0
  autoLimit : Word := 0
deriving DecidableEq, Repr

/-- The request half of a monitor record (R134); PRESET takes two words. -/
structure MonitorRequest where
  serial : Word := 0
  enable : Word := 0
  event : Word := 0
  line : Word := 0
  level : Word := 0
  threshold : Word := 0
  sense : Word := 0
  edge : Word := 0
  ovfAction : Word := 0
  presetHigh : Word := 0
  presetLow : Word := 0
  loadPreset : Word := 0
  clearOverflow : Word := 0
deriving DecidableEq, Repr

/-- The request half of the directory (R162). -/
structure DirectoryRequest where
  serial : Word := 0
  kindMask : Word := 0
  unfreeze : Word := 0
  clearViolations : Word := 0
  clearUnposted : Word := 0
deriving DecidableEq, Repr

end Sys2Proof.Machine

namespace Sys2Proof

open Sys2Proof.Machine

/-- The commands: every row of spec/opcode_table.json. -/
inductive Instr where
  | fullReset
  | resetRelease (holdreq : Bool)
  | initialisationEnd
  | hostMemoryRead (select : Bool) (addr : BitVec 13)
  | hostMemoryWrite (addr : BitVec 13) (data : Word)
  | takeser (slot : Fin 128) (low : Bool) (data : Word)
  | protect (addr : BitVec 13) (data : Word)
  | engineRestart
  | engineRestartEnd
  | attentionClear (data : Word)
  | maskWrite (data : Word)
  | prompt (data : Word)
  | registerWriteOther (reg : Fin 8) (data : Word)
  | holdLatch
  | busFrameJudged (bus : Bus) (good : Bool)
  | missingClock (bus : Bus)
  | timingWindowEnd (bus : Bus) (localCycles : Long)
  | officeTick
  | realignComplete
  | dead (n : LineNo)
  | windowEnd (n : LineNo)
  | huntFind (n : LineNo) (octet : Octet)
  | confirmCheck (n : LineNo) (octet : Octet)
  | lockedCheck (n : LineNo) (octet : Octet)
  | frameDelivery (n : LineNo) (payload : Vector Octet 39) (tag : GroupPos)
  | patrolStep (between : List (Nat × HostCycle))
  | lineRequest (n : LineNo) (req : LineRequest)
  | serviceIn (n : LineNo)
  | serviceOut (n : LineNo)
  | recentre (n : LineNo)
  | restartLine (n : LineNo)
  | armWindow (n : LineNo)
  | clearCounts (n : LineNo)
  | timingRequest (req : TimingRequest)
  | clearHistory
  | clearHoldLatch
  | realign
  | storeRequest (req : StoreRequest)
  | clearBankCounts
  | swap (bank : Fin 8)
  | returnBank
  | cancel
  | monitorRequest (m : MonitorNo) (req : MonitorRequest)
  | loadPreset (m : MonitorNo)
  | clearOverflow (m : MonitorNo)
  | directoryRequest (req : DirectoryRequest)
  | clearViolations
  | clearUnposted
  | unfreeze
  | lineBitTaken (n : LineNo) (bit : Bool)
  | busClockEdge (bus : Bus) (pulse : Bool)
  | localOscillatorCycle (holdreq : Bool) (strikes : List Strike)
deriving DecidableEq, Repr

end Sys2Proof
end

