-- ==== Sys2Proof/Machine/State.lean ====
section
/-!
DEFINITION. The state of the part, as plain data: every item the manual's state tables give
(R2, R25, R38, R61, R66, R86, R118, R133, R164), control memory, the slip store, the registers,
the host port's answer and the queue of waiting commands. Field defaults are the full-reset values.
-/
namespace Sys2Proof.Machine

/-! ## Stored words and their errors -/

/-- What the single-error-correcting, double-error-detecting code shows of a stored word: no error,
the one bit in error, or an error it cannot correct (R21, R147). -/
inductive Condition where
  | clean
  | single (bit : Nat)
  | uncorrectable
deriving DecidableEq, Repr

/-- A word of control memory: its 16 data bits as they stand in the array, and which of its 22 bits
are in error, rising; bits 0..15 are data bits, 16..21 check bits. -/
structure MemWord where
  raw : Word := 0
  errors : List Nat := []
deriving DecidableEq, Repr

/-- Control memory (R144): word address and word, addresses rising, no entry equal to the word an
unlisted address holds. -/
abbrev Memory := List (Nat × MemWord)

/-- The five words of a slot, by what the code shows of each (R21). -/
structure SlotConditions where
  w0 : Condition := .clean
  w1 : Condition := .clean
  w2 : Condition := .clean
  w3 : Condition := .clean
  w4 : Condition := .clean
deriving DecidableEq, Repr

/-- The five words of a slot, by which of the 72 bits of each are in error, rising (R21). -/
structure SlotErrors where
  w0 : List Nat := []
  w1 : List Nat := []
  w2 : List Nat := []
  w3 : List Nat := []
  w4 : List Nat := []
deriving DecidableEq, Repr

/-- Alarm fill: 0xFF in all 39 channel octets (section 8 of the scope, R17). -/
def alarmFill : List Octet := List.replicate 39 0xFF

/-- One slot of the store (R20, R21): the 39 payload octets, the tag (group position and FILLER)
and the bits in error of its five words. The payload and tag are those last written; a corrected read
returns them, and an uncorrectable word is never used. The default is a part-written slot. -/
structure Slot where
  payload : List Octet := alarmFill
  position : GroupPos := 0
  filler : Bool := true
  errors : SlotErrors := {}
deriving DecidableEq, Repr

/-- The slip store's nine banks of 256 slots (R20), keyed by 256 · bank + slot, in the same
canonical form as control memory; an unlisted slot is a part-written one (R23). -/
abbrev SlotStore := List (Nat × Slot)

/-! ## Lines -/

/-- The line states and their codes (section 1.5, R16). -/
inductive LineState where
  | out
  | hunting
  | filling
  | running
  | dead
deriving DecidableEq, Repr

/-- The framer states and their codes (section 1.2, R16). -/
inductive FramerState where
  | hunt
  | confirm
  | locked
deriving DecidableEq, Repr

/-- The causes of LINE_STATE and their codes (R16); `none` is the last cause after a full reset. -/
inductive LineCause where
  | none
  | serviceIn
  | serviceOut
  | locked
  | lost
  | started
  | underrun
  | tagMismatch
  | recentre
  | structural
  | dead
  | alive
  | restartLine
deriving DecidableEq, Repr

/-- The slip unit of a line (R24). -/
inductive SlipUnit where
  | frame
  | group
deriving DecidableEq, Repr

/-- The placement of a line's ring (R24). -/
structure Placement where
  bank : Fin 8 := 0
  base : Nat := 0
  capacity : Nat := 4
  unit : SlipUnit := .frame
deriving DecidableEq, Repr

/-- The framer of a line (section 1.2). `history` is the search history, newest bit first.
`candidateAge` counts the bits from the candidate boundary's first bit to the newest bit, and
`boundaryAge` those from the first bit of the octet last checked, both in CONFIRM. `payload` holds
the channel octets assembled so far, oldest first. -/
structure Framer where
  state : FramerState := .hunt
  held : Bool := true
  expected : GroupPos := 0
  matchCount : Nat := 0
  errorCount : Nat := 0
  framePosition : Nat := 0
  candidateAge : Nat := 0
  boundaryAge : Nat := 0
  history : List Bool := []
  payload : List Octet := []
deriving DecidableEq, Repr

/-- The ring's read index and held count (R25). -/
structure Ring where
  readIndex : Nat := 1
  held : Nat := 0
deriving DecidableEq, Repr

/-- What the reader did at its most recent event, with the codes of R64. -/
inductive Decision where
  | idle
  | fill
  | start
  | normal
  | repeatUnit
  | deleteUnit
  | underrun
  | tagMismatch
  | recentre
deriving DecidableEq, Repr

/-- Thresholds and SLIP_EVENTS of an accepted request, waiting for the next reader event (R43). -/
structure StagedReader where
  tLow : Nat
  tHigh : Nat
  slipEvents : Bool
deriving DecidableEq, Repr

/-- The reader of a line (R38). The centre in force is computed from the thresholds (R44). -/
structure Reader where
  tLow : Nat := 320
  tHigh : Nat := 800
  staged : Option StagedReader := Option.none
  slipEvents : Bool := true
  recentrePending : Bool := false
  lastDecision : Decision := .idle
  lastFill : Nat := 0
  lastSubstituted : Bool := false
deriving DecidableEq, Repr

/-- The nine cumulative counters of a line (R61). -/
structure LineCounters where
  repeats : Long := 0
  deletes : Long := 0
  alignErrors : Long := 0
  overruns : Long := 0
  underruns : Long := 0
  misalign : Long := 0
  substituted : Long := 0
  storeCorrected : Long := 0
  storeUncorrected : Long := 0
deriving DecidableEq, Repr

/-- What follows a window end (R67). -/
inductive WindowMode where
  | continuous
  | single
deriving DecidableEq, Repr

/-- The flags of a window record (R76). -/
structure WindowFlags where
  incomplete : Bool := false
  noFill : Bool := false
  refNotLocked : Bool := false
  saturated : Bool := false
deriving DecidableEq, Repr

/-- The last window record of a line (R80); the defaults are those of R85. -/
structure WindowRecord where
  index : Word := 0
  length : Nat := 0
  bits : Nat := 0
  offset : Int := 0
  minFill : Nat := 0
  maxFill : Nat := 0
  repeats : Nat := 0
  deletes : Nat := 0
  flags : WindowFlags := {}
  horizon : Long := 0xFFFFFFFF
deriving DecidableEq, Repr

/-- The accumulation of the window in progress (R66), cleared at each window start. -/
structure WindowAccumulation where
  bits : Nat := 0
  minFill : Nat := 0
  maxFill : Nat := 0
  runningSeen : Bool := false
  notRunningSeen : Bool := false
  referenceLost : Bool := false
  repeats : Nat := 0
  deletes : Nat := 0
  endFill : Nat := 0
  endLow : Nat := 0
  endHigh : Nat := 0
deriving DecidableEq, Repr

/-- The window unit of a line (R66). -/
structure Window where
  counting : Bool := false
  startPending : Bool := false
  counter : Nat := 0
  length : Nat := 8000
  mode : WindowMode := .continuous
  staged : Option (Nat × WindowMode) := Option.none
  reportWindows : Bool := false
  horizonLimit : Nat := 0
  accumulation : WindowAccumulation := {}
  index : Word := 0
  record : WindowRecord := {}
deriving DecidableEq, Repr

/-- All that the part keeps for one line. `confirmCount` is N_c, `lossCount` N_l; `bitCount` is the
office-frame bit count (R1). -/
structure Line where
  state : LineState := .out
  lastCause : LineCause := .none
  confirmCount : Nat := 3
  lossCount : Nat := 4
  idleCode : Octet := 0x5A
  deadCount : Nat := 0
  bitCount : Nat := 0
  framer : Framer := {}
  placement : Placement := {}
  ring : Ring := {}
  reader : Reader := {}
  counters : LineCounters := {}
  window : Window := {}
deriving DecidableEq, Repr

/-! ## Spare control -/

/-- The states of spare control (R118). -/
inductive SpareState where
  | standby
  | mirror (k : Fin 8)
  | spared (k : Fin 8)
  | restore (k : Fin 8)
deriving DecidableEq, Repr

/-- The causes of SPARE_PHASE and their codes (R129); `none` is 0, after a full reset. -/
inductive SpareCause where
  | none
  | swap
  | auto
  | complete
  | returned
  | cancel
  | restart
deriving DecidableEq, Repr

/-- The coverage marks of a line (R120). -/
inductive Mark where
  | notConcerned
  | pending
  | covered
deriving DecidableEq, Repr

/-- A line's coverage mark and coverage count (R120). -/
structure Coverage where
  mark : Mark := .notConcerned
  count : Nat := 0
deriving DecidableEq, Repr

/-- Spare control (R118). The number of lines outstanding is computed from the marks (R121). -/
structure Spare where
  state : SpareState := .standby
  autoLimit : Nat := 0
  coverage : Vector Coverage 64 := Vector.replicate 64 {}
  lastCause : SpareCause := .none
deriving DecidableEq, Repr

/-- The corrected and uncorrected counts of a physical bank (R22). -/
structure BankCounts where
  corrected : Long := 0
  uncorrected : Long := 0
deriving DecidableEq, Repr

/-! ## Office timing -/

/-- The states of a bus monitor and their codes (R86, R92). -/
inductive MonitorState where
  | unqualified
  | good
  | failed
deriving DecidableEq, Repr

/-- The causes of BUS_STATE and their codes (R92). -/
inductive BusCause where
  | qualified
  | badFrames
  | missingClock
  | frequency
deriving DecidableEq, Repr

/-- The states of the selector and their codes (R86, R97). -/
inductive SelectorState where
  | free
  | on (bus : Bus)
  | holdover
deriving DecidableEq, Repr

/-- The causes of SELECTOR and their codes (R97). -/
inductive SelectorCause where
  | busGood
  | busFailed
  | revert
  | force
  | holdLatch
  | latchCleared
  | settings
deriving DecidableEq, Repr

/-- The force setting (R95). -/
inductive Force where
  | none
  | bus (bus : Bus)
  | holdover
deriving DecidableEq, Repr

/-- Progress of a timing window (R90): bus clock edges and local cycles since it began. -/
structure TimingWindow where
  edges : Nat := 0
  cycles : Nat := 0
deriving DecidableEq, Repr

/-- A bus monitor (R86). `flywheel` is none when unaligned; `stray` notes a pulse at an edge of the
frame in progress other than a wrap (R87); `window` is none until the edge that begins one (R90). -/
structure BusMonitor where
  state : MonitorState := .unqualified
  flywheel : Option Nat := Option.none
  stray : Bool := false
  goodCount : Nat := 0
  badCount : Nat := 0
  windowPassed : Bool := false
  window : Option TimingWindow := Option.none
  activeThroughout : Bool := false
  lastX : Int := 0
  silence : Nat := 32
deriving DecidableEq, Repr

/-- The settings of the timing record in force (R104). -/
structure TimingSettings where
  preferred : Bus := .a
  revertive : Bool := true
  force : Force := .none
  revertDelay : Nat := 10
  badFrameLimit : Nat := 2
  goodFrameCount : Nat := 800
  freqLimit : Nat := 500
deriving DecidableEq, Repr

/-- The office timing unit (R86). `phase` is φ, `buildOut` Bo, `frameCounter` the office frame
counter, `history` the holdover history oldest first, `hv` its rounded mean, `ncoStep` S. -/
structure Timing where
  busA : BusMonitor := {}
  busB : BusMonitor := {}
  settings : TimingSettings := {}
  selector : SelectorState := .free
  revertCount : Nat := 0
  switchCount : Long := 0
  holdLatch : Bool := false
  phase : Nat := 0
  buildOut : Nat := 0
  realignPending : Bool := false
  frameCounter : BitVec 48 := 0
  busTimed : Bool := false
  history : List Int := []
  hv : Int := 0
  ncoStep : Long := 536870912
  ncoAccumulator : Long := 0
deriving DecidableEq, Repr

/-! ## Highways -/

/-- The frame in hand (R110): the group position of the office frame being sent and, for each line,
its 39 channel octets. -/
structure FrameInHand where
  position : GroupPos
  channels : Vector (List Octet) 64
deriving DecidableEq, Repr

/-- The highway unit: the frame in hand, and the octet each of HW0 to HW7 carried in the latest
office bit; `none` means not driven (R116). -/
structure Highway where
  inHand : Option FrameInHand := Option.none
  sent : Option (Vector Octet 8) := Option.none
deriving DecidableEq, Repr

/-! ## Monitors -/

/-- What a monitor's wrap does (R138). -/
inductive OverflowAction where
  | none
  | journal
  | freezeAll
  | journalFreeze
deriving DecidableEq, Repr

/-- The events a monitor can sample, in the order of their codes (R136). -/
inductive MonitorEvent where
  | officeFrames
  | repeats
  | deletes
  | alignErrors
  | overruns
  | underruns
  | substituted
  | storeCorrected
  | storeUncorrected
  | linesNotRunning
  | fillAtOrAbove
  | fillBelow
deriving DecidableEq, Repr

/-- The settings of a monitor (R133, R134). `line` is none for all lines; `less` is the sense LT. -/
structure MonitorSettings where
  enabled : Bool := false
  event : MonitorEvent := .officeFrames
  line : Option LineNo := Option.none
  level : Nat := 0
  threshold : Nat := 0
  less : Bool := false
  edge : Bool := false
  overflowAction : OverflowAction := .none
  preset : Long := 0
deriving DecidableEq, Repr

/-- One monitor (R133). -/
structure Monitor where
  settings : MonitorSettings := {}
  armed : Bool := false
  count : Long := 0
  overflow : Bool := false
  edgeHistory : Bool := false
deriving DecidableEq, Repr

/-- The occurrences of one line gathered for the office frame in progress, with the line's state
and fill as the reader handed them (R135). `fill` is none where the line was not RUNNING. The manual
gives no state and fill for a line before the first hand-over after a full reset: OUT and none are the
model's (assumption 26). -/
structure Gathered where
  repeats : Nat := 0
  deletes : Nat := 0
  alignErrors : Nat := 0
  overruns : Nat := 0
  underruns : Nat := 0
  substituted : Nat := 0
  storeCorrected : Nat := 0
  storeUncorrected : Nat := 0
  state : LineState := .out
  fill : Option Nat := Option.none
deriving DecidableEq, Repr

/-- The monitor unit (R133). -/
structure MonitorUnit where
  monitors : Vector Monitor 8 := Vector.replicate 8 {}
  freeze : Bool := false
  gathered : Vector Gathered 64 := Vector.replicate 64 {}
deriving DecidableEq, Repr

/-! ## The journal -/

/-- The event kinds, in the order of their codes 1 to 15 (section 11.6). -/
inductive Kind where
  | slip
  | lineState
  | windowDone
  | slipForecast
  | storeUncorrectable
  | requestRefused
  | controlEcc
  | protect
  | busState
  | selector
  | sparePhase
  | monitorOverflow
  | holdLatch
  | journalSlotBad
  | restart
deriving DecidableEq, Repr

/-- The state of a journal slot (R164). -/
inductive SlotState where
  | free
  | held
  | bad
deriving DecidableEq, Repr

/-- The journal writer's item for one slot (R164): its state, its own copy of the posted serial,
and whether a post into it is in progress. -/
structure JournalSlot where
  state : SlotState := .free
  serial : Long := 0
  posting : Bool := false
deriving DecidableEq, Repr

/-- A report on its way to the journal (R165). -/
structure Report where
  kind : Kind
  record : Nat
  stamp : Long
  detail : List Word
deriving DecidableEq, Repr

/-- Which placing a slot's writing belongs to (R166): a report's first, that of the JOURNAL_SLOT_BAD
which its failure brings, or the retry. `original` is the report to be tried again. -/
inductive PostStage where
  | first
  | slotBad (original : Report)
  | retry
deriving DecidableEq, Repr

/-- A post in progress (R164, R165): the slot, the serial and the report it writes, how many of the
fourteen words are written, and what is still to befall the writing. -/
structure PostInProgress where
  slot : Fin 128
  serial : Long
  report : Report
  stage : PostStage
  written : Nat
  plan : WritePlan
deriving DecidableEq, Repr

/-- The journal writer (R164), with the directory's kind mask in force (R162).
`heldBeforeRestart` keeps the count that RESTART reports (R169). `current` is the post in progress and
`waiting` the reports that reached the writer since it began, in order (R165).
`plans` is the model's own: what befalls the slot writes to come, one plan each (assumption 2). -/
structure Journal where
  kindMask : BitVec 15 := 0x7FFF
  slots : Vector JournalSlot 128 := Vector.replicate 128 {}
  nextSerial : Long := 1
  unposted : Vector Nat 15 := Vector.replicate 15 0
  halted : Bool := false
  dropCount : Nat := 0
  heldBeforeRestart : Nat := 0
  current : Option PostInProgress := none
  waiting : List Report := []
  plans : List WritePlan := []
deriving DecidableEq, Repr

/-! ## Control plane -/

/-- Where the part stands between RESETn and service: RESETn asserted, full-reset initialisation,
in service (READY = 1), or engine restart (R144, R154, R155). -/
inductive Phase where
  | inReset
  | initialising
  | ready
  | restarting
deriving DecidableEq, Repr

/-- How the latest host cycle ended (R144): `xerr` is XERRn asserted at its end. -/
inductive PortResult where
  | idle
  | readDone (data : Word) (xerr : Bool)
  | writeDone (xerr : Bool)
deriving DecidableEq, Repr

/-- The sticky bits of ATTENTION (R150); READY and JOURNAL are levels and are computed. -/
structure Attention where
  lost : Bool := false
  protect : Bool := false
  promptLost : Bool := false
  critical : Bool := false
deriving DecidableEq, Repr

/-- The violation count and the last violating address, a byte offset (R146). -/
structure Violations where
  count : Nat := 0
  address : Word := 0
deriving DecidableEq, Repr

/-- The scrub pointer, a word address, the pass count and the corrected count (R152). -/
structure Scrub where
  pointer : Nat := 0
  passes : Long := 0
  corrected : Long := 0
deriving DecidableEq, Repr

/-- The bad-word list, byte offsets in the order found, and its overflow count (R153). -/
structure BadWords where
  offsets : List Nat := []
  overflow : Nat := 0
deriving DecidableEq, Repr

/-- The records of control memory (section 10.1). -/
inductive Record where
  | directory
  | timing
  | store
  | monitor (m : MonitorNo)
  | line (n : LineNo)
deriving DecidableEq, Repr

/-- What a patrol step has still to do (R156, R158, R161): the words of the request half not yet read,
by offset, with the readings made; the report words not yet written; or the words left to scrub. -/
inductive StepWork where
  | reading (todo : List Nat) (read : List (Option Word))
  | writing (todo : List (Nat × Word))
  | scrubbing (left : Nat)
deriving DecidableEq, Repr

/-- A patrol step in progress that waits for its next grant (R148, R156): the record it serves and what
is left of its work. -/
structure StepInProgress where
  record : Record
  work : StepWork
deriving DecidableEq, Repr

/-- The patrol (R156, R157): the round-robin pointer, the prompt queue, head first, the local cycles of
the interval in progress (the model's own, assumption 8), whether a step has fallen due that has not
begun, and the step in progress. -/
structure Patrol where
  pointer : Record := .directory
  prompts : List Record := []
  timer : Nat := 0
  due : Bool := false
  step : Option StepInProgress := none
deriving DecidableEq, Repr

/-- The RESULT codes (R159). -/
inductive RequestResult where
  | none
  | accepted
  | acceptedClamped
  | refused
  | poisoned
deriving DecidableEq, Repr

/-- The REASON codes (R159). -/
inductive Reason where
  | none
  | badField
  | badBank
  | badCapacity
  | outOfBank
  | overlap
  | conflict
  | spareBusy
  | nothingToCancel
  | holdActive
  | noBus
  | overflowPending
deriving DecidableEq, Repr

/-- The part's own copy of a report's common head (R151). -/
structure ReportHead where
  updcnt : Word := 0
  appser : Word := 0
  actser : Word := 0
  result : RequestResult := .none
  reason : Reason := .none
  detail : Word := 0
deriving DecidableEq, Repr

/-- The machine. `reportHeads` is indexed by record number, 11 to 15 unused. `holdreq` is the level
of HOLDREQ as last sampled. `pending` is the queue of commands that wait, first in, first out. -/
structure State where
  phase : Phase := .inReset
  holdreq : Bool := false
  port : PortResult := .idle
  memory : Memory := []
  attention : Attention := {}
  mask : BitVec 6 := 0
  violations : Violations := {}
  scrub : Scrub := {}
  badWords : BadWords := {}
  patrol : Patrol := {}
  reportHeads : Vector ReportHead 80 := Vector.replicate 80 {}
  journal : Journal := {}
  timing : Timing := {}
  lines : Vector Line 64 := Vector.replicate 64 {}
  slots : SlotStore := []
  bankCounts : Vector BankCounts 9 := Vector.replicate 9 {}
  spare : Spare := {}
  monitorUnit : MonitorUnit := {}
  highway : Highway := {}
  pending : List Instr := []
deriving DecidableEq, Repr

/-- Why the part stops. No rule of the manual stops the part: every command has an effect in every
state, so there is no constructor. -/
inductive Fault
deriving DecidableEq, Repr

/-- Why a command has no meaning. `notModelled` is raised by `exec` alone, for a command whose
meaning is not written yet (safe: nothing is claimed of it); at present no command raises it. -/
inductive Refusal where
  | notModelled (mnemonic : String)
deriving DecidableEq, Repr

/-- The machine right after reset: RESETn asserted, every block at the full-reset values of its own
chapter (R19, R37, R65, R85, R107, R116, R131, R143, R146, R150, R152, R153, R163, R164), no
command waiting. -/
def State.reset : State := {}

end Sys2Proof.Machine
end

