-- ==== Sys2Proof/Machine/Arith.lean ====
section
/-!
DEFINITION. Plain arithmetic the rules share: rounding, clamping, saturation, the halves of 32-bit
quantities, and packing of report words.
-/
namespace Sys2Proof.Machine

/-- Quotient rounded to the nearest integer, a half away from zero (section 7 of the scope). -/
def roundHalfAway (num : Int) (den : Nat) : Int :=
  num.sign * (((2 * num.natAbs + den) / (2 * den) : Nat) : Int)

/-- A value moved to the nearer end of a range it lies outside (section 7 of the scope). -/
def clamp (low high x : Nat) : Nat :=
  if x < low then low else if high < x then high else x

/-- A signed value clamped to -32768..32767 (R77, R90). -/
def clampSigned (x : Int) : Int :=
  if x < -32768 then -32768 else if 32767 < x then 32767 else x

/-- A saturating count of largest value `top` raised by `by_` (section 7 of the scope). -/
def satAdd (top x by_ : Nat) : Nat := min top (x + by_)

/-- A natural number as a 16-bit word. -/
def word (x : Nat) : Word := BitVec.ofNat 16 x

/-- A signed value as a 16-bit two's complement word (R165). -/
def signedWord (x : Int) : Word := BitVec.ofInt 16 x

/-- A truth value as bit 0. -/
def bit (b : Bool) : Nat := if b then 1 else 0

/-- The more significant half of a 32-bit quantity (section 7 of the scope). -/
def highHalf (x : Long) : Word := (x >>> 16).setWidth 16

/-- The less significant half of a 32-bit quantity. -/
def lowHalf (x : Long) : Word := x.setWidth 16

/-- Two words, the more significant first. -/
def halves (x : Long) : List Word := [highHalf x, lowHalf x]

/-- The 32-bit quantity held in two words. -/
def ofHalves (high low : Word) : Long := high ++ low

/-- A 16-bit word built from fields: each entry is a value and the place of its lowest bit. -/
def pack (fields : List (Nat × Nat)) : Word :=
  word (fields.foldl (fun acc f => acc + f.1 * 2 ^ f.2) 0)

end Sys2Proof.Machine
end

