-- ==== Sys2Proof/Machine/Codes.lean ====
section
/-!
DEFINITION. The codes the manual gives to states, causes, results and kinds.
-/
namespace Sys2Proof.Machine

/-- Line state codes (R16). -/
def LineState.code : LineState → Nat
  | .out => 0 | .hunting => 1 | .filling => 2 | .running => 3 | .dead => 4

/-- The in-service states (section 1.5). -/
def LineState.inService (x : LineState) : Bool := x != .out

/-- Framer state codes (R16). -/
def FramerState.code : FramerState → Nat
  | .hunt => 0 | .confirm => 1 | .locked => 2

/-- LINE_STATE cause codes (R16). -/
def LineCause.code : LineCause → Nat
  | .none => 0 | .serviceIn => 1 | .serviceOut => 2 | .locked => 3 | .lost => 4 | .started => 5
  | .underrun => 6 | .tagMismatch => 7 | .recentre => 8 | .structural => 9 | .dead => 10
  | .alive => 11 | .restartLine => 12

/-- SLIP_UNIT values (R24) and the unit of a SLIP event (R56). -/
def SlipUnit.code : SlipUnit → Nat
  | .frame => 0 | .group => 1

/-- Last decision codes (R64). -/
def Decision.code : Decision → Nat
  | .idle => 0 | .fill => 1 | .start => 2 | .normal => 3 | .repeatUnit => 4 | .deleteUnit => 5
  | .underrun => 6 | .tagMismatch => 7 | .recentre => 8

/-- SPARE_PHASE state codes (R129). -/
def SpareState.code : SpareState → Nat
  | .standby => 0 | .mirror _ => 1 | .spared _ => 2 | .restore _ => 3

/-- SPARE_PHASE cause codes (R129). -/
def SpareCause.code : SpareCause → Nat
  | .none => 0 | .swap => 1 | .auto => 2 | .complete => 3 | .returned => 4 | .cancel => 5
  | .restart => 6

/-- Coverage mark codes (section 9.8, store record). -/
def Mark.code : Mark → Nat
  | .notConcerned => 0 | .pending => 1 | .covered => 2

/-- The bus's number in BUS_STATE (R92) and in the settings (R104). -/
def busCode : Bus → Nat
  | .a => 0 | .b => 1

/-- Monitor state codes (R92). -/
def MonitorState.code : MonitorState → Nat
  | .unqualified => 0 | .good => 1 | .failed => 2

/-- BUS_STATE cause codes (R92). -/
def BusCause.code : BusCause → Nat
  | .qualified => 1 | .badFrames => 2 | .missingClock => 3 | .frequency => 4

/-- Selector state codes (R97). -/
def SelectorState.code : SelectorState → Nat
  | .free => 0 | .on .a => 1 | .on .b => 2 | .holdover => 3

/-- SELECTOR cause codes (R97). -/
def SelectorCause.code : SelectorCause → Nat
  | .busGood => 1 | .busFailed => 2 | .revert => 3 | .force => 4 | .holdLatch => 5
  | .latchCleared => 6 | .settings => 7

/-- Force setting values (R104). -/
def Force.code : Force → Nat
  | .none => 0 | .bus .a => 1 | .bus .b => 2 | .holdover => 3

/-- Overflow action codes (R134). -/
def OverflowAction.code : OverflowAction → Nat
  | .none => 0 | .journal => 1 | .freezeAll => 2 | .journalFreeze => 3

/-- Whether an overflow action posts MONITOR_OVERFLOW (R138). -/
def OverflowAction.posts : OverflowAction → Bool
  | .none => false | .journal => true | .freezeAll => false | .journalFreeze => true

/-- Whether an overflow action sets the global freeze (R138). -/
def OverflowAction.freezes : OverflowAction → Bool
  | .none => false | .journal => false | .freezeAll => true | .journalFreeze => true

/-- Monitor event codes (R136). -/
def MonitorEvent.code : MonitorEvent → Nat
  | .officeFrames => 0 | .repeats => 1 | .deletes => 2 | .alignErrors => 3 | .overruns => 4
  | .underruns => 5 | .substituted => 6 | .storeCorrected => 7 | .storeUncorrected => 8
  | .linesNotRunning => 9 | .fillAtOrAbove => 10 | .fillBelow => 11

/-- Event kinds numbered from 0; the manual's code is one more (section 11.6). -/
def Kind.index : Kind → Fin 15
  | .slip => 0 | .lineState => 1 | .windowDone => 2 | .slipForecast => 3
  | .storeUncorrectable => 4 | .requestRefused => 5 | .controlEcc => 6 | .protect => 7
  | .busState => 8 | .selector => 9 | .sparePhase => 10 | .monitorOverflow => 11
  | .holdLatch => 12 | .journalSlotBad => 13 | .restart => 14

/-- Event kind codes 1 to 15 (section 11.6). -/
def Kind.code (k : Kind) : Nat := k.index.val + 1

/-- RESULT codes (R159). -/
def RequestResult.code : RequestResult → Nat
  | .none => 0 | .accepted => 1 | .acceptedClamped => 2 | .refused => 3 | .poisoned => 4

/-- REASON codes (R159). -/
def Reason.code : Reason → Nat
  | .none => 0 | .badField => 1 | .badBank => 2 | .badCapacity => 3 | .outOfBank => 4
  | .overlap => 5 | .conflict => 6 | .spareBusy => 7 | .nothingToCancel => 8 | .holdActive => 9
  | .noBus => 10 | .overflowPending => 11

/-- The alignment code of a group position (section 1.1). -/
def alignmentCode : GroupPos → Octet
  | 0 => 0x1E | 1 => 0x63 | 2 => 0xB4 | 3 => 0xD9

/-- The group position whose alignment code an octet is, if it is one (section 1.1). -/
def positionOfCode (o : Octet) : Option GroupPos :=
  if o = 0x1E then some 0 else if o = 0x63 then some 1 else if o = 0xB4 then some 2
  else if o = 0xD9 then some 3 else none

end Sys2Proof.Machine
end

