-- ==== Sys2Proof/Machine/Layout.lean ====
section
/-!
DEFINITION. The layout of control memory (section 9.8) and the owner of every word (R145).
Addresses here are word addresses; word w is at byte offset 2w (R144).
-/
namespace Sys2Proof.Machine

/-- Who owns a word of control memory (R145). -/
inductive Owner where
  | host
  | device
  | unassigned
deriving DecidableEq, Repr

/-- The record number (section 10.1). -/
def Record.number : Record → Fin 80
  | .directory => 0
  | .timing => 1
  | .store => 2
  | .monitor m => ⟨3 + m.val, by omega⟩
  | .line n => ⟨16 + n.val, by omega⟩

/-- The record a number names; 11 to 15 and numbers above 79 name none (section 10.1). -/
def recordOf (k : Nat) : Option Record :=
  if k = 0 then some .directory
  else if k = 1 then some .timing
  else if k = 2 then some .store
  else if h : 3 ≤ k ∧ k ≤ 10 then some (.monitor ⟨k - 3, by omega⟩)
  else if h : 16 ≤ k ∧ k ≤ 79 then some (.line ⟨k - 16, by omega⟩)
  else none

/-- The record after this one in the patrol's round (R156): 0 through 10, 16 through 79, then 0. -/
def Record.next : Record → Record
  | .directory => .timing
  | .timing => .store
  | .store => .monitor 0
  | .monitor m => if h : m.val + 1 < 8 then .monitor ⟨m.val + 1, h⟩ else .line 0
  | .line n => if h : n.val + 1 < 64 then .line ⟨n.val + 1, h⟩ else .directory

/-- The word address of the record's word 0 (section 9.8). -/
def Record.base : Record → Nat
  | .directory => 0
  | .timing => 128
  | .store => 256
  | .monitor m => 512 + 32 * m.val
  | .line n => 2048 + 64 * n.val

/-- The word address of word 0 of journal slot s (section 9.8). -/
def journalBase (slot : Fin 128) : Nat := 6144 + 16 * slot.val

/-- The first word of the journal area. -/
def journalStart : Nat := 6144

/-- Which report words a record's layout table lists (section 9.8). -/
def reportListed : Record → Nat → Bool
  | .directory, i => (16 ≤ i && i ≤ 66) || (120 ≤ i && i ≤ 123)
  | .timing, i => 16 ≤ i && i ≤ 50
  | .store, i => 16 ≤ i && i ≤ 123
  | .monitor _, i => 16 ≤ i && i ≤ 28
  | .line _, i => 16 ≤ i && i ≤ 63

/-- The owner of word i of a record: the request half is the host's, the listed report words are
the part's, and no one owns the rest (R145). -/
def recordOwner (r : Record) (i : Nat) : Owner :=
  if i < 16 then .host else if reportListed r i then .device else .unassigned

/-- The record a word address lies in, and the word's offset within it (section 9.8). -/
def recordAt (w : Nat) : Option (Record × Nat) :=
  if w < 128 then some (.directory, w)
  else if w < 256 then some (.timing, w - 128)
  else if w < 512 then some (.store, w - 256)
  else if h : w < 768 then some (.monitor ⟨(w - 512) / 32, by omega⟩, (w - 512) % 32)
  else if w < 2048 then none
  else if h : w < 6144 then some (.line ⟨(w - 2048) / 64, by omega⟩, (w - 2048) % 64)
  else none

/-- The owner of a word of control memory (R145): bytes 0x0600 to 0x0FFF are unassigned, and of a
journal slot words 2 and 3, TAKESER, are the host's and the others the part's. -/
def ownerOf (w : Nat) : Owner :=
  match recordAt w with
  | some (r, i) => recordOwner r i
  | none =>
    if journalStart ≤ w && w < Config.memoryWords then
      if (w - journalStart) % 16 = 2 || (w - journalStart) % 16 = 3 then .host else .device
    else .unassigned

/-- The journal slot whose TAKESER words a word address is one of, if it is. -/
def takeserSlot (w : Nat) : Option (Fin 128) :=
  if h : journalStart ≤ w ∧ w < 8192 then
    if (w - journalStart) % 16 = 2 || (w - journalStart) % 16 = 3 then
      some ⟨(w - journalStart) / 16, by simp only [journalStart] at h ⊢; omega⟩
    else none
  else none

/-- The request words that hold a field of the record, REQSER apart (section 9.8, R158). -/
def requestFields : Record → List Nat
  | .directory => [1, 2, 3, 4]
  | .timing => [1, 2, 3, 4, 5, 6, 7, 8]
  | .store => [1, 2, 3, 4]
  | .monitor _ => [1, 2, 3, 4, 5, 6, 7, 8, 9, 10, 11, 12]
  | .line _ => [1, 2, 3, 4, 5, 6, 7, 8, 9, 10, 11, 12, 13, 14, 15]

/-- The four identity words of the directory (section 9.8). -/
def identityWords : List (Nat × Word) :=
  [(120, Config.partCode), (121, Config.revision), (122, 64), (123, 128)]

/-- Every record, in the order of the patrol's round (R156). -/
def allRecords : List Record :=
  [.directory, .timing, .store] ++ (List.finRange 8).map .monitor ++ (List.finRange 64).map .line

end Sys2Proof.Machine
end

