-- ==== Sys2Proof/Machine/Ops.lean ====
section
/-!
DEFINITION. The named operations over memory and registers that the meanings are built from: the
canonical memories, control memory words with their check bits, the slip store, and one reader and
one writer for each part of the state.
-/
namespace Sys2Proof.Machine

/-! ## Memories in canonical form -/

/-- What a memory in canonical form holds at an address: the entry listed there, or `d`. -/
def cellGet {α : Type} (d : α) : List (Nat × α) → Nat → α
  | [], _ => d
  | (k, v) :: t, a => if k = a then v else cellGet d t a

/-- The memory without any entry at `a`. -/
def cellErase {α : Type} : List (Nat × α) → Nat → List (Nat × α)
  | [], _ => []
  | (k, v) :: t, a => if k = a then cellErase t a else (k, v) :: cellErase t a

/-- The memory with the entry `(a, x)` placed before the first higher address. -/
def cellInsert {α : Type} : List (Nat × α) → Nat → α → List (Nat × α)
  | [], a, x => [(a, x)]
  | (k, v) :: t, a, x => if a < k then (a, x) :: (k, v) :: t else (k, v) :: cellInsert t a x

/-- The memory after `x` is written at `a`; writing what an unlisted address holds lists nothing. -/
def cellPut {α : Type} [DecidableEq α] (d : α) (m : List (Nat × α)) (a : Nat) (x : α) :
    List (Nat × α) :=
  if x = d then cellErase m a else cellInsert (cellErase m a) a x

/-- The canonical form: addresses strictly rising, no entry equal to what an unlisted address
holds. -/
abbrev cellsWf {α : Type} [DecidableEq α] (d : α) (m : List (Nat × α)) : Prop :=
  m.Pairwise (fun p q => p.1 < q.1) ∧ ∀ p ∈ m, p.2 ≠ d

/-- Control memory is in canonical form; an unlisted word is a clean 0 (R154). -/
abbrev Memory.wf (m : Memory) : Prop := cellsWf ({} : MemWord) m

/-- The slip store is in canonical form; an unlisted slot is a part-written one (R23). -/
abbrev SlotStore.wf (m : SlotStore) : Prop := cellsWf ({} : Slot) m

/-! ## The error-correcting code -/

/-- What the code shows of a word with these bits in error (R21, R147): none, one that it corrects, or
more, which it cannot correct (that it detects every error of three bits and more is the model's
choice, assumption 11). -/
def Condition.ofErrors : List Nat → Condition
  | [] => .clean
  | [b] => .single b
  | _ :: _ :: _ => .uncorrectable

/-- The bits in error after an error strikes bit `b`: a bit struck again is right again. -/
def strikeBit (l : List Nat) (b : Nat) : List Nat :=
  if b ∈ l then l.filter (· ≠ b) else l.filter (· < b) ++ b :: l.filter (b < ·)

/-- What the check bits show of a word of control memory (R147). -/
def MemWord.condition (w : MemWord) : Condition := .ofErrors w.errors

/-- The data of a word after correction of a single error (R147, R158). -/
def MemWord.corrected (w : MemWord) : Word :=
  match w.condition with
  | .single b => if b < 16 then w.raw ^^^ (1 <<< b) else w.raw
  | _ => w.raw

/-- A word of control memory struck by an error in bit `b` of its 22. -/
def MemWord.struck (w : MemWord) (b : Nat) : MemWord :=
  { raw := if b < 16 then w.raw ^^^ (1 <<< b) else w.raw, errors := strikeBit w.errors b }

/-- The five conditions of a slot's words, in order. -/
def SlotConditions.toList (c : SlotConditions) : List Condition := [c.w0, c.w1, c.w2, c.w3, c.w4]

/-- What the code shows of the five words of a slot (R21). -/
def Slot.conditions (x : Slot) : SlotConditions :=
  { w0 := .ofErrors x.errors.w0, w1 := .ofErrors x.errors.w1, w2 := .ofErrors x.errors.w2
    w3 := .ofErrors x.errors.w3, w4 := .ofErrors x.errors.w4 }

/-- The slot's bits in error after an error strikes bit `b` of word `i`. -/
def SlotErrors.struck (c : SlotErrors) (i : Fin 5) (b : Nat) : SlotErrors :=
  match i with
  | 0 => { c with w0 := strikeBit c.w0 b }
  | 1 => { c with w1 := strikeBit c.w1 b }
  | 2 => { c with w2 := strikeBit c.w2 b }
  | 3 => { c with w3 := strikeBit c.w3 b }
  | 4 => { c with w4 := strikeBit c.w4 b }

/-- The slot results (R21). -/
inductive SlotResult where
  | clean
  | corrected
  | uncorrectable
deriving DecidableEq, Repr

/-- The result of a slot read, from its five words (R21). -/
def Slot.result (x : Slot) : SlotResult :=
  if x.conditions.toList.any (· == .uncorrectable) then .uncorrectable
  else if x.conditions.toList.any (· != .clean) then .corrected
  else .clean

/-- The words of a slot found uncorrectable, as the set STORE_UNCORRECTABLE carries: bit i for slot
word i (R54, section 11.6). -/
def Slot.uncorrectableSet (x : Slot) : Nat :=
  bit (x.conditions.w0 == .uncorrectable) + 2 * bit (x.conditions.w1 == .uncorrectable)
    + 4 * bit (x.conditions.w2 == .uncorrectable) + 8 * bit (x.conditions.w3 == .uncorrectable)
    + 16 * bit (x.conditions.w4 == .uncorrectable)

/-! ## Control memory -/

/-- The word of control memory at a word address. -/
def State.memWord (s : State) (a : Nat) : MemWord := cellGet {} s.memory a

/-- The state with the stored word at `a` replaced. -/
def State.setMemWord (s : State) (a : Nat) (w : MemWord) : State :=
  { s with memory := cellPut {} s.memory a w }

/-- A write of a word with fresh check bits (R147): the word is clean after it. -/
def State.memWrite (s : State) (a : Nat) (x : Word) : State := s.setMemWord a { raw := x }

/-- Several words written, in order. -/
def State.memWriteAll (s : State) (l : List (Nat × Word)) : State :=
  l.foldl (fun s p => s.memWrite p.1 p.2) s

/-! ## Readers and writers of the parts of the state -/

/-- The part has taken RESETn back and is not held at its full-reset values. -/
def State.outOfReset (s : State) : Bool := s.phase != .inReset

/-- ATTENTION.READY (R150). -/
def State.ready (s : State) : Bool := s.phase == .ready

/-- The line n. -/
def State.line (s : State) (n : LineNo) : Line := s.lines[n]

/-- The state with line n replaced. -/
def State.setLine (s : State) (n : LineNo) (l : Line) : State :=
  { s with lines := s.lines.set n l }

/-- The state with line n changed. -/
def State.modLine (s : State) (n : LineNo) (f : Line → Line) : State := s.setLine n (f (s.line n))

/-- The line's coverage mark and count (R120). -/
def State.cover (s : State) (n : LineNo) : Coverage := s.spare.coverage[n]

/-- The state with the line's coverage replaced. -/
def State.setCover (s : State) (n : LineNo) (c : Coverage) : State :=
  { s with spare := { s.spare with coverage := s.spare.coverage.set n c } }

/-- The corrected and uncorrected counts of a physical bank (R22). -/
def State.bank (s : State) (b : Fin 9) : BankCounts := s.bankCounts[b]

/-- The state with a physical bank's counts replaced. -/
def State.setBank (s : State) (b : Fin 9) (c : BankCounts) : State :=
  { s with bankCounts := s.bankCounts.set b c }

/-- Monitor m (R133). -/
def State.monitor (s : State) (m : MonitorNo) : Monitor := s.monitorUnit.monitors[m]

/-- The state with monitor m replaced. -/
def State.setMonitor (s : State) (m : MonitorNo) (x : Monitor) : State :=
  { s with monitorUnit := { s.monitorUnit with monitors := s.monitorUnit.monitors.set m x } }

/-- The occurrences gathered for line n in the office frame in progress (R135). -/
def State.gathered (s : State) (n : LineNo) : Gathered := s.monitorUnit.gathered[n]

/-- The state with line n's gathered occurrences replaced. -/
def State.setGathered (s : State) (n : LineNo) (x : Gathered) : State :=
  { s with monitorUnit := { s.monitorUnit with gathered := s.monitorUnit.gathered.set n x } }

/-- A record's common head (R151). -/
def State.head (s : State) (r : Record) : ReportHead := s.reportHeads[r.number]

/-- The state with a record's common head replaced. -/
def State.setHead (s : State) (r : Record) (x : ReportHead) : State :=
  { s with reportHeads := s.reportHeads.set r.number x }

/-- The journal writer's item for a slot (R164). -/
def State.journalSlot (s : State) (i : Fin 128) : JournalSlot := s.journal.slots[i]

/-- The state with a journal slot's item replaced. -/
def State.setJournalSlot (s : State) (i : Fin 128) (x : JournalSlot) : State :=
  { s with journal := { s.journal with slots := s.journal.slots.set i x } }

/-- The bus monitor of a bus (R86). -/
def Timing.bus (t : Timing) : Bus → BusMonitor
  | .a => t.busA
  | .b => t.busB

/-- The timing unit with a bus's monitor replaced. -/
def Timing.setBus (t : Timing) (x : Bus) (m : BusMonitor) : Timing :=
  match x with
  | .a => { t with busA := m }
  | .b => { t with busB := m }

/-- The state with the timing unit changed. -/
def State.modTiming (s : State) (f : Timing → Timing) : State := { s with timing := f s.timing }

/-- The state with the journal writer changed. -/
def State.modJournal (s : State) (f : Journal → Journal) : State := { s with journal := f s.journal }

/-- The state with the sticky bits of ATTENTION changed. -/
def State.modAttention (s : State) (f : Attention → Attention) : State :=
  { s with attention := f s.attention }

/-- The state with spare control changed. -/
def State.modSpare (s : State) (f : Spare → Spare) : State := { s with spare := f s.spare }

/-- The state with the monitor unit changed. -/
def State.modMonitorUnit (s : State) (f : MonitorUnit → MonitorUnit) : State :=
  { s with monitorUnit := f s.monitorUnit }

/-- The state with the highway unit changed. -/
def State.modHighway (s : State) (f : Highway → Highway) : State := { s with highway := f s.highway }

/-- The state with the patrol changed. -/
def State.modPatrol (s : State) (f : Patrol → Patrol) : State := { s with patrol := f s.patrol }

/-- The state with the scrub changed. -/
def State.modScrub (s : State) (f : Scrub → Scrub) : State := { s with scrub := f s.scrub }

/-- The state with the bad-word list changed. -/
def State.modBadWords (s : State) (f : BadWords → BadWords) : State :=
  { s with badWords := f s.badWords }

/-- The state at another phase. -/
def State.setPhase (s : State) (x : Phase) : State := { s with phase := x }

/-- The state with another level of HOLDREQ. -/
def State.setHoldreq (s : State) (x : Bool) : State := { s with holdreq := x }

/-- The state with a bus's monitor changed. -/
def State.modBus (s : State) (x : Bus) (f : BusMonitor → BusMonitor) : State :=
  s.modTiming fun t => t.setBus x (f (t.bus x))

/-- The other timing bus. -/
def otherBus : Bus → Bus
  | .a => .b
  | .b => .a

/-- The office group position: the office frame counter modulo 4 (R98). -/
def Timing.position (t : Timing) : GroupPos := Fin.ofNat 4 t.frameCounter.toNat

/-- The low 32 bits of the office frame counter, the stamp of journal entries (R165). -/
def Timing.stamp (t : Timing) : Long := t.frameCounter.setWidth 32

/-- The state after each line has been served in ascending order. -/
def State.forLines (s : State) (f : LineNo → State → State) : State :=
  (List.finRange 64).foldl (fun s n => f n s) s

/-! ## The slip store -/

/-- The physical bank that holds a working bank's own slots. -/
def workingBank (k : Fin 8) : Fin 9 := ⟨k.val, by omega⟩

/-- The spare bank, bank 8 (R20). -/
def spareBank : Fin 9 := 8

/-- The key of a physical slot in the store. -/
def slotKey (b : Fin 9) (i : Nat) : Nat := 256 * b.val + i

/-- The slot at a physical bank and slot number. -/
def State.slot (s : State) (b : Fin 9) (i : Nat) : Slot := cellGet {} s.slots (slotKey b i)

/-- The state with a physical slot replaced. -/
def State.setSlot (s : State) (b : Fin 9) (i : Nat) (x : Slot) : State :=
  { s with slots := cellPut {} s.slots (slotKey b i) x }

/-- Slip unit in slots: 1 in frame mode, 4 in group mode (R24). -/
def SlipUnit.slots : SlipUnit → Nat
  | .frame => 1
  | .group => 4

/-- u of a placement (R24). -/
def Placement.u (p : Placement) : Nat := p.unit.slots

/-- The largest held count H_max = C − u (R25). -/
def Placement.heldMax (p : Placement) : Nat := p.capacity - p.u

/-- The usable capacity K = 320 · H_max bits (R25). -/
def Placement.usable (p : Placement) : Nat := 320 * p.heldMax

/-- The slot number, in the bank, of a relative position of the ring (R25). -/
def Placement.slotAt (p : Placement) (j : Nat) : Nat := p.base + j % p.capacity

end Sys2Proof.Machine
end

