-- ==== Sys2Proof/Machine/Journal.lean ====
section
/-!
DEFINITION. The journal writer (chapter 11): posting a report, its read-back, the journal's own
failures and what is counted as unposted.
-/
namespace Sys2Proof.Machine

/-- The serial after one: 0xFFFFFFFF is followed by 1, so 0 is never posted (R165). A serial that a HELD
slot still carries is not skipped, which is the model's choice (assumption 30). -/
def nextSerialAfter (x : Long) : Long := if x = 0xFFFFFFFF then 1 else x + 1

/-- The lowest-numbered FREE slot (R165). -/
def Journal.freeSlot (j : Journal) : Option (Fin 128) :=
  (List.finRange 128).find? (fun i => j.slots[i].state == .free)

/-- The number of HELD slots (R164). -/
def Journal.heldCount (j : Journal) : Nat :=
  (List.finRange 128).countP (fun i => j.slots[i].state == .held)

/-- The number of BAD slots (R164). -/
def Journal.badCount (j : Journal) : Nat :=
  (List.finRange 128).countP (fun i => j.slots[i].state == .bad)

/-- Whether the kind mask lets a kind be posted (R162). -/
def Journal.lets (j : Journal) (k : Kind) : Bool := j.kindMask.getLsbD k.index.val

/-- The words a post writes, in the order it writes them, POSTSER last (R165). -/
def postedWords (x : Report) (serial : Long) : List (Nat × Word) :=
  [(4, pack [(x.kind.code, 8), (x.record, 0)]), (5, highHalf x.stamp), (6, lowHalf x.stamp)]
    ++ (List.range 9).map (fun i => (7 + i, x.detail.getD i 0))
    ++ [(0, highHalf serial), (1, lowHalf serial)]

/-- The slot's device-owned words, which the read-back checks (R166). -/
def readBackWords : List Nat := [0, 1, 4, 5, 6, 7, 8, 9, 10, 11, 12, 13, 14, 15]

/-- A report of this kind counted as unposted (R168): the count saturates at 65535. -/
def State.countUnposted (s : State) (k : Kind) : State :=
  s.modJournal fun j =>
    { j with unposted := j.unposted.set k.index (satAdd 65535 j.unposted[k.index] 1) }

/-- A report that finds no FREE slot (R168). -/
def State.noRoom (s : State) (k : Kind) : State :=
  (s.countUnposted k).modAttention fun a => { a with lost := true }

/-- The journal halts and CRITICAL is set (R166). -/
def State.haltJournal (s : State) : State :=
  (s.modJournal fun j => { j with halted := true }).modAttention fun a => { a with critical := true }

/-- Errors that strike words of the slot just written. -/
def State.strikeSlot (s : State) (i : Fin 128) (hits : List (Fin 16 × Nat)) : State :=
  hits.foldl (fun s h => s.setMemWord (journalBase i + h.1.val)
    ((s.memWord (journalBase i + h.1.val)).struck h.2)) s

/-- The read-back's rewriting of words with one bit in error from the writer's copy (R166). -/
def State.mendSlot (s : State) (i : Fin 128) (copy : List (Nat × Word)) : State :=
  copy.foldl (fun s p =>
    match (s.memWord (journalBase i + p.1)).condition with
    | .single _ => s.memWrite (journalBase i + p.1) p.2
    | _ => s) s

/-- Whether the read-back of the slot finds a word uncorrectable (R166). -/
def State.slotFails (s : State) (i : Fin 128) : Bool :=
  readBackWords.any (fun k => (s.memWord (journalBase i + k)).condition == .uncorrectable)

/-- How placing a report in a slot came out: no slot is FREE, the post waits in progress, it stands,
or its read-back failed. -/
inductive Placed where
  | noSlot
  | waits
  | stands
  | failed (slot : Fin 128) (serial : Long)
deriving DecidableEq, Repr

/-- The words of a post in progress from the first not yet written up to the k-th (R165); the next
serial advances after the last of the fourteen. -/
def State.writeUpTo (s : State) (c : PostInProgress) (k : Nat) : State :=
  (s.memWriteAll ((((postedWords c.report c.serial).take k).drop c.written).map fun p =>
    (journalBase c.slot + p.1, p.2))).modJournal fun j =>
      { j with nextSerial := if 14 ≤ k then nextSerialAfter c.serial else j.nextSerial }

/-- The read-back of a slot that holds all its words (R166): words with one bit in error are mended,
and an uncorrectable word makes the slot BAD. -/
def State.readBack (s : State) (i : Fin 128) (x : Report) (serial : Long) : State × Placed :=
  let s1 := s.mendSlot i (postedWords x serial)
  if s.slotFails i then (s1.setJournalSlot i { state := .bad, serial := serial }, .failed i serial)
  else (s1.setJournalSlot i { state := .held, serial := serial }, .stands)

/-- A post in progress goes on (R148, R165, R166): to the next word at which it waits for a grant, or
to its end with the read-back. -/
def State.writeOn (s : State) (c : PostInProgress) : State × Placed :=
  match c.plan.stops with
  | k :: rest =>
    let c' := { c with written := max c.written k, plan := { c.plan with stops := rest } }
    ((s.writeUpTo c k).modJournal fun j => { j with current := some c' }, .waits)
  | [] =>
    (((s.writeUpTo c 14).modJournal fun j => { j with current := none }).strikeSlot c.slot
      c.plan.hits).readBack c.slot c.report c.serial

/-- A report placed in the lowest FREE slot (R165): the slot is HELD with its post in progress, which
takes the plan of the next slot write. -/
def State.place (s : State) (x : Report) (stage : PostStage) : State × Placed :=
  match s.journal.freeSlot with
  | none => (s, .noSlot)
  | some i =>
    let serial := s.journal.nextSerial
    let c : PostInProgress :=
      { slot := i, serial := serial, report := x, stage := stage, written := 0
        plan := s.journal.plans.headD {} }
    ((s.setJournalSlot i { state := .held, serial := serial, posting := true }).modJournal
      fun j => { j with plans := j.plans.tail }).writeOn c

/-- The report that a slot has gone bad (R166), stamped when the read-back fails (R165). -/
def slotBadReport (x : Report) (stamp : Long) (slot : Fin 128) (serial : Long) : Report :=
  { kind := .journalSlotBad, record := 0, stamp := stamp
    detail := [word slot.val] ++ halves serial ++ [word x.kind.code] }

/-- What follows the retry of a report (R166, R168): a failure here halts the journal. -/
def Report.afterRetry (x : Report) : State × Placed → State
  | (s, .noSlot) => s.noRoom x.kind
  | (s, .waits) => s
  | (s, .stands) => s
  | (s, .failed _ _) => s.haltJournal.countUnposted x.kind

/-- The retry of a report whose first placing failed (R166). -/
def State.retry (s : State) (x : Report) : State := x.afterRetry (s.place x .retry)

/-- What follows the placing of JOURNAL_SLOT_BAD (R166): the retry of the report x, unless a failure
here halts the journal, when both are counted. -/
def Report.afterSlotBad (x : Report) : State × Placed → State
  | (s, .noSlot) => (s.noRoom .journalSlotBad).retry x
  | (s, .waits) => s
  | (s, .stands) => s.retry x
  | (s, .failed _ _) => (s.haltJournal.countUnposted .journalSlotBad).countUnposted x.kind

/-- What follows the first placing of a report (R166, R168): after a failed read-back JOURNAL_SLOT_BAD
is posted, unless masked, and the report is tried again. -/
def Report.afterFirst (x : Report) : State × Placed → State
  | (s, .noSlot) => s.noRoom x.kind
  | (s, .waits) => s
  | (s, .stands) => s
  | (s, .failed slot serial) =>
    if s.journal.lets .journalSlotBad then
      x.afterSlotBad (s.place (slotBadReport x s.timing.stamp slot serial) (.slotBad x))
    else s.retry x

/-- A report handled in turn once it has passed the mask and the journal is not halted (R165, R166,
R168). -/
def State.postUnmasked (s : State) (x : Report) : State := x.afterFirst (s.place x .first)

/-- The writer takes a report that has passed the mask (R165, R168): while a post is in progress the
report waits its turn. -/
def State.handle (s : State) (x : Report) : State :=
  if s.journal.current.isSome then s.modJournal fun j => { j with waiting := j.waiting ++ [x] }
  else if s.journal.halted then s.countUnposted x.kind
  else s.postUnmasked x

/-- What follows a placing, by its stage (R166). -/
def PostInProgress.after (c : PostInProgress) (x : State × Placed) : State :=
  match c.stage with
  | .first => c.report.afterFirst x
  | .slotBad original => original.afterSlotBad x
  | .retry => c.report.afterRetry x

/-- The writer's grants of a local cycle (R148, R165): a post in progress goes on, and the reports that
wait for it are then handled in order. -/
def State.goOn (s : State) : State :=
  match s.journal.current with
  | none => s
  | some c =>
    let s1 := c.after (s.writeOn c)
    s1.journal.waiting.foldl State.handle (s1.modJournal fun j => { j with waiting := [] })

/-- The stops that plans still hold, of the post in progress and of the slot writes to come. -/
def Journal.stopsLeft (j : Journal) : Nat :=
  (match j.current with
    | some c => c.plan.stops.length
    | none => 0) + (j.plans.map fun p => p.stops.length).sum

/-- The journal writer served, up to `fuel` stops, while it has a post in progress. -/
def State.drainUpTo (s : State) : Nat → State
  | 0 => s
  | fuel + 1 => if s.journal.current.isSome then s.goOn.drainUpTo fuel else s

/-- The journal writer served before the patrol and the scrub (R148): while a post is in progress or
reports wait, it is granted every word it wants. Each turn passes a stop, so the stops bound the turns. -/
def State.drainPosts (s : State) : State := s.drainUpTo (s.journal.stopsLeft + 1)

/-- A post in progress completed with its read-back, JOURNAL_SLOT_BAD and retry (R155, R166), with no
more waiting for grants. -/
def State.finishPost (s : State) : State :=
  match s.journal.current with
  | none => s
  | some c =>
    let s1 := s.modJournal fun j =>
      { j with plans := j.plans.map fun p => { p with stops := [] } }
    let c1 := { c with plan := { c.plan with stops := [] } }
    c1.after (s1.writeOn c1)

/-- A block's report of an event (R165, R168, R169): discarded before READY first becomes 1,
counted in the restart drop count during an engine restart, dropped when its kind is masked, and
otherwise handled by the writer in turn. -/
def State.post (s : State) (k : Kind) (record : Nat) (detail : List Word) : State :=
  match s.phase with
  | .inReset => s
  | .initialising => s
  | .restarting =>
    s.modJournal fun j => { j with dropCount := satAdd 65535 j.dropCount 1 }
  | .ready =>
    if s.journal.lets k then
      s.handle { kind := k, record := record, stamp := s.timing.stamp, detail := detail }
    else s

/-- A report that concerns line n carries the line record's number, 16 + n (R165). -/
def State.postLine (s : State) (k : Kind) (n : LineNo) (detail : List Word) : State :=
  s.post k (16 + n.val) detail

end Sys2Proof.Machine
end

