-- ==== Sys2Proof/Machine/Flags.lean ====
section
/-!
DEFINITION. The flags the host watches: the ATTENTION register and INTn (R149, R150).
-/
namespace Sys2Proof.Machine

/-- ATTENTION.JOURNAL (R150, R169): at least one slot is HELD. -/
def State.journalBit (s : State) : Bool := 0 < s.journal.heldCount

/-- The six bits of ATTENTION (R150): READY, JOURNAL, LOST, PROTECT, PROMPT_LOST, CRITICAL. -/
def State.attentionBits (s : State) : BitVec 6 :=
  BitVec.ofNat 6 (bit s.ready + 2 * bit s.journalBit + 4 * bit s.attention.lost
    + 8 * bit s.attention.protect + 16 * bit s.attention.promptLost
    + 32 * bit s.attention.critical)

/-- ATTENTION as a register read returns it (R149). -/
def State.attentionWord (s : State) : Word := s.attentionBits.setWidth 16

/-- INTn is asserted (R150): at least one bit is set both in ATTENTION and in MASK. -/
def State.interrupt (s : State) : Bool := s.attentionBits &&& s.mask != 0

end Sys2Proof.Machine
end

