-- ==== Sys2Proof/Machine/MonitorUnit.lean ====
section
/-!
DEFINITION. The monitor unit (chapter 8): samples, counting, overflow and the global freeze.
-/
namespace Sys2Proof.Machine

/-- What one line adds to the sample of a monitor for a closed office frame (R136). -/
def lineSample (e : MonitorEvent) (level : Nat) (x : Gathered) : Nat :=
  match e with
  | .officeFrames => 0
  | .repeats => x.repeats
  | .deletes => x.deletes
  | .alignErrors => x.alignErrors
  | .overruns => x.overruns
  | .underruns => x.underruns
  | .substituted => x.substituted
  | .storeCorrected => x.storeCorrected
  | .storeUncorrected => x.storeUncorrected
  | .linesNotRunning => bit (x.state == .hunting || x.state == .filling || x.state == .dead)
  | .fillAtOrAbove => match x.fill with
    | some f => bit (level ≤ f)
    | none => 0
  | .fillBelow => match x.fill with
    | some f => bit (f < level)
    | none => 0

/-- The sample of a monitor's settings for the closed office frame (R136). -/
def MonitorUnit.sample (u : MonitorUnit) (c : MonitorSettings) : Nat :=
  match c.event with
  | .officeFrames => 1
  | e =>
    match c.line with
    | some n => lineSample e c.level u.gathered[n]
    | none => ((List.finRange 64).map fun n => lineSample e c.level u.gathered[n]).sum

/-- The condition c on a sample (R137). -/
def MonitorSettings.holds (c : MonitorSettings) (x : Nat) : Bool :=
  if c.less then x < c.threshold else c.threshold ≤ x

/-- The increment a sample gives (R137). -/
def Monitor.increment (m : Monitor) (x : Nat) : Nat :=
  if m.settings.threshold = 0 then x
  else if m.settings.edge then bit (m.settings.holds x && !m.edgeHistory)
  else bit (m.settings.holds x)

/-- The edge history after a counted sample (R137). -/
def Monitor.nextHistory (m : Monitor) (x : Nat) : Bool :=
  if m.settings.threshold = 0 then m.edgeHistory else m.settings.holds x

/-- The detail words of MONITOR_OVERFLOW (R138): line 255 is all lines. -/
def overflowDetail (i : MonitorNo) (m : Monitor) (count : Long) (freeze : Bool) : List Word :=
  [word i.val, word m.settings.event.code,
    word (match m.settings.line with | some n => n.val | none => 255)] ++ halves count
    ++ [word m.settings.overflowAction.code, word (bit freeze)]

/-- A monitor's count wraps (R138): OVF is set and the overflow action in force acts. The freeze word of
the report shows the freeze as it stands then, one set at the same tick by a monitor of a lower number
included (assumption 7). -/
def State.overflowMonitor (s : State) (i : MonitorNo) : State :=
  let m := s.monitor i
  let s1 := s.setMonitor i { m with overflow := true }
  let s2 := if m.settings.overflowAction.freezes then
      s1.modMonitorUnit fun u => { u with freeze := true }
    else s1
  if m.settings.overflowAction.posts then
    s2.post .monitorOverflow (3 + i.val) (overflowDetail i m m.count s2.monitorUnit.freeze)
  else s2

/-- A monitor that is enabled and armed counts its sample of the closed frame (R137). -/
def State.countMonitor (s : State) (i : MonitorNo) : State :=
  let m := s.monitor i
  let x := s.monitorUnit.sample m.settings
  let total := m.count.toNat + m.increment x
  let s1 := s.setMonitor i { m with
    count := BitVec.ofNat 32 total, edgeHistory := m.nextHistory x }
  if 4294967295 < total then s1.overflowMonitor i else s1

/-- A monitor at the tick that closes an office frame (R137): it counts if it is armed and the
freeze was clear, and an enabled monitor is armed from here on. -/
def State.closeMonitor (s : State) (frozen : Bool) (i : MonitorNo) : State :=
  if (s.monitor i).settings.enabled then
    let s1 := if (s.monitor i).armed && !frozen then s.countMonitor i else s
    s1.setMonitor i { s1.monitor i with armed := true }
  else s

/-- All eight monitors at the tick that closes an office frame; a freeze set by one of them takes
effect after all have counted it (R138). They act in ascending number, which the manual leaves open:
it orders their reports, and a later monitor's report shows a freeze that an earlier one has set
(assumption 7). -/
def State.closeMonitors (s : State) : State :=
  (List.finRange 8).foldl (fun t i => t.closeMonitor s.monitorUnit.freeze i) s

/-- LOAD_PRESET (R140). -/
def State.loadPreset (s : State) (i : MonitorNo) : State :=
  s.setMonitor i { s.monitor i with count := (s.monitor i).settings.preset }

/-- CLEAR_OVERFLOW (R140). -/
def State.clearOverflow (s : State) (i : MonitorNo) : State :=
  s.setMonitor i { s.monitor i with overflow := false }

/-- Whether a monitor holds the freeze (R139): OVF set under an action that includes freeze. -/
def Monitor.holdsFreeze (m : Monitor) : Bool :=
  m.overflow && m.settings.overflowAction.freezes

/-- Whether UNFREEZE is refused (R139), whether the freeze is set or clear: where it is clear and OVF
still stands under a freezing action the rule can be read both ways, and refusing is the model's
choice (assumption 28). -/
def State.freezeHeld (s : State) : Bool := (List.finRange 8).any fun i => (s.monitor i).holdsFreeze

/-- UNFREEZE where it is not refused (R139): the freeze is cleared and every monitor disarmed. -/
def State.unfreeze (s : State) : State :=
  (List.finRange 8).foldl
    (fun t i => t.setMonitor i { t.monitor i with armed := false, edgeHistory := false })
    (s.modMonitorUnit fun u => { u with freeze := false })

/-- Settings that decide what a monitor samples and counts; a change of one of them sets the edge
history to false (R134). -/
def MonitorSettings.sameCondition (a b : MonitorSettings) : Bool :=
  a.event == b.event && a.line == b.line && a.level == b.level && a.threshold == b.threshold
    && a.less == b.less && a.edge == b.edge

/-- Monitor settings put in force (R134): a monitor taken from OFF to ON is disarmed, and that or a
change of condition sets the edge history to false; the count and OVF are kept. -/
def Monitor.configure (m : Monitor) (c : MonitorSettings) : Monitor :=
  let enabled := c.enabled && !m.settings.enabled
  { m with
    settings := c
    armed := m.armed && !enabled
    edgeHistory := m.edgeHistory && !enabled && m.settings.sameCondition c }

/-- A monitor after an engine restart (R143). -/
def Monitor.restarted (m : Monitor) : Monitor := { count := m.count, overflow := m.overflow }

end Sys2Proof.Machine
end

