-- ==== Sys2Proof/Machine/Spare.lean ====
section
/-!
DEFINITION. Spare control (chapter 7): the routing of accesses, coverage and completion, the spare
actions and the automatic swap; and with it line state changes, store resets and emptying, which
touch coverage.
-/
namespace Sys2Proof.Machine

/-! ## Routing -/

/-- The physical bank that serves reads of working bank k (R119). -/
def SpareState.readBank (x : SpareState) (k : Fin 8) : Fin 9 :=
  match x with
  | .standby => workingBank k
  | .mirror _ => workingBank k
  | .spared j => if j = k then spareBank else workingBank k
  | .restore j => if j = k then spareBank else workingBank k

/-- The physical banks that serve writes of working bank k (R119). -/
def SpareState.writeBanks (x : SpareState) (k : Fin 8) : List (Fin 9) :=
  match x with
  | .standby => [workingBank k]
  | .mirror j => if j = k then [workingBank k, spareBank] else [workingBank k]
  | .spared j => if j = k then [spareBank] else [workingBank k]
  | .restore j => if j = k then [workingBank k, spareBank] else [workingBank k]

/-- The bank being mirrored or restored, while spare control does so. -/
def SpareState.operating : SpareState → Option (Fin 8)
  | .standby => none
  | .mirror k => some k
  | .spared _ => none
  | .restore k => some k

/-- The spared bank, if there is one (R118). -/
def SpareState.bank : SpareState → Option (Fin 8)
  | .standby => none
  | .mirror k => some k
  | .spared k => some k
  | .restore k => some k

/-- A write of slot i of working bank k, to every physical bank named for it (R30, R119). -/
def State.writeSlot (s : State) (k : Fin 8) (i : Nat) (x : Slot) : State :=
  (s.spare.state.writeBanks k).foldl (fun s b => s.setSlot b i x) s

/-! ## Coverage and completion -/

/-- The number of lines outstanding: the PENDING marks (R121). -/
def Spare.outstanding (x : Spare) : Nat :=
  (List.finRange 64).countP (fun n => x.coverage[n].mark == .pending)

/-- The mark a line takes at the start of an operation on bank k (R120). -/
def startMark (k : Fin 8) (l : Line) : Mark :=
  if l.placement.bank = k then
    match l.state with
    | .out => .covered
    | .dead => .covered
    | .hunting => .pending
    | .filling => .pending
    | .running => .pending
  else .notConcerned

/-- Every mark NOT_CONCERNED and every count 0, as in STANDBY and SPARED (R120). -/
def clearedCoverage : Vector Coverage 64 := Vector.replicate 64 {}

/-- The marks and counts set at the start of an operation on bank k (R120). -/
def State.startCoverage (s : State) (k : Fin 8) : Vector Coverage 64 :=
  (List.finRange 64).foldl (fun v (n : LineNo) => v.set n.val { mark := startMark k (s.line n) })
    clearedCoverage

/-- A change of state of spare control: the marks are set as R120 gives them, the cause is kept and
SPARE_PHASE is posted with `bank` as the spared bank (R129). -/
def State.enterSpare (s : State) (new : SpareState) (cause : SpareCause) (bank : Fin 8) : State :=
  let coverage := match new.operating with
    | some k => s.startCoverage k
    | none => clearedCoverage
  let s1 := s.modSpare fun x => { x with state := new, coverage := coverage, lastCause := cause }
  s1.post .sparePhase 2
    [word s.spare.state.code, word new.code, word bank.val, word cause.code]

/-- The state an operation completes into (R122). -/
def SpareState.completed : SpareState → SpareState
  | .standby => .standby
  | .mirror k => .spared k
  | .spared k => .spared k
  | .restore _ => .standby

/-- An operation that no line leaves PENDING completes at this event (R122). -/
def State.settleSpare (s : State) : State :=
  match s.spare.state.operating with
  | none => s
  | some k =>
    if s.spare.outstanding = 0 then s.enterSpare s.spare.state.completed .complete k else s

/-- A start of MIRROR or RESTORE, completing at once if no line is PENDING (R122, R124, R125). -/
def State.startSpare (s : State) (new : SpareState) (cause : SpareCause) (bank : Fin 8) : State :=
  (s.enterSpare new cause bank).settleSpare

/-- A PENDING line becomes COVERED, and the operation completes if it was the last (R121, R122). -/
def State.coverLine (s : State) (n : LineNo) : State :=
  match (s.cover n).mark with
  | .pending => (s.setCover n { s.cover n with mark := .covered }).settleSpare
  | .notConcerned => s
  | .covered => s

/-- A frame written for a line of the bank mirrored or restored counts toward its coverage, and a
PENDING line whose count reaches C becomes COVERED (R120, R121). -/
def State.countCoverage (s : State) (n : LineNo) : State :=
  match s.spare.state.operating with
  | none => s
  | some k =>
    if (s.line n).placement.bank = k then
      let s1 := s.setCover n { s.cover n with count := satAdd 32 (s.cover n).count 1 }
      if (s.line n).placement.capacity ≤ (s1.cover n).count then s1.coverLine n else s1
    else s

/-- The uncorrected count of a physical bank has been raised: a working bank at or above
AUTO_LIMIT starts a swap in STANDBY (R127). -/
def State.autoSwap (s : State) (b : Fin 9) : State :=
  if h : b.val < 8 then
    if s.spare.state = .standby ∧ s.spare.autoLimit ≠ 0 ∧
        s.spare.autoLimit ≤ (s.bank b).uncorrected.toNat then
      s.startSpare (.mirror ⟨b.val, h⟩) .auto ⟨b.val, h⟩
    else s
  else s

/-- SWAP of bank k, taken in STANDBY alone (R124). -/
def State.takeSwap (s : State) (k : Fin 8) : State :=
  match s.spare.state with
  | .standby => s.startSpare (.mirror k) .swap k
  | .mirror _ => s
  | .spared _ => s
  | .restore _ => s

/-- RETURN, taken in SPARED alone (R125). -/
def State.takeReturn (s : State) : State :=
  match s.spare.state with
  | .standby => s
  | .mirror _ => s
  | .spared k => s.startSpare (.restore k) .returned k
  | .restore _ => s

/-- CANCEL, taken in MIRROR and RESTORE (R126). -/
def State.takeCancel (s : State) : State :=
  match s.spare.state with
  | .standby => s
  | .mirror k => s.enterSpare .standby .cancel k
  | .spared _ => s
  | .restore k => s.enterSpare (.spared k) .cancel k

/-- The end of an engine restart for spare control (R131): no SPARE_PHASE is posted. -/
def Spare.restarted (x : Spare) : Spare :=
  let new : SpareState := match x.state with
    | .standby => .standby
    | .mirror _ => .standby
    | .spared k => .spared k
    | .restore k => .spared k
  { state := new, autoLimit := 0, coverage := clearedCoverage
    lastCause := if new = x.state then x.lastCause else .restart }

/-! ## Line state, store reset and emptying -/

/-- A change of line state, or a reset within FILLING: LINE_STATE is posted with the old state, the
new and the cause (R16). The last cause follows changes of state alone (section 1.5). -/
def State.changeLine (s : State) (n : LineNo) (new : LineState) (cause : LineCause) : State :=
  let old := (s.line n).state
  let s1 := s.modLine n fun l =>
    { l with state := new, lastCause := if old = new then l.lastCause else cause }
  s1.postLine .lineState n [word old.code, word new.code, word cause.code]

/-- Emptying: H becomes 0 and r keeps its value (R35). -/
def State.emptyRing (s : State) (n : LineNo) : State :=
  s.modLine n fun l => { l with ring := { l.ring with held := 0 } }

/-- A store reset under the placement in force (R34): r = u, H = 0, the retained slots written as
part-written slots in the banks named for writes; a PENDING line becomes COVERED (R121). -/
def State.storeReset (s : State) (n : LineNo) : State :=
  let p := (s.line n).placement
  let s1 := s.modLine n fun l => { l with ring := { readIndex := p.u, held := 0 } }
  let s2 := (List.range p.u).foldl (fun s j => s.writeSlot p.bank (p.slotAt j) {}) s1
  s2.coverLine n

/-- A store reset with its entry to FILLING, or within FILLING (R16, R34). -/
def State.refill (s : State) (n : LineNo) (cause : LineCause) : State :=
  (s.changeLine n .filling cause).storeReset n

end Sys2Proof.Machine
end

