-- ==== Sys2Proof/Machine/Framer.lean ====
section
/-!
DEFINITION. The line front, the framer and the store writer (chapters 1 and 2): taking a bit,
finding and checking alignment, the resumed search, delivering a frame and writing it.
-/
namespace Sys2Proof.Machine

/-! ## Octets of line bits -/

/-- The octet eight bits make, the first sent the most significant (section 1.1). -/
def octetOf (bits : List Bool) : Octet :=
  BitVec.ofNat 8 (bits.foldl (fun acc b => 2 * acc + bit b) 0)

/-- The bits of an octet in the order they are sent (section 1.1). -/
def bitsOf (o : Octet) : List Bool :=
  [o.getLsbD 7, o.getLsbD 6, o.getLsbD 5, o.getLsbD 4, o.getLsbD 3, o.getLsbD 2, o.getLsbD 1,
    o.getLsbD 0]

/-- The octet made of the eight most recent bits (R3). -/
def Framer.recentOctet (f : Framer) : Octet := octetOf (f.history.take 8).reverse

/-! ## The framer alone -/

/-- A framer in HUNT with its counts at 0, its history and payload discarded; held or not (R2, R7,
R15). The rules give its expected group position no value there: 0 is the model's choice
(assumption 26). -/
def huntingFramer (held : Bool) : Framer := { held := held }

/-- A bit joins the search history, the oldest leaving beyond 5120 (R2), and the boundaries of
CONFIRM recede by one bit. -/
def Framer.push (f : Framer) (b : Bool) : Framer :=
  { f with
    history := (b :: f.history).take Config.historyDepth
    candidateAge := if f.state = .confirm then f.candidateAge + 1 else f.candidateAge
    boundaryAge := if f.state = .confirm then f.boundaryAge + 1 else f.boundaryAge }

/-- The search of HUNT on the octet just completed (R3): a code makes its first bit the candidate
boundary. No octet is examined before eight bits have been taken since the search began. -/
def Framer.huntExamine (f : Framer) : Framer :=
  if f.history.length < 8 then f
  else match positionOfCode f.recentOctet with
    | some m =>
      { f with state := .confirm, expected := m + 1, matchCount := 0, candidateAge := 8,
               boundaryAge := 8 }
    | none => f

/-- The checks a candidate has already met in the history (R5): from the bits that begin at its next
alignment octet, the expected position and match count after every complete check, or none where a
check fails. The history holds at most 16 checks. -/
def checkRun : Nat → GroupPos → Nat → List Bool → Option (GroupPos × Nat)
  | 0, e, c, _ => some (e, c)
  | fuel + 1, e, c, bits =>
    if bits.length < 8 then some (e, c)
    else if octetOf (bits.take 8) = alignmentCode e then
      checkRun fuel (e + 1) (c + 1) (bits.drop Config.frameBits)
    else none

/-- A candidate found again in the history (R5): its age in bits, and what its checks so far give. -/
structure Resumed where
  age : Nat
  expected : GroupPos
  matchCount : Nat
deriving DecidableEq, Repr

/-- The resumed search (R5), over bits in order of arrival: the first octet that is a code and whose
complete checks all match. A candidate that fails a check resumes the search one bit after it, so
this is the search's outcome; it ends in HUNT where there is none, and never in LOCKED. -/
def resumeSearch : List Bool → Option Resumed
  | [] => none
  | b :: rest =>
    let bits := b :: rest
    if bits.length < 8 then none
    else match positionOfCode (octetOf (bits.take 8)) with
      | some m =>
        match checkRun 17 (m + 1) 0 (bits.drop Config.frameBits) with
        | some (e, c) => some { age := bits.length, expected := e, matchCount := c }
        | none => resumeSearch rest
      | none => resumeSearch rest

/-- A mismatch in CONFIRM (R5): back to HUNT, and the history re-examined from the octet that begins
one bit after the failed candidate boundary. Where no candidate survives, the expected position is left
as it stood, which is the model's choice (assumption 26). -/
def Framer.resume (f : Framer) : Framer :=
  match resumeSearch (f.history.take (f.candidateAge - 1)).reverse with
  | some c =>
    { f with state := .confirm, expected := c.expected, matchCount := c.matchCount,
             candidateAge := c.age, boundaryAge := 8 + (c.age - 8) % Config.frameBits }
  | none => { f with state := .hunt, matchCount := 0, candidateAge := 0, boundaryAge := 0 }

/-- An alignment check in CONFIRM on the octet just completed (R4). -/
def Framer.confirmExamine (f : Framer) (confirmCount : Nat) : Framer :=
  if f.recentOctet = alignmentCode f.expected then
    if confirmCount ≤ f.matchCount + 1 then
      { f with state := .locked, matchCount := min 15 (f.matchCount + 1), errorCount := 0,
               framePosition := 8, payload := [], candidateAge := 0, boundaryAge := 0 }
    else { f with matchCount := f.matchCount + 1, expected := f.expected + 1, boundaryAge := 8 }
  else f.resume

/-! ## The writer -/

/-- A frame handed to the writer of line n with its tag (R29, R30, R31, R33). -/
def State.writeFrame (s : State) (n : LineNo) (payload : List Octet) (tag : GroupPos) : State :=
  let l := s.line n
  if l.state = .filling ∨ l.state = .running then
    if l.ring.held < l.placement.heldMax then
      let s1 := s.writeSlot l.placement.bank
        (l.placement.slotAt (l.ring.readIndex + l.ring.held))
        { payload := payload, position := tag, filler := false }
      let s2 := s1.modLine n fun l => { l with ring := { l.ring with held := l.ring.held + 1 } }
      s2.countCoverage n
    else
      let s1 := s.modLine n fun l =>
        { l with counters := { l.counters with overruns := l.counters.overruns + 1 } }
      s1.setGathered n { s1.gathered n with overruns := (s1.gathered n).overruns + 1 }
  else s

/-! ## The framer and line control -/

/-- LOCKED reported by the framer (R13): a HUNTING line passes to FILLING with a store reset. -/
def State.reportLocked (s : State) (n : LineNo) : State :=
  match (s.line n).state with
  | .hunting => s.refill n .locked
  | .out => s
  | .filling => s
  | .running => s
  | .dead => s

/-- LOST reported by the framer (R13): a FILLING or RUNNING line passes to HUNTING with its ring
emptied. -/
def State.reportLost (s : State) (n : LineNo) : State :=
  match (s.line n).state with
  | .filling => (s.emptyRing n).changeLine n .hunting .lost
  | .running => (s.emptyRing n).changeLine n .hunting .lost
  | .out => s
  | .hunting => s
  | .dead => s

/-- The state with line n's framer replaced. -/
def State.setFramer (s : State) (n : LineNo) (f : Framer) : State :=
  s.modLine n fun l => { l with framer := f }

/-- An alignment check in CONFIRM, with LOCKED reported where the check brings it (R4, R5, R13). -/
def State.confirmCheck (s : State) (n : LineNo) : State :=
  let f := (s.line n).framer.confirmExamine (s.line n).confirmCount
  let s1 := s.setFramer n f
  if f.state = .locked then s1.reportLocked n else s1

/-- An alignment mismatch in LOCKED, counted for the line and gathered for the monitors (R6). -/
def State.countAlignError (s : State) (n : LineNo) : State :=
  let s1 := s.modLine n fun l =>
    { l with counters := { l.counters with alignErrors := l.counters.alignErrors + 1 } }
  s1.setGathered n { s1.gathered n with alignErrors := (s1.gathered n).alignErrors + 1 }

/-- An alignment check in LOCKED (R6, R7): the octet becomes the new boundary whatever it is, and a
mismatch that brings the error count to N_l is LOST. -/
def State.lockedCheck (s : State) (n : LineNo) : State :=
  let f := (s.line n).framer
  if f.recentOctet = alignmentCode f.expected then
    s.setFramer n { f with errorCount := 0, framePosition := 8, payload := [] }
  else
    let s1 := s.countAlignError n
    if (s.line n).lossCount ≤ f.errorCount + 1 then
      (s1.setFramer n (huntingFramer false)).reportLost n
    else s1.setFramer n { f with errorCount := f.errorCount + 1, framePosition := 8, payload := [] }

/-- The 320th bit of a frame (R8): the frame is delivered with the expected position as its tag,
which then advances, and the next bit begins the next frame. -/
def State.deliver (s : State) (n : LineNo) : State :=
  let f := (s.line n).framer
  let s1 := s.setFramer n { f with framePosition := 0, payload := [], expected := f.expected + 1 }
  s1.writeFrame n (f.payload ++ [f.recentOctet]) f.expected

/-- What the framer of line n does with the bit just taken (R3, R4, R6, R8). -/
def State.framerStep (s : State) (n : LineNo) : State :=
  let f := (s.line n).framer
  match f.state with
  | .hunt => s.setFramer n f.huntExamine
  | .confirm => if f.boundaryAge = Config.frameBits + 8 then s.confirmCheck n else s
  | .locked =>
    let p := f.framePosition + 1
    if p = 8 then s.lockedCheck n
    else if p = Config.frameBits then s.deliver n
    else if p % 8 = 0 then
      s.setFramer n { f with framePosition := p, payload := f.payload ++ [f.recentOctet] }
    else s.setFramer n { f with framePosition := p }

/-- A bit counted in the office-frame bit count, which saturates at 65535 (R1), and joined to the
search history of a framer that is not held (R2). -/
def State.recordBit (s : State) (n : LineNo) (b : Bool) : State :=
  s.modLine n fun l =>
    { l with
      bitCount := satAdd 65535 l.bitCount 1
      framer := if l.framer.held then l.framer else l.framer.push b }

/-- A bit taken from LDATn at a rising edge of LCLKn (R1): counted, and offered to a framer that is
not held. -/
def State.takeBit (s : State) (n : LineNo) (b : Bool) : State :=
  let s1 := s.recordBit n b
  if (s.line n).framer.held then s1 else s1.framerStep n

/-- The eight bits of an octet taken, in order. -/
def State.recordOctet (s : State) (n : LineNo) (o : Octet) : State :=
  (bitsOf o).foldl (fun s b => s.recordBit n b) s

end Sys2Proof.Machine
end

