-- ==== Sys2Proof/Machine/WindowUnit.lean ====
section
/-!
DEFINITION. The window unit of a line (chapter 4): starts, abandonment and stops, what a window
counts, the offset, the slip horizon and the window end.
-/
namespace Sys2Proof.Machine

/-- Staged length and mode come into force, and the staged items are none (R68). -/
def Window.adopt (w : Window) : Window :=
  match w.staged with
  | some (length, mode) => { w with length := length, mode := mode, staged := none }
  | none => w

/-- A window in progress is abandoned: no record, no event, the index unchanged (R69). -/
def Window.abandon (w : Window) : Window :=
  if w.counting then
    { w with counting := false, counter := 0, accumulation := {} }.adopt
  else w

/-- A window start is caused: a window in progress is abandoned and a start is pending (R69). -/
def Window.causeStart (w : Window) : Window := { w.abandon with startPending := true }

/-- The window is stopped (R71). -/
def Window.stop (w : Window) : Window := { w.abandon.adopt with startPending := false }

/-- A window starts at a tick (R70), or is reloaded (R82). -/
def Window.start (w : Window) : Window :=
  { w with counting := true, startPending := false, counter := w.length, accumulation := {} }

/-- The mode the line's next window will have (R72): the staged mode, or the mode in force. -/
def Window.nextMode (w : Window) : WindowMode :=
  match w.staged with
  | some (_, mode) => mode
  | none => w.mode

/-- ARM_WINDOW causes a start in SINGLE mode and has no effect in CONTINUOUS mode (R72). -/
def Window.arm (w : Window) : Window :=
  match w.nextMode with
  | .single => w.causeStart
  | .continuous => w

/-- The window settings of an accepted request (R67, R68). -/
def Window.settings (w : Window) (length : Nat) (mode : WindowMode) (report : Bool)
    (limit : Nat) : Window :=
  let w1 := { w with reportWindows := report, horizonLimit := limit }
  if w.counting then { w1 with staged := some (length, mode) }
  else { w1 with length := length, mode := mode, staged := none }

/-- An office frame closed while the window is COUNTING (R73). -/
def Window.closeFrame (w : Window) (bits : Nat) (busTimed : Bool) : Window :=
  { w with
    counter := w.counter - 1
    accumulation := { w.accumulation with
      bits := satAdd 4294967295 w.accumulation.bits bits
      referenceLost := w.accumulation.referenceLost || !busTimed } }

/-- The reader's hand-over taken into the accumulation (R74). `fill` is none for an event that was
not a RUNNING event. -/
def WindowAccumulation.take (x : WindowAccumulation) (fill : Option Nat) (repeats deletes : Nat)
    (tLow tHigh : Nat) : WindowAccumulation :=
  let y := match fill with
    | some f =>
      { x with
        runningSeen := true
        minFill := if x.runningSeen then min x.minFill f else f
        maxFill := if x.runningSeen then max x.maxFill f else f }
    | none => { x with notRunningSeen := true }
  { y with
    repeats := x.repeats + repeats
    deletes := x.deletes + deletes
    endFill := fill.getD 0
    endLow := tLow
    endHigh := tHigh }

/-- The reader's hand-over, taken while the window is COUNTING (R74). -/
def Window.takeEvent (w : Window) (fill : Option Nat) (repeats deletes tLow tHigh : Nat) : Window :=
  if w.counting then
    { w with accumulation := w.accumulation.take fill repeats deletes tLow tHigh }
  else w

/-- The rounded offset before clamping, in tenths of a ppm: E · 31250 / W, a half away from zero
(R77). -/
def roundedOffset (bits length : Nat) : Int :=
  roundHalfAway (((bits : Int) - 320 * length) * 31250) length

/-- The offset q (R77). -/
def windowOffset (bits length : Nat) : Int := clampSigned (roundedOffset bits length)

/-- The flags of a window record (R76). -/
def windowFlags (x : WindowAccumulation) (length : Nat) : WindowFlags :=
  { incomplete := x.notRunningSeen
    noFill := !x.runningSeen
    refNotLocked := x.referenceLost
    saturated := windowOffset x.bits length != roundedOffset x.bits length }

/-- The slip horizon when it is computed (R78): the office frames the fill needs to reach the
threshold toward which it moves. -/
def horizonFrames (q : Int) (endFill tLow tHigh : Nat) : Nat :=
  if 0 < q then (tHigh - endFill) * 31250 / q.natAbs else (endFill - tLow) * 31250 / q.natAbs

/-- The slip horizon, or none where it is not computed (R78). -/
def windowHorizon (flags : WindowFlags) (q : Int) (endFill tLow tHigh : Nat) : Option Nat :=
  if flags.incomplete || flags.noFill || q == 0 then none
  else some (min (horizonFrames q endFill tLow tHigh) 0xFFFFFFFE)

/-- The horizon as 32 bits, 0xFFFFFFFF for none (R78). -/
def horizonCode (h : Option Nat) : Long :=
  match h with
  | some x => BitVec.ofNat 32 x
  | none => 0xFFFFFFFF

/-- The flags at the bit positions of line report word 34 (section 9.8). -/
def flagFields (f : WindowFlags) : List (Nat × Nat) :=
  [(bit f.incomplete, 15), (bit f.noFill, 14), (bit f.refNotLocked, 13), (bit f.saturated, 12)]

/-- The record a window end writes (R75, R80). -/
def Window.endRecord (w : Window) : WindowRecord :=
  let x := w.accumulation
  let flags := windowFlags x w.length
  let q := windowOffset x.bits w.length
  { index := w.index + 1
    length := w.length
    bits := x.bits
    offset := q
    minFill := if x.runningSeen then x.minFill else 0
    maxFill := if x.runningSeen then x.maxFill else 0
    repeats := x.repeats
    deletes := x.deletes
    flags := flags
    horizon := horizonCode (windowHorizon flags q x.endFill x.endLow x.endHigh) }

/-- What follows a window end (R75 step 6, R82): the staged values come into force, and the mode
then in force reloads the window or stops it. -/
def Window.afterEnd (w : Window) : Window :=
  let w1 := w.adopt
  match w1.mode with
  | .continuous => w1.start
  | .single => { w1 with counting := false, counter := 0 }

/-- The detail words of WINDOW_DONE (R81). -/
def windowDoneDetail (r : WindowRecord) : List Word :=
  [r.index, word r.length, signedWord r.offset, word r.minFill, word r.maxFill,
    pack (flagFields r.flags)] ++ halves r.horizon

/-- The detail words of SLIP_FORECAST (R79). -/
def forecastDetail (r : WindowRecord) (x : WindowAccumulation) (limit : Nat) : List Word :=
  [r.index, signedWord r.offset, word x.endFill, word (if 0 < r.offset then x.endHigh else x.endLow),
    if 0 < r.offset then 2 else 1] ++ halves r.horizon ++ [word limit]

/-- Whether a window end posts SLIP_FORECAST (R79): the horizon was computed, L is not 0, and the
horizon is less than 8000 · L office frames. -/
def forecastDue (horizon : Option Nat) (limit : Nat) : Bool :=
  match horizon with
  | some h => limit != 0 && h < 8000 * limit
  | none => false

/-- The window of line n ends (R75): the record is written, WINDOW_DONE and SLIP_FORECAST are posted
where called for, and the window is reloaded or stopped. -/
def State.endWindow (s : State) (n : LineNo) : State :=
  let w := (s.line n).window
  let r := w.endRecord
  let s1 := s.modLine n fun l => { l with window :=
    { l.window with counter := 0, index := r.index, record := r } }
  let s2 := if w.reportWindows then s1.postLine .windowDone n (windowDoneDetail r) else s1
  let x := w.accumulation
  let s3 :=
    if forecastDue (windowHorizon r.flags r.offset x.endFill x.endLow x.endHigh) w.horizonLimit then
      s2.postLine .slipForecast n (forecastDetail r x w.horizonLimit)
    else s2
  s3.modLine n fun l => { l with window := l.window.afterEnd }

/-- The office frame that a tick ends, for the window unit of line n (R70, R73): a pending start
starts a window and counts nothing of the frame; a COUNTING window counts it and may end. -/
def State.closeWindowFrame (s : State) (n : LineNo) (busTimed : Bool) : State :=
  let w := (s.line n).window
  if w.startPending then s.modLine n fun l => { l with window := l.window.start }
  else if w.counting then
    let s1 := s.modLine n fun l => { l with window := w.closeFrame l.bitCount busTimed }
    if w.counter - 1 = 0 then s1.endWindow n else s1
  else s

end Sys2Proof.Machine
end

