-- ==== Sys2Proof/Machine/ReaderUnit.lean ====
section
/-!
DEFINITION. The reader of a line (chapter 3): the stages of the reader event, starts, controlled
slips, the normal read, and the hand-over to the window, monitor and highway units.
-/
namespace Sys2Proof.Machine

/-! ## Dead lines -/

/-- Entry to DEAD (R10): the ring emptied, the framer held, the dead count at 8, LINE_STATE posted;
a PENDING line becomes COVERED (R121). -/
def State.enterDead (s : State) (n : LineNo) : State :=
  let s1 := s.modLine n fun l =>
    { l with deadCount := Config.deadFrames, framer := huntingFramer true,
             ring := { l.ring with held := 0 } }
  (s1.changeLine n .dead .dead).coverLine n

/-- Stage 1 of the reader event, the dead-line examination (R10, R11), of the office-frame bit count
of the frame just ended. -/
def State.deadStage (s : State) (n : LineNo) : State :=
  let l := s.line n
  match l.state with
  | .out => s
  | .dead =>
    if l.bitCount = 0 then s
    else
      (s.modLine n fun l => { l with deadCount := 0, framer := huntingFramer false }).changeLine n
        .hunting .alive
  | .hunting | .filling | .running =>
    if l.bitCount = 0 then
      if Config.deadFrames ≤ l.deadCount + 1 then s.enterDead n
      else s.modLine n fun l => { l with deadCount := l.deadCount + 1 }
    else s.modLine n fun l => { l with deadCount := 0 }

/-! ## Settings and fill -/

/-- Stage 2: staged thresholds and SLIP_EVENTS come into force (R43). -/
def Reader.adopt (x : Reader) : Reader :=
  match x.staged with
  | some v => { x with tLow := v.tLow, tHigh := v.tHigh, slipEvents := v.slipEvents, staged := none }
  | none => x

/-- The centre in force (R44). -/
def Reader.centre (x : Reader) : Nat := (x.tLow + x.tHigh) / 2

/-- The bits received of the frame now arriving: 0 when the framer is not LOCKED (R8, R40). -/
def Framer.partialBits (f : Framer) : Nat :=
  match f.state with
  | .locked => f.framePosition
  | .hunt => 0
  | .confirm => 0

/-- The fill F = 320 · H + p (R40). -/
def Line.fill (l : Line) : Nat := 320 * l.ring.held + l.framer.partialBits

/-! ## The outcome of the action stage -/

/-- What a reader event's action yields: the state, the 39 octets it sends, its decision, whether
they are a substitute (R57), the fill handed over if the line is RUNNING at the end of the event,
and the occurrences made (R63). -/
structure Acted where
  state : State
  octets : List Octet := alarmFill
  decision : Decision
  substituted : Bool := true
  fill : Option Nat := none
  repeats : Nat := 0
  deletes : Nat := 0
  underruns : Nat := 0
  corrected : Nat := 0
  uncorrected : Nat := 0

/-- The line sends alarm fill without reading a slot. -/
def filled (s : State) (d : Decision) : Acted := { state := s, decision := d }

/-- The result of a slot read counted in the bank that served it and for the line (R22, R53). -/
def State.countRead (s : State) (n : LineNo) (b : Fin 9) (x : SlotResult) : State :=
  match x with
  | .clean => s
  | .corrected =>
    (s.setBank b { s.bank b with corrected := (s.bank b).corrected + 1 }).modLine n fun l =>
      { l with counters := { l.counters with storeCorrected := l.counters.storeCorrected + 1 } }
  | .uncorrectable =>
    (s.setBank b { s.bank b with uncorrected := (s.bank b).uncorrected + 1 }).modLine n fun l =>
      { l with counters :=
        { l.counters with storeUncorrected := l.counters.storeUncorrected + 1 } }

/-- The ring after one frame has been read: r + 1, H − 1 (R55). -/
def Ring.advance (x : Ring) (capacity k : Nat) : Ring :=
  { readIndex := (x.readIndex + k) % capacity, held := x.held - k }

/-- The ring after the read index has moved back by one slip unit (R49, R50). -/
def Ring.back (x : Ring) (capacity k : Nat) : Ring :=
  { readIndex := (x.readIndex + (capacity - k)) % capacity, held := x.held + k }

/-- The ring of line n moved forward by k slots. -/
def State.advanceRing (s : State) (n : LineNo) (k : Nat) : State :=
  s.modLine n fun l => { l with ring := l.ring.advance l.placement.capacity k }

/-- A tag mismatch (R47, R52): MISALIGN counted, FILLING with a store reset, alarm fill. -/
def State.tagMismatch (s : State) (n : LineNo) : State :=
  let s1 := s.modLine n fun l =>
    { l with counters := { l.counters with misalign := l.counters.misalign + 1 } }
  s1.refill n .tagMismatch

/-- The start of a line (R48): RUNNING, with LINE_STATE posted. -/
def State.startLine (s : State) (n : LineNo) (start : Bool) : State :=
  if start then s.changeLine n .running .started else s

/-- A normal read (R52 to R55) made under decision `d`, with `fill` the fill handed over and `start`
set for the read of a start: the slot at r is read and its result counted; an UNCORRECTABLE slot is
sent as alarm fill without a tag check, a group-mode tag that is neither FILLER nor g is a mismatch,
and otherwise the payload, or alarm fill for a FILLER slot, is sent and the ring advances. -/
def State.normalRead (s : State) (n : LineNo) (g : GroupPos) (d : Decision) (fill : Nat)
    (start : Bool) : Acted :=
  let l := s.line n
  let b := s.spare.state.readBank l.placement.bank
  let i := l.placement.slotAt l.ring.readIndex
  let x := s.slot b i
  let s1 := s.countRead n b x.result
  match x.result with
  | .uncorrectable =>
    let s2 := (s1.startLine n start).postLine .storeUncorrectable n
      [word b.val, word i, word l.ring.readIndex, word x.uncorrectableSet, word d.code]
    { state := (s2.autoSwap b).advanceRing n 1, decision := d, fill := some fill, uncorrected := 1 }
  | r =>
    let corrected := if r = .corrected then 1 else 0
    if l.placement.unit = .group ∧ x.filler = false ∧ x.position ≠ g then
      { state := s1.tagMismatch n, decision := .tagMismatch, corrected := corrected }
    else
      { state := (s1.startLine n start).advanceRing n 1
        octets := if x.filler then alarmFill else x.payload
        decision := d
        substituted := x.filler
        fill := some fill
        corrected := corrected }

/-- The reader event of a FILLING line (R46, R47, R48): the line starts when its fill, after any
group trim, has reached the centre. In group mode the trim is taken from the tag of the slot at r,
and an uncorrectable tag word is handled as a tag mismatch. -/
def State.fillingAct (s : State) (n : LineNo) (g : GroupPos) (fill : Nat) : Acted :=
  let l := s.line n
  match l.placement.unit with
  | .frame =>
    if l.reader.centre ≤ fill then s.normalRead n g .start fill true else filled s .fill
  | .group =>
    if l.ring.held = 0 then filled s .fill
    else
      let x := s.slot (s.spare.state.readBank l.placement.bank)
        (l.placement.slotAt l.ring.readIndex)
      if x.conditions.w0 = .uncorrectable then filled (s.tagMismatch n) .tagMismatch
      else
        let k := (g - x.position).val
        if l.reader.centre + 320 * k ≤ fill then
          (s.advanceRing n k).normalRead n g .start (fill - 320 * k) true
        else filled s .fill

/-- The detail words of SLIP (R56). -/
def slipDetail (direction : Nat) (l : Line) (fill heldAfter : Nat) : List Word :=
  [word direction, word l.placement.unit.code, word fill, word heldAfter, word l.reader.tLow,
    word l.reader.tHigh]

/-- The slip counted, and SLIP posted where SLIP_EVENTS is ON, after the read that follows it
(R56). `direction` is 1 for a repeat and 2 for a delete. -/
def Acted.countSlip (a : Acted) (n : LineNo) (l : Line) (direction fill : Nat) : Acted :=
  let s1 := a.state.modLine n fun m =>
    { m with counters :=
      if direction = 1 then { m.counters with repeats := m.counters.repeats + 1 }
      else { m.counters with deletes := m.counters.deletes + 1 } }
  let s2 :=
    if l.reader.slipEvents then
      s1.postLine .slip n (slipDetail direction l fill (s1.line n).ring.held)
    else s1
  { a with
    state := s2
    repeats := if direction = 1 then 1 else 0
    deletes := if direction = 1 then 0 else 1 }

/-- The slip decision and read of a RUNNING line at an event that may slip (R49, R50): a repeat
below T_low, a delete above T_high, by one slip unit, and then a normal read. -/
def State.slipAct (s : State) (n : LineNo) (g : GroupPos) (fill : Nat) : Acted :=
  let l := s.line n
  let u := l.placement.u
  if fill < l.reader.tLow then
    let s1 := s.modLine n fun l => { l with ring := l.ring.back l.placement.capacity u }
    (s1.normalRead n g .repeatUnit fill false).countSlip n l 1 fill
  else if l.reader.tHigh < fill then
    ((s.advanceRing n u).normalRead n g .deleteUnit fill false).countSlip n l 2 fill
  else s.normalRead n g .normal fill false

/-- A group-mode underrun (R51). -/
def State.underrun (s : State) (n : LineNo) : Acted :=
  let s1 := s.modLine n fun l =>
    { l with counters := { l.counters with underruns := l.counters.underruns + 1 } }
  { state := s1.refill n .underrun, decision := .underrun, underruns := 1 }

/-- The reader event of a RUNNING line (R49 to R51). -/
def State.runningAct (s : State) (n : LineNo) (g : GroupPos) (fill : Nat) : Acted :=
  let l := s.line n
  match l.placement.unit with
  | .frame => s.slipAct n g fill
  | .group =>
    if g = 0 then s.slipAct n g fill
    else if l.ring.held = 0 then s.underrun n
    else s.normalRead n g .normal fill false

/-- Stages 4 and 5: a pending RECENTRE is taken or dropped (R58), and the reader acts for the line's
state (R45 to R51). -/
def State.readerAct (s : State) (n : LineNo) (g : GroupPos) (fill : Nat) : Acted :=
  let l := s.line n
  let s1 := s.modLine n fun l => { l with reader := { l.reader with recentrePending := false } }
  match l.state with
  | .out =>
    { state := s1, octets := List.replicate 39 l.idleCode, decision := .idle, substituted := false }
  | .hunting => filled s1 .fill
  | .dead => filled s1 .fill
  | .filling =>
    if l.reader.recentrePending then filled (s1.refill n .recentre) .recentre
    else s1.fillingAct n g fill
  | .running =>
    if l.reader.recentrePending then filled (s1.refill n .recentre) .recentre
    else s1.runningAct n g fill

/-! ## Hand-over -/

/-- What the reader hands the monitor unit for the office frame that begins (R63, R135). -/
def Acted.gathered (a : Acted) (state : LineState) : Gathered :=
  { repeats := a.repeats
    deletes := a.deletes
    underruns := a.underruns
    substituted := bit a.substituted
    storeCorrected := a.corrected
    storeUncorrected := a.uncorrected
    state := state
    fill := a.fill }

/-- The octets of line n put in the frame in hand (R110). -/
def State.handOctets (s : State) (n : LineNo) (octets : List Octet) : State :=
  match s.highway.inHand with
  | some f =>
    let f' : FrameInHand := { f with channels := f.channels.set n octets }
    s.modHighway fun x => { x with inHand := some f' }
  | none => s

/-- Stages 6 and 7 (R39, R57, R63, R64): the octets go to the highway unit, SUBSTITUTED is counted,
the report state is updated, and the window and monitor units take the event. The office-frame bit
count starts again from 0 (R1). -/
def State.handOver (n : LineNo) (fill : Nat) (a : Acted) : State :=
  let s1 := a.state.modLine n fun l =>
    { l with
      bitCount := 0
      counters :=
        if a.substituted then { l.counters with substituted := l.counters.substituted + 1 }
        else l.counters
      reader := { l.reader with
        lastDecision := a.decision, lastFill := fill, lastSubstituted := a.substituted }
      window := l.window.takeEvent a.fill a.repeats a.deletes l.reader.tLow l.reader.tHigh }
  (s1.setGathered n (a.gathered (s1.line n).state)).handOctets n a.octets

/-- The reader event of line n for the office frame that begins with group position g (R39). -/
def State.readerEvent (s : State) (n : LineNo) (g : GroupPos) : State :=
  let s1 := s.deadStage n
  let s2 := s1.modLine n fun l => { l with reader := l.reader.adopt }
  let fill := (s2.line n).fill
  State.handOver n fill (s2.readerAct n g fill)

end Sys2Proof.Machine
end

