-- ==== Sys2Proof/Machine/OfficeTick.lean ====
section
/-!
DEFINITION. The office tick, office bits and the switching highways (sections 5.4 and 6).
-/
namespace Sys2Proof.Machine

/-! ## Highways -/

/-- The line whose octet j of highway h is (R109). -/
def highwayLine (h : Fin 8) (j : Nat) : LineNo := ⟨8 * h.val + j % 8, by omega⟩

/-- The octet of a channel of a line, from the frame in hand (R110, R111): channel 0 is the
alignment code of its group position, channels 1 to 39 what the reader handed over. -/
def FrameInHand.octet (f : FrameInHand) (n : LineNo) (channel : Nat) : Octet :=
  if channel = 0 then alignmentCode f.position else f.channels[n].getD (channel - 1) 0xFF

/-- The octet highway h carries in the office bit at which φ is `phase` (R108, R109, R114): octet j
belongs to line 8h + (j mod 8), channel ⌊j/8⌋, and beyond 319 it is an extension octet. -/
def FrameInHand.highwayOctet (f : FrameInHand) (h : Fin 8) (phase : Nat) : Octet :=
  if 320 ≤ phase then 0xFF else f.octet (highwayLine h phase) (phase / 8)

/-- One office bit sends one octet on each highway (R108), once they are driven (R116). -/
def State.sendOctets (s : State) : State :=
  match s.highway.inHand with
  | none => s
  | some f =>
    let sent : Vector Octet 8 := Vector.ofFn fun h => f.highwayOctet h s.timing.phase
    s.modHighway fun x => { x with sent := some sent }

/-! ## The office tick -/

/-- The selector times the office from a bus. -/
def SelectorState.onBus : SelectorState → Option Bus
  | .free => none
  | .on x => some x
  | .holdover => none

/-- The timing unit's part of a tick (R98, R101): φ is 0, the counter advances, and bus-timed is
set for the new frame if the selector is on a bus. -/
def Timing.tick (t : Timing) : Timing :=
  { t with
    phase := 0
    frameCounter := t.frameCounter + 1
    busTimed := t.selector.onBus.isSome }

/-- The frame in hand at a tick: the new group position, with every line's octets still those of
the frame before until its reader hands over its own (R110). -/
def State.openFrame (s : State) : State :=
  let channels := match s.highway.inHand with
    | some f => f.channels
    | none => Vector.replicate 64 alarmFill
  let f : FrameInHand := { position := s.timing.position, channels := channels }
  s.modHighway fun x => { x with inHand := some f }

/-- The work of a tick for one line: its window unit closes the frame that ends, and its reader
serves the frame that begins (R39, R73). -/
def State.tickLine (s : State) (busTimed : Bool) (g : GroupPos) (n : LineNo) : State :=
  (s.closeWindowFrame n busTimed).readerEvent n g

/-- The office tick (R98, R101, R110, R135): the counter advances, the monitors count the frame that
ends, every line's window unit and reader act, and octet 0 of the new frame is sent. -/
def State.tick (s : State) : State :=
  let busTimed := s.timing.busTimed
  let s1 := (s.modTiming Timing.tick).closeMonitors.openFrame
  let g := s1.timing.position
  (s1.forLines fun n t => t.tickLine busTimed g n).sendOctets

/-! ## Office bits -/

/-- φ would wrap from 319 to 0 (R98, R100): a tick, unless a REALIGN is pending on a followed bus
whose flywheel is not at 0, when no tick occurs and φ counts on at 320. -/
def State.wrapPhase (s : State) : State :=
  if s.timing.realignPending && s.timing.selector.onBus.isSome && s.timing.buildOut != 0 then
    (s.modTiming fun t => { t with phase := 320 }).sendOctets
  else (s.modTiming fun t => { t with realignPending := false }).tick

/-- A lengthened REALIGN frame closes at the followed bus's flywheel wrap (R100): a tick, with Bo 0
and nothing pending. -/
def State.closeRealign (s : State) : State :=
  (s.modTiming fun t => { t with buildOut := 0, realignPending := false }).tick

/-- An office bit made by an edge of the followed bus, whose flywheel then stands at `fly` (R98,
R100). -/
def State.busBit (s : State) (fly : Nat) : State :=
  if 320 ≤ s.timing.phase then
    if fly = 0 then s.closeRealign
    else (s.modTiming fun t => { t with phase := t.phase + 1 }).sendOctets
  else
    let p := (fly + 320 - s.timing.buildOut) % 320
    if p = 0 then s.wrapPhase else (s.modTiming fun t => { t with phase := p }).sendOctets

/-- An office bit made by a carry of the NCO (R98, R103). -/
def State.ncoBit (s : State) : State :=
  if 319 ≤ s.timing.phase then s.wrapPhase
  else (s.modTiming fun t => { t with phase := t.phase + 1 }).sendOctets

end Sys2Proof.Machine
end

