-- ==== Sys2Proof/Machine/TimingUnit.lean ====
section
/-!
DEFINITION. The office timing unit (chapter 5): the bus monitors, timing windows, the selector, the
hold latch, build-out, holdover and its step.
-/
namespace Sys2Proof.Machine

/-! ## Holdover -/

/-- hv: the rounded mean of the holdover history, 0 when it is empty (R103). -/
def meanOffset (history : List Int) : Int :=
  match history with
  | [] => 0
  | h => roundHalfAway h.sum h.length

/-- S: 536,870,912 less the rounded correction for hv (R103). -/
def holdoverStep (hv : Int) : Long :=
  BitVec.ofInt 32 (536870912 - roundHalfAway (536870912 * hv) 10000000)

/-- A change of the holdover history recomputes hv and S (R102, R103). -/
def Timing.withHistory (t : Timing) (h : List Int) : Timing :=
  { t with history := h, hv := meanOffset h, ncoStep := holdoverStep (meanOffset h) }

/-- A value joins the history; a fifth drops the oldest (R102). -/
def joinHistory (h : List Int) (x : Int) : List Int :=
  if h.length < 4 then h ++ [x] else h.tail ++ [x]

/-! ## The selector -/

/-- The monitor of a bus is GOOD. -/
def Timing.isGood (t : Timing) (x : Bus) : Bool := (t.bus x).state == .good

/-- A revert is called for (R94): the selector is on the bus that is not preferred, and revertive
working, force, the hold latch and the revert count allow it. -/
def Timing.revertDue (t : Timing) : Bool :=
  t.selector == .on (otherBus t.settings.preferred) && t.settings.revertive
    && t.settings.force == .none && !t.holdLatch && t.settings.revertDelay ≤ t.revertCount
    && t.isGood t.settings.preferred

/-- The bus taken from FREE or HOLDOVER under force NONE: the preferred bus if it is GOOD, or the
other, or none (R93, rules 9 to 11). -/
def Timing.takenBus (t : Timing) : Option Bus :=
  if t.isGood t.settings.preferred then some t.settings.preferred
  else if t.isGood (otherBus t.settings.preferred) then some (otherBus t.settings.preferred)
  else none

/-- The selector's next state (R93), by the first rule of its table that applies. -/
def Timing.nextSelector (t : Timing) : SelectorState :=
  if t.holdLatch then .holdover
  else match t.settings.force with
    | .holdover => .holdover
    | .bus x =>
      if t.isGood x then .on x
      else match t.selector with
        | .free => .free
        | .on _ => .holdover
        | .holdover => .holdover
    | .none =>
      match t.selector with
      | .on x =>
        if t.isGood x then (if t.revertDue then .on t.settings.preferred else .on x)
        else if t.isGood (otherBus x) then .on (otherBus x)
        else .holdover
      | .free => match t.takenBus with
        | some x => .on x
        | none => .free
      | .holdover => match t.takenBus with
        | some x => .on x
        | none => .holdover

/-- The cause of a change of selector state (R97): REVERT for a revert, else the event's own. -/
def Timing.changeCause (t : Timing) (cause : SelectorCause) : SelectorCause :=
  match t.selector with
  | .on x => if t.isGood x && t.revertDue then .revert else cause
  | .free => cause
  | .holdover => cause

/-- Active throughout is cleared for the bus the selector leaves (R102). -/
def Timing.leave (t : Timing) : Timing :=
  match t.selector with
  | .on x => t.setBus x { t.bus x with activeThroughout := false }
  | .free => t
  | .holdover => t

/-- The timing unit at a change of selector state (R97, R99, R100, R101): the switch count advances,
a pending REALIGN is cancelled, a frame whose lengthened part has begun closes with φ at 0, and the
new source has its build-out or its NCO set. -/
def Timing.switch (t : Timing) (new : SelectorState) : Timing :=
  let phase := if 320 ≤ t.phase then 0 else t.phase
  let t1 := { t.leave with
    selector := new, switchCount := t.switchCount + 1, realignPending := false, phase := phase }
  match new with
  | .on x => { t1 with buildOut := (((t1.bus x).flywheel.getD 0) + 320 - phase) % 320 }
  | .free => { t1 with busTimed := false, ncoAccumulator := 0, ncoStep := holdoverStep t1.hv }
  | .holdover => { t1 with busTimed := false, ncoAccumulator := 0, ncoStep := holdoverStep t1.hv }

/-- A change of selector state (R97, R99, R100): SELECTOR is posted, and the office tick that closes
a cancelled lengthened frame is made. -/
def State.changeSelector (s : State) (new : SelectorState) (cause : SelectorCause) : State :=
  let closing := 320 ≤ s.timing.phase
  let s1 := s.modTiming fun t => t.switch new
  let s2 := s1.post .selector 1
    [word s.timing.selector.code, word new.code, word cause.code, word s1.timing.buildOut,
      signedWord s1.timing.hv, word s1.timing.history.length]
  if closing then s2.tick else s2

/-- The selector takes its next state at an event whose own cause is `cause` (R93). -/
def State.takeSelector (s : State) (cause : SelectorCause) : State :=
  let new := s.timing.nextSelector
  if new = s.timing.selector then s else s.changeSelector new (s.timing.changeCause cause)

/-! ## The bus monitors -/

/-- A change of a monitor's state (R88, R92, R94): its counts are 0 and window passed is clear,
BUS_STATE is posted, the revert count is 0 if the preferred bus leaves GOOD, and the selector takes
its next state. -/
def State.changeBus (s : State) (x : Bus) (new : MonitorState) (cause : BusCause) : State :=
  let m := s.timing.bus x
  let s1 := s.modBus x fun m =>
    { m with state := new, goodCount := 0, badCount := 0, windowPassed := false }
  let s2 := s1.post .busState 1
    [word (busCode x), word m.state.code, word new.code, word cause.code, signedWord m.lastX]
  let s3 := if x = s2.timing.settings.preferred ∧ m.state = .good then
      s2.modTiming fun t => { t with revertCount := 0 }
    else s2
  s3.takeSelector (if new = .good then .busGood else .busFailed)

/-- A bus frame judged good or bad (R88, R91). -/
def State.judgeFrame (s : State) (x : Bus) (good : Bool) : State :=
  let m := s.timing.bus x
  let c := s.timing.settings
  match m.state with
  | .good =>
    if good then s.modBus x fun m => { m with badCount := 0 }
    else if c.badFrameLimit ≤ m.badCount + 1 then s.changeBus x .failed .badFrames
    else s.modBus x fun m => { m with badCount := m.badCount + 1 }
  | .unqualified | .failed =>
    if good then
      let count := satAdd 8000 m.goodCount 1
      if c.goodFrameCount ≤ count ∧ m.windowPassed = true then s.changeBus x .good .qualified
      else s.modBus x fun m => { m with goodCount := count }
    else s.modBus x fun m => { m with goodCount := 0 }

/-- A missing clock (R89): the timing window is discarded, the flywheel unaligned, the counts 0,
window passed clear and the silence count held at 32; a monitor not already FAILED enters FAILED. That
the window is discarded also where its last edge falls together with the missing clock, and is not
judged in FAILED as R106 has it, is the model's choice (assumption 31). -/
def State.loseClock (s : State) (x : Bus) : State :=
  let s1 := s.modBus x fun m =>
    { m with window := none, flywheel := none, stray := false, goodCount := 0, badCount := 0
             windowPassed := false, silence := Config.silenceLimit }
  match (s.timing.bus x).state with
  | .failed => s1
  | .unqualified | .good => s1.changeBus x .failed .missingClock

/-- A bus's offset x over a timing window of `cycles` local cycles (R90). -/
def busOffset (cycles : Nat) : Int :=
  clampSigned (roundHalfAway (((cycles : Int) - Config.nominalCycles) * 10000000)
    Config.nominalCycles)

/-- A new timing window begins at an edge of the bus clock (R90, R102). -/
def State.beginTimingWindow (s : State) (x : Bus) : State :=
  let active := s.timing.selector == .on x
  s.modBus x fun m => { m with window := some {}, activeThroughout := active }

/-- The part of a window end that concerns reverting and the history (R94, R102): an in-limit window
that finds the monitor GOOD counts toward reverting on the preferred bus, and joins the history if
the selector has been on the bus throughout. -/
def Timing.creditWindow (t : Timing) (x : Bus) (offset : Int) : Timing :=
  let t1 := if x = t.settings.preferred then
      { t with revertCount := satAdd 255 t.revertCount 1 }
    else t
  if t1.selector = .on x ∧ (t1.bus x).activeThroughout = true then
    t1.withHistory (joinHistory t1.history offset)
  else t1

/-- The end of a timing window of bus x (R90, R91, R93, R94, R102); the next window begins at the
same edge. -/
def State.endTimingWindow (s : State) (x : Bus) (cycles : Nat) : State :=
  let offset := busOffset cycles
  let inLimit := offset.natAbs ≤ s.timing.settings.freqLimit
  let s1 := s.modBus x fun m => { m with lastX := offset }
  let s2 := match (s.timing.bus x).state with
    | .good =>
      if inLimit then
        let t := s1.modTiming fun t => t.creditWindow x offset
        if x = t.timing.settings.preferred then t.takeSelector .busGood else t
      else s1.changeBus x .failed .frequency
    | .unqualified | .failed =>
      if inLimit then
        if s1.timing.settings.goodFrameCount ≤ (s1.timing.bus x).goodCount then
          s1.changeBus x .good .qualified
        else s1.modBus x fun m => { m with windowPassed := true }
      else s1.modBus x fun m => { m with windowPassed := false }
  s2.beginTimingWindow x

/-! ## Bus clock edges -/

/-- What an edge of the bus clock does to the flywheel (R87): the monitor after it, and the
judgement of a bus frame where the edge brings one. -/
def BusMonitor.edge (m : BusMonitor) (pulse : Bool) : BusMonitor × Option Bool :=
  let m1 := { m with silence := 0 }
  match m.flywheel with
  | none => if pulse then ({ m1 with flywheel := some 0, stray := false }, none) else (m1, none)
  | some f =>
    let p := (f + 1) % 320
    if p = 0 then ({ m1 with flywheel := some 0, stray := false }, some (pulse && !m.stray))
    else if pulse then
      match m.state with
      | .good => ({ m1 with flywheel := some p, stray := true }, none)
      | .unqualified | .failed => ({ m1 with flywheel := some 0, stray := false }, some false)
    else ({ m1 with flywheel := some p }, none)

/-- An edge counted by the timing window of the bus (R90): it begins a window, or is the edge that
ends one, or is one of its edges. -/
def State.countEdge (s : State) (x : Bus) : State :=
  match (s.timing.bus x).window with
  | none => s.beginTimingWindow x
  | some w =>
    if Config.timingWindowEdges ≤ w.edges + 1 then s.endTimingWindow x w.cycles
    else s.modBus x fun m => { m with window := some { w with edges := w.edges + 1 } }

/-- A rising edge of a bus clock (R87, R88, R90, R98): the flywheel, the office bit where the bus is
followed, the judgement the edge brings, and the timing window, in this order. -/
def State.busEdge (s : State) (x : Bus) (pulse : Bool) : State :=
  let e := (s.timing.bus x).edge pulse
  let s1 := s.modBus x fun _ => e.1
  let s2 := if s.timing.selector = .on x then s1.busBit (e.1.flywheel.getD 0) else s1
  let s3 := match e.2 with
    | some good => s2.judgeFrame x good
    | none => s2
  s3.countEdge x

/-! ## The hold latch -/

/-- HOLDREQ found asserted (R96): the latch is set, HOLD_LATCH is posted when it was clear, and the
selector enters HOLDOVER at the same event. -/
def State.latchHold (s : State) : State :=
  if s.timing.holdLatch then s
  else
    ((s.modTiming fun t => { t with holdLatch := true }).post .holdLatch 1
      [word s.timing.selector.code]).takeSelector .holdLatch

/-! ## Local cycles -/

/-- A local cycle for a bus monitor (R89, R90): the timing window counts it, and the silence count
advances unless it already holds at 32. -/
def BusMonitor.cycle (m : BusMonitor) : BusMonitor :=
  { m with
    window := m.window.map fun w => { w with cycles := w.cycles + 1 }
    silence := min Config.silenceLimit (m.silence + 1) }

/-- A local cycle for bus x, with the missing clock where the silence count reaches 32 (R89). -/
def State.cycleBus (s : State) (x : Bus) : State :=
  let s1 := s.modBus x BusMonitor.cycle
  if (s.timing.bus x).silence + 1 = Config.silenceLimit then s1.loseClock x else s1

/-- A local cycle for the NCO (R103): in FREE and HOLDOVER S is added to the accumulator, and a
carry out of it is an office bit. -/
def State.cycleNco (s : State) : State :=
  match s.timing.selector with
  | .on _ => s
  | .free | .holdover =>
    let total := s.timing.ncoAccumulator.toNat + s.timing.ncoStep.toNat
    let s1 := s.modTiming fun t => { t with ncoAccumulator := BitVec.ofNat 32 total }
    if 4294967296 ≤ total then s1.ncoBit else s1

end Sys2Proof.Machine
end

