-- ==== Sys2Proof/Machine/Operands.lean ====
section
/-!
DEFINITION. The requests' fields: their checks in order, their clamped values, and the verdict a
request is answered with (R26, R27, R41, R42, R67, R104, R123, R134, R159, R162).
-/
namespace Sys2Proof.Machine

/-- What a request's checks decide (R159): a refusal with its reason and DETAIL, or acceptance with
the mask of the words moved by clamping (R151). -/
inductive Verdict where
  | refused (reason : Reason) (detail : Word)
  | accepted (mask : Word)
deriving DecidableEq, Repr

/-- The offset of the first field found out of its list (R26, R159); each entry is a word offset and
whether the field is in its list. -/
def firstBadField (fields : List (Nat × Bool)) : Option Nat :=
  (fields.find? fun f => !f.2).map (·.1)

/-- The mask of moved words: bit i for request word i (R151). -/
def movedMask (fields : List (Nat × Bool)) : Word := pack (fields.map fun f => (bit f.2, f.1))

/-! ## Line requests -/

/-- The values an accepted line request puts in force, after clamping. -/
structure LineSettings where
  confirmCount : Nat
  lossCount : Nat
  idleCode : Octet
  placement : Placement
  thresholds : StagedReader
  windowLength : Nat
  windowMode : WindowMode
  reportWindows : Bool
  horizonLimit : Nat
deriving DecidableEq, Repr

/-- RECENTRE is present (section 9.8). -/
def LineRequest.hasRecentre (q : LineRequest) : Bool := q.actions.getLsbD 8

/-- RESTART_LINE is present (section 9.8). -/
def LineRequest.hasRestart (q : LineRequest) : Bool := q.actions.getLsbD 9

/-- ARM_WINDOW is present (section 9.8). -/
def LineRequest.hasArm (q : LineRequest) : Bool := q.actions.getLsbD 10

/-- CLEAR_COUNTS is present (section 9.8). -/
def LineRequest.hasClear (q : LineRequest) : Bool := q.actions.getLsbD 11

/-- SERVICE is IN (R12). -/
def LineRequest.isIn (q : LineRequest) : Bool := q.service == 1

/-- SERVICE is OUT (R12). -/
def LineRequest.isOut (q : LineRequest) : Bool := q.service == 0

/-- The placement a line request names (R24). -/
def LineRequest.placement (q : LineRequest) : Placement :=
  { bank := Fin.ofNat 8 q.bank.toNat
    base := q.base.toNat
    capacity := q.capacity.toNat
    unit := if q.slipUnit = 1 then .group else .frame }

/-- The lower threshold of a request, against its placement (R41, R42 step 1). -/
def lowThreshold (p : Placement) (given : Nat) : Nat :=
  if given = 0 then 320 else clamp 320 (p.usable - 160 - 320 * p.u) given

/-- The upper threshold of a request, given the lower (R41, R42 step 2). -/
def highThreshold (p : Placement) (tLow given : Nat) : Nat :=
  if given = 0 then p.usable - 160 else clamp (tLow + 320 * p.u) (p.usable - 160) given

/-- The values a line request yields after clamping (R9, R41, R42, R67). -/
def LineRequest.settings (q : LineRequest) : LineSettings :=
  let p := q.placement
  let tLow := lowThreshold p q.tLow.toNat
  { confirmCount := clamp 1 15 q.confirmCount.toNat
    lossCount := clamp 1 15 q.lossCount.toNat
    idleCode := q.actions.setWidth 8
    placement := p
    thresholds :=
      { tLow := tLow, tHigh := highThreshold p tLow q.tHigh.toNat, slipEvents := q.slipEvents == 1 }
    windowLength := clamp 800 64000 q.windowLength.toNat
    windowMode := if q.windowMode = 1 then .single else .continuous
    reportWindows := q.reportWindows == 1
    horizonLimit := clamp 0 3600 q.horizonLimit.toNat }

/-- Check 1 of R26: the enumerated fields of a line request. -/
def LineRequest.badField (q : LineRequest) : Option Nat :=
  firstBadField [(1, q.service.toNat ≤ 1), (8, q.slipUnit.toNat ≤ 1), (11, q.slipEvents.toNat ≤ 1),
    (13, q.windowMode.toNat ≤ 1), (14, q.reportWindows.toNat ≤ 1)]

/-- Check 3 of R26: the capacity is legal for the slip unit. -/
def LineRequest.capacityLegal (q : LineRequest) : Bool :=
  if q.slipUnit = 1 then 12 ≤ q.capacity.toNat && q.capacity.toNat ≤ 32
  else 4 ≤ q.capacity.toNat && q.capacity.toNat ≤ 32

/-- SERVICE = OUT carries RECENTRE, RESTART_LINE or ARM_WINDOW (R159). -/
def LineRequest.conflicts (q : LineRequest) : Bool :=
  q.isOut && (q.hasRecentre || q.hasRestart || q.hasArm)

/-- Two rings share a slot: the same working bank and overlapping runs (R27). -/
def Placement.shares (p q : Placement) : Bool :=
  p.bank == q.bank && p.base < q.base + q.capacity && q.base < p.base + p.capacity

/-- The lowest-numbered other in-service line whose ring shares a slot with a placement (R27). -/
def State.overlapping (s : State) (n : LineNo) (p : Placement) : Option LineNo :=
  (List.finRange 64).find? fun m =>
    m != n && (s.line m).state.inService && p.shares (s.line m).placement

/-- The words of a line request moved by clamping (R9, R42, R67). -/
def LineRequest.moved (q : LineRequest) : Word :=
  let v := q.settings
  movedMask [(2, v.confirmCount != q.confirmCount.toNat), (3, v.lossCount != q.lossCount.toNat),
    (9, q.tLow != 0 && v.thresholds.tLow != q.tLow.toNat),
    (10, q.tHigh != 0 && v.thresholds.tHigh != q.tHigh.toNat),
    (12, v.windowLength != q.windowLength.toNat), (15, v.horizonLimit != q.horizonLimit.toNat)]

/-- The checks of a line request, in order (R26, R27, R159). -/
def State.checkLine (s : State) (n : LineNo) (q : LineRequest) : Verdict :=
  match q.badField with
  | some i => .refused .badField (word i)
  | none =>
    if 7 < q.bank.toNat then .refused .badBank 0
    else if !q.capacityLegal then .refused .badCapacity 0
    else if 256 < q.base.toNat + q.capacity.toNat then .refused .outOfBank 0
    else if q.conflicts then .refused .conflict 4
    else if q.isIn then
      match s.overlapping n q.placement with
      | some m => .refused .overlap (word m.val)
      | none => .accepted q.moved
    else .accepted q.moved

/-! ## Timing requests -/

/-- REALIGN is present (section 9.8). -/
def TimingRequest.hasRealign (q : TimingRequest) : Bool := q.actions.getLsbD 0

/-- CLEAR_HOLD_LATCH is present (section 9.8). -/
def TimingRequest.hasClearLatch (q : TimingRequest) : Bool := q.actions.getLsbD 1

/-- CLEAR_HISTORY is present (section 9.8). -/
def TimingRequest.hasClearHistory (q : TimingRequest) : Bool := q.actions.getLsbD 2

/-- The settings a timing request puts in force, after clamping (R104). -/
def TimingRequest.settings (q : TimingRequest) : TimingSettings :=
  { preferred := if q.preferred = 1 then .b else .a
    revertive := q.revertive == 1
    force :=
      if q.force = 1 then .bus .a else if q.force = 2 then .bus .b
      else if q.force = 3 then .holdover else .none
    revertDelay := clamp 1 60 q.revertDelay.toNat
    badFrameLimit := clamp 1 15 q.badFrameLimit.toNat
    goodFrameCount := clamp 8 8000 q.goodFrameCount.toNat
    freqLimit := clamp 10 10000 q.freqLimit.toNat }

/-- The words of a timing request moved by clamping (R104). -/
def TimingRequest.moved (q : TimingRequest) : Word :=
  let v := q.settings
  movedMask [(4, v.revertDelay != q.revertDelay.toNat), (5, v.badFrameLimit != q.badFrameLimit.toNat),
    (6, v.goodFrameCount != q.goodFrameCount.toNat), (7, v.freqLimit != q.freqLimit.toNat)]

/-- New settings in force (R94, R104): the revert count is 0 where the preferred bus changes. -/
def Timing.configure (t : Timing) (c : TimingSettings) : Timing :=
  { t with
    settings := c
    revertCount := if c.preferred = t.settings.preferred then t.revertCount else 0 }

/-- The timing unit after a request's settings and any clearing of the hold latch, before the
selector takes its next state (R100, R104). -/
def Timing.requested (t : Timing) (q : TimingRequest) : Timing :=
  let t1 := t.configure q.settings
  let t2 := if q.hasClearHistory then t1.withHistory [] else t1
  if q.hasClearLatch then { t2 with holdLatch := false } else t2

/-- The checks of a timing request, in order (R100, R104). -/
def State.checkTiming (s : State) (q : TimingRequest) : Verdict :=
  match firstBadField [(1, q.preferred.toNat ≤ 1), (2, q.revertive.toNat ≤ 1),
      (3, q.force.toNat ≤ 3)] with
  | some i => .refused .badField (word i)
  | none =>
    if q.hasClearLatch && s.holdreq then .refused .holdActive 0
    else if q.hasRealign && (s.timing.requested q).nextSelector.onBus.isNone then .refused .noBus 0
    else .accepted q.moved

/-! ## Store requests -/

/-- The AUTO_LIMIT a store request puts in force (R123). -/
def StoreRequest.limit (q : StoreRequest) : Nat := clamp 0 255 q.autoLimit.toNat

/-- The bank a SWAP names, where it is a working bank (R123). -/
def StoreRequest.bank (q : StoreRequest) : Fin 8 := Fin.ofNat 8 q.swapBank.toNat

/-- Check 3 of R123: whether the spare action suits the state of spare control (R124 to R126). -/
def SpareState.refuses (x : SpareState) (action : Nat) : Option Reason :=
  match action, x with
  | 1, .standby => none
  | 1, _ => some .spareBusy
  | 2, .spared _ => none
  | 2, _ => some .spareBusy
  | 3, .mirror _ => none
  | 3, .restore _ => none
  | 3, _ => some .nothingToCancel
  | _, _ => none

/-- The checks of a store request, in order (R123). -/
def State.checkStore (s : State) (q : StoreRequest) : Verdict :=
  match firstBadField [(1, q.spareAction.toNat ≤ 3), (3, q.clearBankCounts.toNat ≤ 1)] with
  | some i => .refused .badField (word i)
  | none =>
    if q.spareAction = 1 ∧ 7 < q.swapBank.toNat then .refused .badBank 0
    else match s.spare.state.refuses q.spareAction.toNat with
      | some r => .refused r 0
      | none => .accepted (movedMask [(4, q.limit != q.autoLimit.toNat)])

/-! ## Monitor requests -/

/-- The monitor event of a code (R136). -/
def monitorEventOf (x : Nat) : Option MonitorEvent :=
  [MonitorEvent.officeFrames, .repeats, .deletes, .alignErrors, .overruns, .underruns, .substituted,
    .storeCorrected, .storeUncorrected, .linesNotRunning, .fillAtOrAbove, .fillBelow][x]?

/-- The overflow action of a code (R134). -/
def overflowActionOf (x : Nat) : Option OverflowAction :=
  [OverflowAction.none, .journal, .freezeAll, .journalFreeze][x]?

/-- The settings a monitor request puts in force, after clamping (R134). -/
def MonitorRequest.settings (q : MonitorRequest) : MonitorSettings :=
  { enabled := q.enable == 1
    event := (monitorEventOf q.event.toNat).getD .officeFrames
    line := if h : q.line.toNat < 64 then some ⟨q.line.toNat, h⟩ else none
    level := clamp 0 10240 q.level.toNat
    threshold := clamp 0 255 q.threshold.toNat
    less := q.sense == 1
    edge := q.edge == 1
    overflowAction := (overflowActionOf q.ovfAction.toNat).getD .none
    preset := ofHalves q.presetHigh q.presetLow }

/-- The checks of a monitor request (R134). -/
def checkMonitor (q : MonitorRequest) : Verdict :=
  match firstBadField [(1, q.enable.toNat ≤ 1), (2, q.event.toNat ≤ 11),
      (3, q.line.toNat ≤ 63 || q.line.toNat == 255), (6, q.sense.toNat ≤ 1), (7, q.edge.toNat ≤ 1),
      (8, q.ovfAction.toNat ≤ 3), (11, q.loadPreset.toNat ≤ 1), (12, q.clearOverflow.toNat ≤ 1)] with
  | some i => .refused .badField (word i)
  | none =>
    .accepted (movedMask [(4, q.settings.level != q.level.toNat),
      (5, q.settings.threshold != q.threshold.toNat)])

/-! ## Directory requests -/

/-- The checks of a directory request, in order (R162). -/
def State.checkDirectory (s : State) (q : DirectoryRequest) : Verdict :=
  match firstBadField [(2, q.unfreeze.toNat ≤ 1), (3, q.clearViolations.toNat ≤ 1),
      (4, q.clearUnposted.toNat ≤ 1)] with
  | some i => .refused .badField (word i)
  | none =>
    if q.unfreeze = 1 ∧ s.freezeHeld = true then .refused .overflowPending 0 else .accepted 0

end Sys2Proof.Machine
end

