-- ==== Sys2Proof/Machine/Requests.lean ====
section
/-!
DEFINITION. What accepted requests and their actions do (R12 to R15, R28, R58, R62, R69 to R72,
R96, R100, R102, R104, R123, R134, R140, R146, R162), and how a request is taken and answered
(R159).
-/
namespace Sys2Proof.Machine

/-! ## Line actions -/

/-- SERVICE = OUT on a line in service (R12, R35, R71, R121). -/
def State.leaveService (s : State) (n : LineNo) : State :=
  if (s.line n).state.inService then
    let s1 := s.modLine n fun l =>
      { l with
        deadCount := 0
        framer := huntingFramer true
        ring := { l.ring with held := 0 }
        window := l.window.stop }
    (s1.changeLine n .out .serviceOut).coverLine n
  else s

/-- SERVICE = IN on an OUT line (R12, R69). -/
def State.enterService (s : State) (n : LineNo) : State :=
  if (s.line n).state.inService then s
  else
    (s.modLine n fun l =>
      { l with
        deadCount := 0
        framer := huntingFramer false
        window := l.window.causeStart }).changeLine n .hunting .serviceIn

/-- RESTART_LINE (R15): a FILLING, RUNNING or DEAD line passes to HUNTING; a HUNTING line's framer
alone is returned to HUNT; an OUT line is left as it is. -/
def State.restartLine (s : State) (n : LineNo) : State :=
  match (s.line n).state with
  | .out => s
  | .hunting => s.setFramer n (huntingFramer false)
  | .filling | .running | .dead =>
    (s.modLine n fun l =>
      { l with
        deadCount := 0
        framer := huntingFramer false
        ring := { l.ring with held := 0 } }).changeLine n .hunting .restartLine

/-- RECENTRE becomes pending (R58). -/
def State.pendRecentre (s : State) (n : LineNo) : State :=
  s.modLine n fun l => { l with reader := { l.reader with recentrePending := true } }

/-- ARM_WINDOW (R72). -/
def State.armWindow (s : State) (n : LineNo) : State :=
  s.modLine n fun l => { l with window := l.window.arm }

/-- CLEAR_COUNTS (R62). -/
def State.clearCounts (s : State) (n : LineNo) : State :=
  s.modLine n fun l => { l with counters := {} }

/-! ## Line settings -/

/-- The coverage of a line after a structural change to a placement in bank `new`, while bank k is
mirrored or restored (R121). -/
def movedCoverage (k new : Fin 8) (state : LineState) (c : Coverage) : Coverage :=
  if new = k then
    match c.mark, state with
    | .notConcerned, .hunting => { mark := .pending }
    | .notConcerned, _ => { c with mark := .covered }
    | .pending, .hunting => { mark := .pending }
    | .pending, _ => c
    | .covered, _ => c
  else { c with mark := .notConcerned }

/-- The coverage mark at a structural change, which may complete the operation (R121, R122). -/
def State.moveCoverage (s : State) (n : LineNo) : State :=
  match s.spare.state.operating with
  | none => s
  | some k =>
    (s.setCover n (movedCoverage k (s.line n).placement.bank (s.line n).state (s.cover n)))

/-- A structural change (R14, R28, R69, R121): the new placement is in force; a FILLING or RUNNING
line makes a store reset under it; a line in service has a window start caused. -/
def State.changePlacement (s : State) (n : LineNo) (p : Placement) : State :=
  let s1 := s.modLine n fun l =>
    { l with
      placement := p
      window := if l.state.inService then l.window.causeStart else l.window }
  let s2 := s1.moveCoverage n
  let s3 := match (s.line n).state with
    | .filling | .running => s2.refill n .structural
    | .out | .hunting | .dead => s2
  s3.settleSpare

/-- The settings of an accepted line request come into force, the thresholds and SLIP_EVENTS staged
(R9, R14, R17, R43, R67, R68). -/
def State.applyLineSettings (s : State) (n : LineNo) (v : LineSettings) : State :=
  let s1 := s.modLine n fun l =>
    { l with
      confirmCount := v.confirmCount
      lossCount := v.lossCount
      idleCode := v.idleCode
      reader := { l.reader with staged := some v.thresholds } }
  let s2 := if v.placement = (s.line n).placement then s1 else s1.changePlacement n v.placement
  s2.modLine n fun l =>
    { l with window :=
      l.window.settings v.windowLength v.windowMode v.reportWindows v.horizonLimit }

/-- An accepted line request, in the order of R12: SERVICE = OUT or RESTART_LINE on a line in
service, the settings, SERVICE = IN on an OUT line, then RECENTRE, ARM_WINDOW and CLEAR_COUNTS. -/
def State.applyLine (s : State) (n : LineNo) (q : LineRequest) : State :=
  let s1 :=
    if q.isOut then s.leaveService n else if q.hasRestart then s.restartLine n else s
  let s2 := s1.applyLineSettings n q.settings
  let s3 := if q.isIn then s2.enterService n else s2
  let s4 := if q.hasRecentre then s3.pendRecentre n else s3
  let s5 := if q.hasArm then s4.armWindow n else s4
  if q.hasClear then s5.clearCounts n else s5

/-! ## Timing actions -/

/-- The cause of a selector change at the patrol step of a timing request (R97): FORCE where the
force setting changes, LATCH_CLEARED where the latch is cleared, else SETTINGS. -/
def requestCause (t : Timing) (q : TimingRequest) : SelectorCause :=
  if q.settings.force ≠ t.settings.force then .force
  else if q.hasClearLatch && t.holdLatch then .latchCleared
  else .settings

/-- REALIGN becomes pending (R100). -/
def State.pendRealign (s : State) : State := s.modTiming fun t => { t with realignPending := true }

/-- An accepted timing request (R104): settings, CLEAR_HISTORY, CLEAR_HOLD_LATCH, the selector's next
state once, then REALIGN. -/
def State.applyTiming (s : State) (q : TimingRequest) : State :=
  let s1 := (s.modTiming fun t => t.requested q).takeSelector (requestCause s.timing q)
  if q.hasRealign then s1.pendRealign else s1

/-- CLEAR_HISTORY (R102). -/
def State.clearHistory (s : State) : State := s.modTiming fun t => t.withHistory []

/-- CLEAR_HOLD_LATCH with HOLDREQ not asserted (R96). -/
def State.clearLatch (s : State) : State :=
  (s.modTiming fun t => { t with holdLatch := false }).takeSelector .latchCleared

/-! ## Store actions -/

/-- CLEAR_BANK_COUNTS (R22). -/
def State.clearBankCounts (s : State) : State := { s with bankCounts := Vector.replicate 9 {} }

/-- An accepted store request (R123): AUTO_LIMIT, CLEAR_BANK_COUNTS, then the spare action. -/
def State.applyStore (s : State) (q : StoreRequest) : State :=
  let s1 := s.modSpare fun x => { x with autoLimit := q.limit }
  let s2 := if q.clearBankCounts = 1 then s1.clearBankCounts else s1
  if q.spareAction = 1 then s2.takeSwap q.bank
  else if q.spareAction = 2 then s2.takeReturn
  else if q.spareAction = 3 then s2.takeCancel
  else s2

/-! ## Monitor actions -/

/-- An accepted monitor request (R134): settings, LOAD_PRESET, CLEAR_OVERFLOW. -/
def State.applyMonitor (s : State) (m : MonitorNo) (q : MonitorRequest) : State :=
  let s1 := s.setMonitor m ((s.monitor m).configure q.settings)
  let s2 := if q.loadPreset = 1 then s1.loadPreset m else s1
  if q.clearOverflow = 1 then s2.clearOverflow m else s2

/-! ## Directory actions -/

/-- CLEAR_VIOLATIONS (R146). -/
def State.clearViolations (s : State) : State := { s with violations := {} }

/-- CLEAR_UNPOSTED (R162). -/
def State.clearUnposted (s : State) : State :=
  s.modJournal fun j => { j with unposted := Vector.replicate 15 0 }

/-- An accepted directory request, in the order of R162. -/
def State.applyDirectory (s : State) (q : DirectoryRequest) : State :=
  let s1 := s.modJournal fun j => { j with kindMask := q.kindMask.setWidth 15 }
  let s2 := if q.clearViolations = 1 then s1.clearViolations else s1
  let s3 := if q.clearUnposted = 1 then s2.clearUnposted else s2
  if q.unfreeze = 1 then s3.unfreeze else s3

/-! ## Taking a request -/

/-- A verdict in the report's common head (R151, R159): APPSER is the serial taken, ACTSER only on
acceptance. -/
def ReportHead.answer (x : ReportHead) (serial : Word) (v : Verdict) : ReportHead :=
  match v with
  | .refused r d => { x with appser := serial, result := .refused, reason := r, detail := d }
  | .accepted mask =>
    { x with appser := serial, actser := serial
             result := if mask = 0 then .accepted else .acceptedClamped
             reason := .none, detail := mask }

/-- A new request taken (R159): an accepted one is applied by `apply`, a refused one applies nothing
and posts REQUEST_REFUSED; either way it is answered in the record's head. -/
def State.answerRequest (s : State) (r : Record) (serial : Word) (v : Verdict) (accepted : State) :
    State :=
  match v with
  | .refused reason detail =>
    let s1 := s.post .requestRefused r.number.val [serial, word reason.code, detail]
    s1.setHead r ((s1.head r).answer serial v)
  | .accepted _ => accepted.setHead r ((accepted.head r).answer serial v)

/-- A line request taken (R159). -/
def State.takeLineRequest (s : State) (n : LineNo) (q : LineRequest) : State :=
  s.answerRequest (.line n) q.serial (s.checkLine n q) (s.applyLine n q)

/-- A timing request taken (R104, R159). -/
def State.takeTimingRequest (s : State) (q : TimingRequest) : State :=
  s.answerRequest .timing q.serial (s.checkTiming q) (s.applyTiming q)

/-- A store request taken (R123, R159). -/
def State.takeStoreRequest (s : State) (q : StoreRequest) : State :=
  s.answerRequest .store q.serial (s.checkStore q) (s.applyStore q)

/-- A monitor request taken (R134, R159). -/
def State.takeMonitorRequest (s : State) (m : MonitorNo) (q : MonitorRequest) : State :=
  s.answerRequest (.monitor m) q.serial (checkMonitor q) (s.applyMonitor m q)

/-- A directory request taken (R159, R162). -/
def State.takeDirectoryRequest (s : State) (q : DirectoryRequest) : State :=
  s.answerRequest .directory q.serial (s.checkDirectory q) (s.applyDirectory q)

end Sys2Proof.Machine
end

