-- ==== Sys2Proof/Machine/Report.lean ====
section
/-!
DEFINITION. The report halves of the records (section 9.8; R18, R36, R64, R83, R105, R130, R141,
R151, R162): the words each owner's state gives, as word offset and value.
-/
namespace Sys2Proof.Machine

/-- The words of a list placed from word `i` on. -/
def placedFrom : Nat → List Word → List (Nat × Word)
  | _, [] => []
  | i, w :: t => (i, w) :: placedFrom (i + 1) t

/-- Words 17 to 20 of every report: APPSER, ACTSER, RESULT and REASON, DETAIL (R151). -/
def ReportHead.words (x : ReportHead) : List Word :=
  [x.appser, x.actser, pack [(x.result.code, 8), (x.reason.code, 0)], x.detail]

/-- SERVICE in force (section 1.5): IN for a line in service. -/
def Line.service (l : Line) : Bool := l.state.inService

/-- The staged mode as the line report codes it: 0 none, 1 CONTINUOUS, 2 SINGLE. -/
def stagedModeCode : Option (Nat × WindowMode) → Nat
  | none => 0
  | some (_, .continuous) => 1
  | some (_, .single) => 2

/-- The nine counters in the order of the line report (section 9.8). -/
def LineCounters.toList (c : LineCounters) : List Long :=
  [c.repeats, c.deletes, c.alignErrors, c.overruns, c.underruns, c.misalign, c.substituted,
    c.storeCorrected, c.storeUncorrected]

/-- Words 35 to 45 of the line report: the last window record (section 9.8). A negative offset stands
as 16-bit two's complement, which the manual states of journal details alone (assumption 27). -/
def WindowRecord.words (r : WindowRecord) : List Word :=
  [r.index, word r.length] ++ halves (BitVec.ofNat 32 r.bits)
    ++ [signedWord r.offset, word r.minFill, word r.maxFill, word r.repeats, word r.deletes]
    ++ halves r.horizon

/-- Words 21 to 63 of the line report (section 9.8). -/
def lineReport (l : Line) : List Word :=
  let p := l.placement
  let x := l.reader
  let w := l.window
  [ pack [(l.state.code, 13), (l.framer.state.code, 11), (l.deadCount, 7), (l.lastCause.code, 3),
      (bit x.recentrePending, 2), (bit x.lastSubstituted, 1), (bit l.service, 0)],
    pack [(l.idleCode.toNat, 8), (p.bank.val, 5), (p.unit.code, 4), (x.lastDecision.code, 0)],
    pack [(l.confirmCount, 12), (l.lossCount, 8), (bit x.slipEvents, 7), (bit w.counting, 6),
      (bit w.startPending, 5), (bit (w.mode == .single), 4), (stagedModeCode w.staged, 2),
      (bit w.reportWindows, 1)],
    pack [(p.base, 8), (p.capacity, 0)],
    pack [(l.ring.readIndex, 10), (l.ring.held, 5), (p.heldMax, 0)],
    word p.usable, word x.tLow, word x.tHigh, word x.centre, word x.lastFill,
    word w.counter, word w.length, word (match w.staged with | some (k, _) => k | none => 0),
    pack (flagFields w.record.flags ++ [(w.horizonLimit, 0)]) ]
  ++ w.record.words ++ (l.counters.toList.map halves).flatten

/-- The three words of one bus in the timing report: state, window passed and bad count; good count;
last x (section 9.8), signed as in assumption 27. -/
def busReport (m : BusMonitor) : List Word :=
  [ pack [(m.state.code, 14), (bit m.windowPassed, 13), (m.badCount, 0)],
    word m.goodCount, signedWord m.lastX ]

/-- Words 21 to 50 of the timing report (section 9.8). -/
def timingReport (t : Timing) (holdreq : Bool) : List Word :=
  let c := t.settings
  [ word (busCode c.preferred), word (bit c.revertive), word c.force.code, word c.revertDelay,
    word c.badFrameLimit, word c.goodFrameCount, word c.freqLimit, word t.selector.code ]
  ++ halves t.switchCount ++ busReport t.busA ++ busReport t.busB
  ++ [ word t.revertCount, word t.buildOut, word t.phase,
    pack [(bit t.realignPending, 0), (bit t.holdLatch, 1), (bit holdreq, 2),
      (t.history.length, 8)] ]
  ++ (List.range 4).map (fun i => signedWord (t.history.getD i 0))
  ++ [signedWord t.hv] ++ halves t.ncoStep
  ++ [ (t.frameCounter >>> 32).setWidth 16, (t.frameCounter >>> 16).setWidth 16,
    t.frameCounter.setWidth 16 ]

/-- Words 21 to 123 of the store report (section 9.8); the spared bank reads 0 in STANDBY (R130). -/
def storeReport (s : State) : List Word :=
  [ pack [(s.spare.state.code, 14), (s.spare.lastCause.code, 8),
      ((s.spare.state.bank.map (·.val)).getD 0, 0)],
    word s.spare.autoLimit, word s.spare.outstanding ]
  ++ ((List.finRange 9).map fun b =>
      halves (s.bank b).corrected ++ halves (s.bank b).uncorrected).flatten
  ++ (List.finRange 64).map fun n => pack [((s.cover n).mark.code, 14), ((s.cover n).count, 0)]

/-- Words 21 to 28 of a monitor report (section 9.8); LINE is 255 for all lines. -/
def monitorReport (m : Monitor) (freeze : Bool) : List Word :=
  let c := m.settings
  [ pack [(bit c.enabled, 15), (bit c.less, 14), (bit c.edge, 13), (c.overflowAction.code, 11),
      (bit m.armed, 10), (bit m.edgeHistory, 9), (bit m.overflow, 8), (bit freeze, 7),
      (c.event.code, 0)],
    word (match c.line with | some n => n.val | none => 255), word c.level, word c.threshold ]
  ++ halves c.preset ++ halves m.count

/-- Words 21 to 66 of the directory report (section 9.8). -/
def directoryReport (s : State) : List Word :=
  [ s.journal.kindMask.setWidth 16, word (bit s.monitorUnit.freeze), word s.violations.count,
    s.violations.address ]
  ++ halves s.scrub.passes ++ halves s.scrub.corrected
  ++ [word s.badWords.offsets.length, word s.badWords.overflow]
  ++ (List.range 16).map (fun i => word (s.badWords.offsets.getD i 0))
  ++ halves s.journal.nextSerial
  ++ [word s.journal.heldCount, word s.journal.badCount, word (bit s.journal.halted)]
  ++ (List.finRange 15).map fun k => word s.journal.unposted[k]

/-- The words of a record's report half after the common head, by word offset (R161, section 9.8);
the directory's identity words are among them. -/
def State.reportBody (s : State) : Record → List (Nat × Word)
  | .directory => placedFrom 21 (directoryReport s) ++ identityWords
  | .timing => placedFrom 21 (timingReport s.timing s.holdreq)
  | .store => placedFrom 21 (storeReport s)
  | .monitor m => placedFrom 21 (monitorReport (s.monitor m) s.monitorUnit.freeze)
  | .line n => placedFrom 21 (lineReport (s.line n))

/-- The writes of a report under UPDCNT (R151, R161), by word address: UPDCNT made odd, the words in
ascending order, UPDCNT made even. The order of the words is the model's choice (assumption 32). -/
def reportWrites (r : Record) (updcnt : Word) (body : List (Nat × Word)) : List (Nat × Word) :=
  ((16, updcnt + 1) :: body ++ [(16, updcnt + 2)]).map fun (p : Nat × Word) => (r.base + p.1, p.2)

/-- The writes of the whole report half of a record at a patrol visit (R161). -/
def State.visitWrites (s : State) (r : Record) : List (Nat × Word) :=
  reportWrites r (s.head r).updcnt (placedFrom 17 (s.head r).words ++ s.reportBody r)

/-- UPDCNT after a report has been written. -/
def State.advanceUpdcnt (s : State) (r : Record) : State :=
  s.setHead r { s.head r with updcnt := (s.head r).updcnt + 2 }

/-- APPSER and ACTSER of a record set to 0 under its UPDCNT at an engine restart, the other report
words left as they were (R155, R161). -/
def State.clearSerials (s : State) (r : Record) : State :=
  let s1 := s.setHead r { s.head r with appser := 0, actser := 0 }
  (s1.memWriteAll (reportWrites r (s1.head r).updcnt [(17, 0), (18, 0)])).advanceUpdcnt r

end Sys2Proof.Machine
end

