-- ==== Sys2Proof/Machine/HostPort.lean ====
section
/-!
DEFINITION. The host port (chapter 9): memory cycles, protection, TAKESER, the bad-word list, register
cycles and what a write of CONTROL does at once.
-/
namespace Sys2Proof.Machine

/-- The host port is answered as during RESETn and full-reset initialisation (R144). -/
def State.portClosed (s : State) : Bool := s.phase == .inReset || s.phase == .initialising

/-- The answer of the latest host cycle. -/
def State.answerPort (s : State) (x : PortResult) : State := { s with port := x }

/-! ## The bad-word list -/

/-- A word offered to the bad-word list because an internal read found it uncorrectable (R153), by
its byte offset: held already, nothing; room, it joins and CONTROL_ECC is posted; full, the overflow
count is raised. -/
def State.offerBadWord (s : State) (offset : Nat) : State :=
  if offset ∈ s.badWords.offsets then s
  else if s.badWords.offsets.length < Config.badListSize then
    let l := s.badWords.offsets ++ [offset]
    (s.modBadWords fun b => { b with offsets := l }).post .controlEcc 0
      [word offset, word l.length]
  else s.modBadWords fun b => { b with overflow := satAdd 65535 b.overflow 1 }

/-- A host write takes a word's offset off the bad-word list; the others keep their order (R153). -/
def State.dropBadWord (s : State) (offset : Nat) : State :=
  s.modBadWords fun b => { b with offsets := b.offsets.filter (· ≠ offset) }

/-! ## Memory cycles -/

/-- A host read of a control memory word (R144, R147). -/
def State.hostRead (s : State) (a : Nat) : State :=
  if s.portClosed then s.answerPort (.readDone 0 true)
  else match ownerOf a with
    | .unassigned => s.answerPort (.readDone 0 false)
    | .host | .device =>
      match (s.memWord a).condition with
      | .uncorrectable => s.answerPort (.readDone (s.memWord a).raw true)
      | .clean | .single _ => s.answerPort (.readDone (s.memWord a).corrected false)

/-- A violation recorded (R146): the violation count saturates at 65535, the last violating address
is the word's byte offset, and ATTENTION.PROTECT is set. -/
def State.recordViolation (s : State) (a : Nat) : State :=
  { s with
    violations := { count := satAdd 65535 s.violations.count 1, address := word (2 * a) }
    attention := { s.attention with protect := true } }

/-- A refused host write (R146): the word keeps its content, the violation is recorded, PROTECT is
reported, and the cycle ends with XERRn. -/
def State.refuseWrite (s : State) (a : Nat) : State :=
  ((s.recordViolation a).answerPort (.writeDone true)).post .protect 0
    [word (2 * a), word (satAdd 65535 s.violations.count 1)]

/-- The TAKESER words of a slot, taken together (R167). -/
def State.takeserOf (s : State) (i : Fin 128) : Long :=
  ofHalves (s.memWord (journalBase i + 2)).corrected (s.memWord (journalBase i + 3)).corrected

/-- A slot whose TAKESER words have been written (R167): a HELD slot not under a post becomes FREE
when they equal its posted serial. -/
def State.compareTakeser (s : State) (i : Fin 128) : State :=
  let x := s.journalSlot i
  if x.state = .held ∧ x.posting = false ∧ s.takeserOf i = x.serial then
    s.setJournalSlot i { x with state := .free }
  else s

/-- A host write to a host-owned word (R147, R153): stored with fresh check bits, and off the
bad-word list. -/
def State.storeHostWord (s : State) (a : Nat) (x : Word) : State :=
  ((s.memWrite a x).dropBadWord (2 * a)).answerPort (.writeDone false)

/-- A host write of a control memory word (R144 to R147, R167). -/
def State.hostWrite (s : State) (a : Nat) (x : Word) : State :=
  if s.portClosed then s.answerPort (.writeDone true)
  else match ownerOf a with
    | .host =>
      match takeserSlot a with
      | some i => (s.storeHostWord a x).compareTakeser i
      | none => s.storeHostWord a x
    | .device | .unassigned => s.refuseWrite a

/-! ## Register cycles -/

/-- What a register read returns (R144, R149). -/
def State.registerRead (s : State) (reg : Fin 8) : Word :=
  match reg with
  | 0 => Config.partCode
  | 1 => Config.revision
  | 3 => if s.portClosed then 0 else s.attentionWord
  | 4 => if s.portClosed then 0 else s.mask.setWidth 16
  | _ => 0

/-- A register write that is not performed ends with XERRn; any register write does while the port
is closed (R144, R149). -/
def State.registerWrite (s : State) (performed : State) : State :=
  if s.portClosed then s.answerPort (.writeDone true) else performed.answerPort (.writeDone false)

/-- A write of ATTENTION (R150): each sticky bit written as 1 is cleared, CRITICAL only while the
journal is not halted. -/
def State.clearAttention (s : State) (x : Word) : State :=
  s.modAttention fun a =>
    { lost := a.lost && !x.getLsbD 2
      protect := a.protect && !x.getLsbD 3
      promptLost := a.promptLost && !x.getLsbD 4
      critical := a.critical && !(x.getLsbD 5 && !s.journal.halted) }

/-- A write of MASK (R149): bits 0..5 are stored. -/
def State.writeMask (s : State) (x : Word) : State := { s with mask := x.setWidth 6 }

/-- A prompt dropped (R157). -/
def State.losePrompt (s : State) : State :=
  s.modAttention fun a => { a with promptLost := true }

/-- A write of PROMPT (R157): the record joins the queue's tail, unless it waits there already, the
queue is full or the number names no record. Two rows of the rule's table fit a number that waits in a
full queue; that it is not lost is the model's choice (assumption 29). -/
def State.takePrompt (s : State) (x : Word) : State :=
  match recordOf x.toNat with
  | none => s.losePrompt
  | some r =>
    if r ∈ s.patrol.prompts then s
    else if s.patrol.prompts.length < Config.promptQueueSize then
      s.modPatrol fun p => { p with prompts := p.prompts ++ [r] }
    else s.losePrompt

/-- A read of a register word (R149). -/
def State.readRegister (s : State) (reg : Fin 8) : State :=
  s.answerPort (.readDone (s.registerRead reg) false)

/-- A write of CONTROL with bit 0 set and READY at 1 (R155, R169): a post in progress is completed with
its read-back, READY becomes 0, the prompt queue is emptied and a step that is due is not taken; the journal
writer stops, and the reports that still wait for it are counted as dropped. The held count of RESTART is taken here
(assumption 12). -/
def State.askRestart (s : State) : State :=
  ((s.finishPost.setPhase .restarting).modPatrol fun p =>
    { p with prompts := [], due := false }).modJournal fun j =>
    { j with
      waiting := []
      dropCount := satAdd 65535 j.dropCount j.waiting.length
      heldBeforeRestart := j.heldCount }

/-- A write of a register word (R149), except that a restart it asks for has not yet taken hold of the
blocks: IDENT and the unused words end with XERRn, and CONTROL acts with bit 0 set and READY at 1
alone. -/
def State.writeRegister (s : State) (reg : Fin 8) (data : Word) : State :=
  match reg with
  | 2 => s.registerWrite (if data.getLsbD 0 && s.ready then s.askRestart else s)
  | 3 => s.registerWrite (s.clearAttention data)
  | 4 => s.registerWrite (s.writeMask data)
  | 5 => s.registerWrite (s.takePrompt data)
  | _ => s.answerPort (.writeDone true)

/-- A cycle of the host port that falls between grants (R144, R148, R149); a wait is none. -/
def State.hostCycle (s : State) : HostCycle → State
  | .read a => s.hostRead a.toNat
  | .write a x => s.hostWrite a.toNat x
  | .registerRead reg => s.readRegister reg
  | .registerWrite reg x => s.writeRegister reg x
  | .wait => s

end Sys2Proof.Machine
end

