-- ==== Sys2Proof/Machine/Restart.lean ====
section
/-!
DEFINITION. Full reset and engine restart (R19, R37, R65, R85, R107, R116, R131, R143, R154, R155,
R163, R169).
-/
namespace Sys2Proof.Machine

/-- RESETn asserted (R154): every block at its full-reset values. The level of HOLDREQ and the
commands that wait are not the part's to reset. -/
def State.fullReset (s : State) : State :=
  { State.reset with holdreq := s.holdreq, pending := s.pending }

/-- RESETn released with HOLDREQ at a level (R96, R154): initialisation begins, control memory is
zeroed, the identity words and the store are written, and a HOLDREQ asserted at release sets the
hold latch. -/
def State.release (s : State) (holdreq : Bool) : State :=
  let s1 := { s with phase := .initialising, holdreq := holdreq, memory := [], slots := [] }
  let s2 := s1.memWriteAll identityWords
  if holdreq then s2.latchHold else s2

/-- A window unit at an engine restart (R85): its index and last record are kept. -/
def Window.restarted (w : Window) : Window := { index := w.index, record := w.record }

/-- A line at an engine restart (R19, R35, R37, R65, R71): OUT with the default configuration; the
last cause, the bit count, the read index and the counters are kept. -/
def Line.restarted (l : Line) : Line :=
  { lastCause := l.lastCause
    bitCount := l.bitCount
    ring := { l.ring with held := 0 }
    counters := l.counters
    window := l.window.restarted }

/-- The journal area rewritten to 0 with valid check bits (R155, R169). -/
def State.clearJournalArea (s : State) : State :=
  { s with memory := s.memory.filter fun p => p.1 < journalStart }

/-- The monitor unit at an engine restart (R143): every monitor's settings at their defaults, the
freeze clear. -/
def State.restartMonitors (s : State) : State :=
  (List.finRange 8).foldl (fun t i => t.setMonitor i (t.monitor i).restarted)
    (s.modMonitorUnit fun u => { u with freeze := false })

/-- An engine restart takes hold (R155, R169): the blocks take their engine-restart values, the kind
mask is all on, the journal area is rewritten, the report serials are set to 0, and a REALIGN whose
lengthened part has not begun is dropped (R100). The manual gives no moment of the restart to the
journal area and the serials; the model rewrites them here, before any later host cycle
(assumption 12). -/
def State.takeRestart (s : State) : State :=
  let s1 := s.modJournal fun j => { j with kindMask := 0x7FFF }
  let s2 := s1.forLines fun n t => t.modLine n Line.restarted
  let s3 := s2.restartMonitors.clearJournalArea
  let s4 := s3.modTiming fun t =>
    if t.phase < 320 then { t with realignPending := false } else t
  allRecords.foldl State.clearSerials s4

/-- The TAKESER words of every slot written to 0 (R169). -/
def State.clearTakesers (s : State) : State :=
  (List.finRange 128).foldl
    (fun t i => (t.memWrite (journalBase i + 2) 0).memWrite (journalBase i + 3) 0) s

/-- The journal writer at the end of an engine restart, before RESTART is posted (R164, R169). -/
def Journal.restarted (j : Journal) : Journal :=
  { plans := j.plans, dropCount := j.dropCount }

/-- The detail words of RESTART (R169). -/
def restartDetail (j : Journal) : List Word :=
  [word j.dropCount, word j.heldBeforeRestart, word (bit j.halted)] ++ halves j.nextSerial

/-- An engine restart ends (R155, R163, R169): spare control and the timing unit take their end
values (R107, R131), every slot is FREE with its TAKESER words 0, the halt and CRITICAL are cleared,
READY is 1, the round-robin pointer is at record 0, and RESTART is posted as the first entry. -/
def State.endRestart (s : State) : State :=
  let s1 := s.modSpare Spare.restarted
  let s2 := (s1.modTiming fun t => t.configure {}).takeSelector .settings
  let s3 := (((s2.clearTakesers.setPhase .ready).modPatrol fun p =>
    { p with pointer := .directory }).modAttention fun a =>
    { a with critical := false }).modJournal Journal.restarted
  let s4 := s3.post .restart 0 (restartDetail s2.journal)
  s4.modJournal fun j => { j with dropCount := 0 }

end Sys2Proof.Machine
end

