-- ==== Sys2Proof/Machine/PatrolUnit.lean ====
section
/-!
DEFINITION. The patrol and the scrub (chapter 10, R148, R151 to R153): the snapshot of a request, its
judgement, the report, and the eight words scrubbed; and a local oscillator cycle. A patrol step is
taken over many grants of the arbiter, one word each; `between` gives the host cycles that fall
between them, each with the number of the grant it precedes, counted within the command, and where the
step waits for a later local cycle.
-/
namespace Sys2Proof.Machine

/-- A host cycle before a grant (R148): where it falls between two words of a journal post, the writer
then goes on to the post's next stop. -/
def State.hostBefore (s : State) (c : HostCycle) : State :=
  if s.journal.current.isSome then (s.hostCycle c).goOn else s.hostCycle c

/-- The host cycles served before grant k of the patrol's work (R148). -/
def State.serveBefore (s : State) (between : List (Nat × HostCycle)) (k : Nat) : State :=
  (between.filter fun c => c.1 = k ∧ c.2 ≠ .wait).foldl (fun s c => s.hostBefore c.2) s

/-- The step waits before grant k, unless a restart has been asked for, which completes it (R155). -/
def State.waitsAt (s : State) (between : List (Nat × HostCycle)) (k : Nat) : Bool :=
  s.ready && (k, HostCycle.wait) ∈ between

/-- A step that waits for its next grant. -/
def State.suspend (s : State) (r : Record) (w : StepWork) : State :=
  s.modPatrol fun p => { p with step := some { record := r, work := w } }

/-! ## The snapshot -/

/-- The patrol's read of word i of a request half (R158): corrected, or none and offered to the
bad-word list where it is uncorrectable. -/
def State.readRequest (s : State) (r : Record) (i : Nat) : State × Option Word :=
  match (s.memWord (r.base + i)).condition with
  | .uncorrectable => (s.offerBadWord (2 * (r.base + i)), none)
  | .clean | .single _ => (s, some (s.memWord (r.base + i)).corrected)

/-- The word offsets a snapshot reads: REQSER, the fields in ascending order, REQSER (R158). -/
def snapshotOffsets (r : Record) : List Nat := 0 :: requestFields r ++ [0]

/-- What a snapshot is judged to be (R158, R160). -/
inductive Judgement where
  | torn
  | poisonedSerial
  | old
  | poisonedField (serial : Word) (offset : Nat)
  | new (words : List Word)
deriving DecidableEq, Repr

/-- The judgement of a snapshot (R158, R160), from the first reading of REQSER, the fields' readings,
the second reading of REQSER, and APPSER. -/
def judgeSnapshot (appser : Word) (first : Option Word) (fields : List (Option Word))
    (last : Option Word) : Judgement :=
  match first, last with
  | none, _ => .poisonedSerial
  | some _, none => .poisonedSerial
  | some a, some b =>
    if a ≠ b then .torn
    else if a = appser then .old
    else match fields.findIdx? (·.isNone) with
      | some k => .poisonedField a (k + 1)
      | none => .new (a :: fields.map (·.getD 0))

/-- The judgement of a list of readings in the order a snapshot makes them. -/
def judgeReadings (appser : Word) (l : List (Option Word)) : Judgement :=
  judgeSnapshot appser (l.headD none) ((l.drop 1).dropLast) (l.getLastD none)

/-! ## Requests from their words -/

/-- A line request from words 0 to 15 of the record (section 9.8). -/
def lineRequestOf (l : List Word) : LineRequest :=
  { serial := l.getD 0 0, service := l.getD 1 0, confirmCount := l.getD 2 0, lossCount := l.getD 3 0
    actions := l.getD 4 0, bank := l.getD 5 0, base := l.getD 6 0, capacity := l.getD 7 0
    slipUnit := l.getD 8 0, tLow := l.getD 9 0, tHigh := l.getD 10 0, slipEvents := l.getD 11 0
    windowLength := l.getD 12 0, windowMode := l.getD 13 0, reportWindows := l.getD 14 0
    horizonLimit := l.getD 15 0 }

/-- A timing request from words 0 to 8 of the record (section 9.8). -/
def timingRequestOf (l : List Word) : TimingRequest :=
  { serial := l.getD 0 0, preferred := l.getD 1 0, revertive := l.getD 2 0, force := l.getD 3 0
    revertDelay := l.getD 4 0, badFrameLimit := l.getD 5 0, goodFrameCount := l.getD 6 0
    freqLimit := l.getD 7 0, actions := l.getD 8 0 }

/-- A store request from words 0 to 4 of the record (section 9.8). -/
def storeRequestOf (l : List Word) : StoreRequest :=
  { serial := l.getD 0 0, spareAction := l.getD 1 0, swapBank := l.getD 2 0
    clearBankCounts := l.getD 3 0, autoLimit := l.getD 4 0 }

/-- A monitor request from words 0 to 12 of the record (section 9.8). -/
def monitorRequestOf (l : List Word) : MonitorRequest :=
  { serial := l.getD 0 0, enable := l.getD 1 0, event := l.getD 2 0, line := l.getD 3 0
    level := l.getD 4 0, threshold := l.getD 5 0, sense := l.getD 6 0, edge := l.getD 7 0
    ovfAction := l.getD 8 0, presetHigh := l.getD 9 0, presetLow := l.getD 10 0
    loadPreset := l.getD 11 0, clearOverflow := l.getD 12 0 }

/-- A directory request from words 0 to 4 of the record (section 9.8). -/
def directoryRequestOf (l : List Word) : DirectoryRequest :=
  { serial := l.getD 0 0, kindMask := l.getD 1 0, unfreeze := l.getD 2 0
    clearViolations := l.getD 3 0, clearUnposted := l.getD 4 0 }

/-- A new request taken, by the record that carries it (R159). -/
def State.takeRequest (s : State) (r : Record) (l : List Word) : State :=
  match r with
  | .directory => s.takeDirectoryRequest (directoryRequestOf l)
  | .timing => s.takeTimingRequest (timingRequestOf l)
  | .store => s.takeStoreRequest (storeRequestOf l)
  | .monitor m => s.takeMonitorRequest m (monitorRequestOf l)
  | .line n => s.takeLineRequest n (lineRequestOf l)

/-- A poisoned request (R160): RESULT POISONED with its DETAIL; ACTSER is kept. -/
def ReportHead.poison (x : ReportHead) (appser : Word) (detail : Nat) : ReportHead :=
  { x with appser := appser, result := .poisoned, reason := .none, detail := word detail }

/-- What the judgement of a snapshot does, before the report is written (R158 to R160). -/
def State.actOn (s : State) (r : Record) (j : Judgement) : State :=
  match j with
  | .torn => s
  | .old => s
  | .poisonedSerial => s.setHead r ((s.head r).poison (s.head r).appser 0)
  | .poisonedField a i => s.setHead r ((s.head r).poison a i)
  | .new l => s.takeRequest r l

/-! ## The scrub -/

/-- The scrub of one word (R152). -/
def State.scrubWord (s : State) (a : Nat) : State :=
  match (s.memWord a).condition with
  | .clean => s
  | .single _ =>
    (s.memWrite a (s.memWord a).corrected).modScrub fun x => { x with corrected := x.corrected + 1 }
  | .uncorrectable =>
    match ownerOf a with
    | .host => s.offerBadWord (2 * a)
    | .device => s
    | .unassigned => s.memWrite a 0

/-- The scrub pointer advanced by eight words; its wrap counts a pass (R152). -/
def State.advanceScrub (s : State) : State :=
  let p := (s.scrub.pointer + Config.scrubWords) % Config.memoryWords
  s.modScrub fun x => { x with pointer := p, passes := if p = 0 then x.passes + 1 else x.passes }

/-! ## The stages of a step

Each stage takes its words one grant each from grant k on, and gives the state with the number of the
first grant it has not taken. Before a grant come the host cycles and then the journal writer, in the
arbiter's priority (R148), and the step may wait there. -/

/-- The last `left` words of a step scrubbed (R152). -/
def State.scrubStage (s : State) (between : List (Nat × HostCycle)) (r : Record) :
    Nat → Nat → State × Nat
  | 0, k => (s.advanceScrub, k)
  | left + 1, k =>
    let s1 := s.serveBefore between k
    if s1.waitsAt between k then (s1.suspend r (.scrubbing (left + 1)), k + 1)
    else
      let a := (s1.scrub.pointer + (Config.scrubWords - (left + 1))) % Config.memoryWords
      (s1.drainPosts.scrubWord a).scrubStage between r left (k + 1)

/-- The report words of a step written, and then its scrub (R151, R161). -/
def State.writeStage (s : State) (between : List (Nat × HostCycle)) (r : Record) :
    List (Nat × Word) → Nat → State × Nat
  | [], k => (s.advanceUpdcnt r).scrubStage between r Config.scrubWords k
  | p :: rest, k =>
    let s1 := s.serveBefore between k
    if s1.waitsAt between k then (s1.suspend r (.writing (p :: rest)), k + 1)
    else (s1.drainPosts.memWrite p.1 p.2).writeStage between r rest (k + 1)

/-- A snapshot whose readings are all made (R158 to R161): what it brings, and then the report half under
UPDCNT, unless the snapshot was torn. The words are those of the owner's state when the request has
acted, whatever comes between the writes: the manual names no moment of the step (assumption 9). -/
def State.judgeStage (s : State) (between : List (Nat × HostCycle)) (r : Record)
    (read : List (Option Word)) (k : Nat) : State × Nat :=
  let j := judgeReadings (s.head r).appser read
  if j = .torn then s.scrubStage between r Config.scrubWords k
  else
    let s1 := s.actOn r j
    s1.writeStage between r (s1.visitWrites r) k

/-- The words of the request half read, and then what the snapshot brings (R158). -/
def State.readStage (s : State) (between : List (Nat × HostCycle)) (r : Record) :
    List (Option Word) → List Nat → Nat → State × Nat
  | read, [], k => s.judgeStage between r read k
  | read, i :: rest, k =>
    let s1 := s.serveBefore between k
    if s1.waitsAt between k then (s1.suspend r (.reading (i :: rest) read), k + 1)
    else
      let x := s1.drainPosts.readRequest r i
      x.1.readStage between r (read ++ [x.2]) rest (k + 1)

/-! ## The step -/

/-- The record a patrol step serves, and the patrol after it is chosen (R156): the head of the prompt
queue, or the record of the round-robin pointer, which then advances. -/
def Patrol.choose (p : Patrol) : Record × Patrol :=
  match p.prompts with
  | r :: rest => (r, { p with prompts := rest })
  | [] => (p.pointer, { p with pointer := p.pointer.next })

/-- The step in progress, if there is one, goes on from grant k to its end or to its next wait. -/
def State.resumeStep (s : State) (between : List (Nat × HostCycle)) (k : Nat) : State × Nat :=
  match s.patrol.step with
  | none => (s, k)
  | some x =>
    let s1 := s.modPatrol fun p => { p with step := none }
    match x.work with
    | .reading todo read => s1.readStage between x.record read todo k
    | .writing todo => s1.writeStage between x.record todo k
    | .scrubbing left => s1.scrubStage between x.record left k

/-- The step that is due begins, from grant k on, and the steps after it are timed from its beginning
(R156). -/
def State.beginStep (s : State) (between : List (Nat × HostCycle)) (k : Nat) : State × Nat :=
  let c := s.patrol.choose
  (s.modPatrol fun _ => { c.2 with due := false, timer := 0 }).readStage between c.1 [] (snapshotOffsets c.1) k

/-- The patrol's work in one command (R156): the step in progress goes on, and a step that is due begins
as soon as none is in progress. -/
def State.patrolWork (s : State) (between : List (Nat × HostCycle)) : State × Nat :=
  let x := s.resumeStep between 0
  if x.1.ready && x.1.patrol.due && x.1.patrol.step.isNone then x.1.beginStep between x.2 else x

/-- A step in progress completed at an engine restart (R155), with no more waiting. -/
def State.finishStep (s : State) : State := (s.resumeStep [] 0).1

/-- An engine restart begins (R155): a step in progress is completed, and the restart takes hold. -/
def State.beginRestart (s : State) : State := s.askRestart.finishStep.takeRestart

/-- A restart that a host cycle has asked for since `s` takes hold of the blocks (R155): the work in
progress at that cycle is completed first. -/
def State.settleRestart (s t : State) : State :=
  if s.ready && t.phase == .restarting then t.finishStep.takeRestart else t

/-- The host cycles numbered k or later, which follow the patrol's work or fall where there is none: each
is served alone, and a restart it asks for takes hold at once. -/
def State.serveAlone (s : State) (between : List (Nat × HostCycle)) (k : Nat) : State :=
  (between.filter fun c => k ≤ c.1).foldl (fun t c => t.settleRestart (t.hostCycle c.2)) s

/-- The patrol and the host cycles of one command (R148, R155, R156): the patrol works while READY is 1,
and the cycles that do not fall between its grants are served alone. -/
def State.patrolTurn (s : State) (between : List (Nat × HostCycle)) : State :=
  if s.ready then
    let x := s.patrolWork between
    (s.settleRestart x.1).serveAlone between x.2
  else s.serveAlone between 0

/-- A step falls due (R156); one that falls due while READY is 0 is not made up. -/
def State.dueStep (s : State) : State :=
  if s.ready then s.modPatrol fun p => { p with due := true } else s

/-- A patrol step (R156): it begins at once, or as soon as the step in progress ends. -/
def State.patrolStep (s : State) (between : List (Nat × HostCycle)) : State :=
  s.dueStep.patrolTurn between

/-- The patrol's interval advances (R156): the 2560th local cycle from the beginning of a step makes the
next one due. -/
def State.advancePatrol (s : State) : State :=
  let t := s.patrol.timer + 1
  if Config.patrolInterval ≤ t then (s.modPatrol fun p => { p with timer := 0 }).dueStep
  else s.modPatrol fun p => { p with timer := t }

/-- A local cycle for the patrol (R156): its interval advances, and the step in progress, or due, goes
on. -/
def State.cyclePatrol (s : State) (between : List (Nat × HostCycle)) : State :=
  s.advancePatrol.patrolTurn between

/-! ## Errors that strike memory -/

/-- What befalls a memory while a local cycle passes (assumption 2). -/
def State.struck (s : State) (x : Strike) : State :=
  match x with
  | .control a b => s.setMemWord a.toNat ((s.memWord a.toNat).struck b)
  | .slot k i w b =>
    s.setSlot k i.val
      { s.slot k i.val with errors := (s.slot k i.val).errors.struck w b }
  | .nextPost plan => s.modJournal fun j => { j with plans := j.plans ++ [plan] }
  | .host _ _ => s

/-- What a local cycle does after the errors that strike and the journal's grants (R89, R90, R96, R103,
R156): HOLDREQ is sampled, both bus monitors count the cycle, the NCO takes its step, and the patrol's
interval advances, in this order (assumption 7). -/
def State.cycleClocks (s : State) (holdreq : Bool) (between : List (Nat × HostCycle)) : State :=
  let s1 := s.setHoldreq holdreq
  let s2 := if holdreq then s1.latchHold else s1
  ((s2.cycleBus .a).cycleBus .b).cycleNco.cyclePatrol between

/-- A local oscillator cycle (R89, R90, R96, R103, R148, R156). -/
def State.localCycle (s : State) (holdreq : Bool) (strikes : List Strike) : State :=
  (strikes.foldl State.struck s).goOn.cycleClocks holdreq (hostCycles strikes)

end Sys2Proof.Machine
end

