-- ==== Sys2Proof/Machine/ResetCommands.lean ====
section
/-!
DEFINITION. The meanings of the reset and restart commands (R149, R154, R155).
-/
namespace Sys2Proof.Machine

/-- FULL_RESET (R154). -/
def execFullReset (s : State) : Host.Outcome State Fault Refusal := .next s.fullReset

/-- RESET_RELEASE (R96, R154), of a RESETn that is asserted. -/
def execResetRelease (holdreq : Bool) (s : State) : Host.Outcome State Fault Refusal :=
  .next (if s.phase = .inReset then s.release holdreq else s)

/-- INITIALISATION_END (R154): READY becomes 1. -/
def execInitialisationEnd (s : State) : Host.Outcome State Fault Refusal :=
  .next (if s.phase = .initialising then s.setPhase .ready else s)

/-- A write of CONTROL with bit 0 set (R144, R149, R155): with READY at 0 during a restart it ends
normally without effect. -/
def State.writeRestart (s : State) : State :=
  s.registerWrite (if s.ready then s.beginRestart else s)

/-- ENGINE_RESTART (R149, R155). -/
def execEngineRestart (s : State) : Host.Outcome State Fault Refusal := .next s.writeRestart

/-- ENGINE_RESTART_END (R155), of a restart in progress. -/
def execEngineRestartEnd (s : State) : Host.Outcome State Fault Refusal :=
  .next (if s.phase = .restarting then s.endRestart else s)

end Sys2Proof.Machine
end

