-- ==== Sys2Proof/Machine/HostCommands.lean ====
section
/-!
DEFINITION. The meanings of the host port's commands (R144 to R150, R157, R167).
-/
namespace Sys2Proof.Machine

/-- HOST_MEMORY_READ (R144, R147, R149): a read cycle, of control memory or, with the register select
line asserted, of the register the low three address bits choose. -/
def execHostMemoryRead (select : Bool) (addr : BitVec 13) (s : State) :
    Host.Outcome State Fault Refusal :=
  .next (if select then s.readRegister (Fin.ofNat 8 addr.toNat) else s.hostRead addr.toNat)

/-- HOST_MEMORY_WRITE (R144 to R147): a write cycle, decided by the owner of the word. -/
def execHostMemoryWrite (addr : BitVec 13) (data : Word) (s : State) :
    Host.Outcome State Fault Refusal :=
  .next (s.hostWrite addr.toNat data)

/-- TAKESER (R167): a write cycle to word 2 of a journal slot, or with `low` to word 3. -/
def execTakeser (slot : Fin 128) (low : Bool) (data : Word) (s : State) :
    Host.Outcome State Fault Refusal :=
  .next (s.hostWrite (journalBase slot + if low then 3 else 2) data)

/-- PROTECT (R146): a write cycle to a word the host does not own; to a word it owns it is performed
like any other (R147). -/
def execProtect (addr : BitVec 13) (data : Word) (s : State) :
    Host.Outcome State Fault Refusal :=
  .next (s.hostWrite addr.toNat data)

/-- ATTENTION_CLEAR (R150). -/
def execAttentionClear (data : Word) (s : State) : Host.Outcome State Fault Refusal :=
  .next (s.writeRegister 3 data)

/-- MASK_WRITE (R149). -/
def execMaskWrite (data : Word) (s : State) : Host.Outcome State Fault Refusal :=
  .next (s.writeRegister 4 data)

/-- PROMPT (R149, R157). -/
def execPrompt (data : Word) (s : State) : Host.Outcome State Fault Refusal :=
  .next (s.writeRegister 5 data)

/-- REGISTER_WRITE_OTHER (R149): a write of a register word, as the register table has it; IDENT and
the unused words end with XERRn, CONTROL with bit 0 clear has no effect. -/
def execRegisterWriteOther (reg : Fin 8) (data : Word) (s : State) :
    Host.Outcome State Fault Refusal :=
  .next (if reg = 2 ∧ data.getLsbD 0 = true then s.writeRestart else s.writeRegister reg data)

end Sys2Proof.Machine
end

