-- ==== Sys2Proof/Machine/LineCommands.lean ====
section
/-!
DEFINITION. The meanings of the commands of a line: its bits, its framer's checks, its writer, its
death and its window (chapters 1, 2 and 4). While RESETn is asserted no line event occurs (R19). A
check carries its octet, whose eight bits are taken before it is examined.
-/
namespace Sys2Proof.Machine

/-- DEAD (R10), of a HUNTING, FILLING or RUNNING line. -/
def execDead (n : LineNo) (s : State) : Host.Outcome State Fault Refusal :=
  .next (if s.outOfReset then
      match (s.line n).state with
      | .hunting | .filling | .running => s.enterDead n
      | .out | .dead => s
    else s)

/-- WINDOW_END (R75), of a COUNTING window. Sent alone it ends the window whatever its counter holds,
which is the model's choice (assumption 6). -/
def execWindowEnd (n : LineNo) (s : State) : Host.Outcome State Fault Refusal :=
  .next (if s.outOfReset && (s.line n).window.counting then s.endWindow n else s)

/-- The framer of line n searches or checks in a given state: it is not held and in that state. -/
def State.framerIn (s : State) (n : LineNo) (x : FramerState) : Bool :=
  s.outOfReset && !(s.line n).framer.held && (s.line n).framer.state == x

/-- HUNT_FIND (R3). -/
def execHuntFind (n : LineNo) (octet : Octet) (s : State) : Host.Outcome State Fault Refusal :=
  .next (if s.framerIn n .hunt then
      let s1 := s.recordOctet n octet
      s1.setFramer n (s1.line n).framer.huntExamine
    else s)

/-- CONFIRM_CHECK (R4, R5, R13). -/
def execConfirmCheck (n : LineNo) (octet : Octet) (s : State) : Host.Outcome State Fault Refusal :=
  .next (if s.framerIn n .confirm then (s.recordOctet n octet).confirmCheck n else s)

/-- LOCKED_CHECK (R6, R7, R13). -/
def execLockedCheck (n : LineNo) (octet : Octet) (s : State) : Host.Outcome State Fault Refusal :=
  .next (if s.framerIn n .locked then (s.recordOctet n octet).lockedCheck n else s)

/-- FRAME_DELIVERY (R29 to R33): the writer's work on a frame handed to it with its tag. -/
def execFrameDelivery (n : LineNo) (payload : Vector Octet 39) (tag : GroupPos) (s : State) :
    Host.Outcome State Fault Refusal :=
  .next (if s.outOfReset then s.writeFrame n payload.toList tag else s)

/-- LINE_BIT_TAKEN (R1 to R8). -/
def execLineBitTaken (n : LineNo) (bit : Bool) (s : State) : Host.Outcome State Fault Refusal :=
  .next (if s.outOfReset then s.takeBit n bit else s)

end Sys2Proof.Machine
end

