-- ==== Sys2Proof/Machine/PatrolCommands.lean ====
section
/-!
DEFINITION. The meanings of the patrol step and of the requests and actions it takes (chapter 10).
Requests are taken at patrol steps, and the patrol takes none while READY is 0 (R156). An action sent
as a command of its own is the action of an accepted request; where its record's rules would refuse
the request, it is turned away with no effect.
-/
namespace Sys2Proof.Machine

/-- What the patrol does while READY is 1, and nothing otherwise (R156). -/
def State.whenReady (s : State) (t : State) : Host.Outcome State Fault Refusal :=
  .next (if s.ready then t else s)

/-- PATROL_STEP (R156), with the host cycles that fall between its grants (R148); while READY is 0 those
cycles alone. -/
def execPatrolStep (between : List (Nat × HostCycle)) (s : State) :
    Host.Outcome State Fault Refusal :=
  .next (s.patrolStep between)

/-- LINE_REQUEST (R12, R26, R159). -/
def execLineRequest (n : LineNo) (req : LineRequest) (s : State) :
    Host.Outcome State Fault Refusal :=
  s.whenReady (s.takeLineRequest n req)

/-- SERVICE_IN (R12); turned away where the line's ring would share a slot (R27). -/
def execServiceIn (n : LineNo) (s : State) : Host.Outcome State Fault Refusal :=
  s.whenReady (if (s.overlapping n (s.line n).placement).isNone then s.enterService n else s)

/-- SERVICE_OUT (R12). -/
def execServiceOut (n : LineNo) (s : State) : Host.Outcome State Fault Refusal :=
  s.whenReady (s.leaveService n)

/-- RECENTRE (R58). -/
def execRecentre (n : LineNo) (s : State) : Host.Outcome State Fault Refusal :=
  s.whenReady (s.pendRecentre n)

/-- RESTART_LINE (R15). -/
def execRestartLine (n : LineNo) (s : State) : Host.Outcome State Fault Refusal :=
  s.whenReady (s.restartLine n)

/-- ARM_WINDOW (R72); turned away on an OUT line (R72, R159). -/
def execArmWindow (n : LineNo) (s : State) : Host.Outcome State Fault Refusal :=
  s.whenReady (if (s.line n).state.inService then s.armWindow n else s)

/-- CLEAR_COUNTS (R62). -/
def execClearCounts (n : LineNo) (s : State) : Host.Outcome State Fault Refusal :=
  s.whenReady (s.clearCounts n)

/-- TIMING_REQUEST (R104, R159). -/
def execTimingRequest (req : TimingRequest) (s : State) : Host.Outcome State Fault Refusal :=
  s.whenReady (s.takeTimingRequest req)

/-- CLEAR_HISTORY (R102). -/
def execClearHistory (s : State) : Host.Outcome State Fault Refusal := s.whenReady s.clearHistory

/-- CLEAR_HOLD_LATCH (R96); turned away while HOLDREQ is asserted, and a latch already clear is left
as it is. -/
def execClearHoldLatch (s : State) : Host.Outcome State Fault Refusal :=
  s.whenReady (if s.timing.holdLatch && !s.holdreq then s.clearLatch else s)

/-- REALIGN (R100); turned away while no bus is followed. -/
def execRealign (s : State) : Host.Outcome State Fault Refusal :=
  s.whenReady (if s.timing.selector.onBus.isSome then s.pendRealign else s)

/-- STORE_REQUEST (R123, R159). -/
def execStoreRequest (req : StoreRequest) (s : State) : Host.Outcome State Fault Refusal :=
  s.whenReady (s.takeStoreRequest req)

/-- CLEAR_BANK_COUNTS (R22). -/
def execClearBankCounts (s : State) : Host.Outcome State Fault Refusal :=
  s.whenReady s.clearBankCounts

/-- SWAP (R124). -/
def execSwap (bank : Fin 8) (s : State) : Host.Outcome State Fault Refusal :=
  s.whenReady (s.takeSwap bank)

/-- RETURN (R125). -/
def execReturnBank (s : State) : Host.Outcome State Fault Refusal := s.whenReady s.takeReturn

/-- CANCEL (R126). -/
def execCancel (s : State) : Host.Outcome State Fault Refusal := s.whenReady s.takeCancel

/-- MONITOR_REQUEST (R134, R159). -/
def execMonitorRequest (m : MonitorNo) (req : MonitorRequest) (s : State) :
    Host.Outcome State Fault Refusal :=
  s.whenReady (s.takeMonitorRequest m req)

/-- LOAD_PRESET (R140). -/
def execLoadPreset (m : MonitorNo) (s : State) : Host.Outcome State Fault Refusal :=
  s.whenReady (s.loadPreset m)

/-- CLEAR_OVERFLOW (R140). -/
def execClearOverflow (m : MonitorNo) (s : State) : Host.Outcome State Fault Refusal :=
  s.whenReady (s.clearOverflow m)

/-- DIRECTORY_REQUEST (R159, R162). -/
def execDirectoryRequest (req : DirectoryRequest) (s : State) :
    Host.Outcome State Fault Refusal :=
  s.whenReady (s.takeDirectoryRequest req)

/-- CLEAR_VIOLATIONS (R146). -/
def execClearViolations (s : State) : Host.Outcome State Fault Refusal :=
  s.whenReady s.clearViolations

/-- CLEAR_UNPOSTED (R162). -/
def execClearUnposted (s : State) : Host.Outcome State Fault Refusal := s.whenReady s.clearUnposted

/-- UNFREEZE (R139); turned away while a monitor holds the freeze. -/
def execUnfreeze (s : State) : Host.Outcome State Fault Refusal :=
  s.whenReady (if s.freezeHeld then s else s.unfreeze)

end Sys2Proof.Machine
end

