-- ==== Sys2Proof/Machine/TimingCommands.lean ====
section
/-!
DEFINITION. The meanings of the office timing unit's commands (chapters 5 and 6). While RESETn is
asserted the unit takes no edge and makes no office bit (R107).
-/
namespace Sys2Proof.Machine

/-- HOLD_LATCH (R96): HOLDREQ found asserted. -/
def execHoldLatch (s : State) : Host.Outcome State Fault Refusal :=
  .next (if s.outOfReset then (s.setHoldreq true).latchHold else s)

/-- BUS_FRAME_JUDGED (R87, R88, R91): no frame is judged while the flywheel is unaligned. -/
def execBusFrameJudged (bus : Bus) (good : Bool) (s : State) : Host.Outcome State Fault Refusal :=
  .next (if s.outOfReset && (s.timing.bus bus).flywheel.isSome then s.judgeFrame bus good else s)

/-- MISSING_CLOCK (R89, R107): the silence count reaches 32; held at 32 until an edge, it reaches it no
more. -/
def execMissingClock (bus : Bus) (s : State) : Host.Outcome State Fault Refusal :=
  .next (if s.outOfReset && (s.timing.bus bus).silence < Config.silenceLimit then s.loseClock bus
    else s)

/-- TIMING_WINDOW_END (R90), of a window over which `localCycles` local cycles were counted. Sent with no
window in progress it is taken as the end of one all the same (assumption 6). -/
def execTimingWindowEnd (bus : Bus) (localCycles : Long) (s : State) :
    Host.Outcome State Fault Refusal :=
  .next (if s.outOfReset then s.endTimingWindow bus localCycles.toNat else s)

/-- OFFICE_TICK (R98, R100): φ wraps; in the lengthened part of a REALIGN frame it does not. -/
def execOfficeTick (s : State) : Host.Outcome State Fault Refusal :=
  .next (if s.outOfReset && s.timing.phase < 320 then s.wrapPhase else s)

/-- REALIGN_COMPLETE (R100): the flywheel wrap of the followed bus in a lengthened frame. Sent alone it
closes the frame and leaves the flywheel where it stands (assumption 6). -/
def execRealignComplete (s : State) : Host.Outcome State Fault Refusal :=
  .next (if s.outOfReset && 320 ≤ s.timing.phase && s.timing.selector.onBus.isSome then
      s.closeRealign
    else s)

/-- BUS_CLOCK_EDGE (R87, R88, R90, R98, R108). -/
def execBusClockEdge (bus : Bus) (pulse : Bool) (s : State) : Host.Outcome State Fault Refusal :=
  .next (if s.outOfReset then s.busEdge bus pulse else s)

/-- LOCAL_OSCILLATOR_CYCLE (R89, R90, R96, R103, R108, R148, R156), with the errors that strike and the
host cycles that fall between the grants of the patrol's work in it. While RESETn is asserted only the
pin, the memories' errors and the host cycles are followed. -/
def execLocalOscillatorCycle (holdreq : Bool) (strikes : List Strike) (s : State) :
    Host.Outcome State Fault Refusal :=
  .next (if s.outOfReset then s.localCycle holdreq strikes
    else ((strikes.foldl State.struck s).setHoldreq holdreq).serveAlone (hostCycles strikes) 0)

end Sys2Proof.Machine
end

