-- ==== Sys2Proof/Machine/Dispatch.lean ====
section
/-!
DEFINITION. The dispatch of every command to its meaning.
-/
namespace Sys2Proof.Machine

def exec (i : Instr) (s : State) : Host.Outcome State Fault Refusal :=
  match i with
  | .fullReset => Sys2Proof.Machine.execFullReset s
  | .resetRelease holdreq => Sys2Proof.Machine.execResetRelease holdreq s
  | .initialisationEnd => Sys2Proof.Machine.execInitialisationEnd s
  | .hostMemoryRead select addr => Sys2Proof.Machine.execHostMemoryRead select addr s
  | .hostMemoryWrite addr data => Sys2Proof.Machine.execHostMemoryWrite addr data s
  | .takeser slot low data => Sys2Proof.Machine.execTakeser slot low data s
  | .protect addr data => Sys2Proof.Machine.execProtect addr data s
  | .engineRestart => Sys2Proof.Machine.execEngineRestart s
  | .engineRestartEnd => Sys2Proof.Machine.execEngineRestartEnd s
  | .attentionClear data => Sys2Proof.Machine.execAttentionClear data s
  | .maskWrite data => Sys2Proof.Machine.execMaskWrite data s
  | .prompt data => Sys2Proof.Machine.execPrompt data s
  | .registerWriteOther reg data => Sys2Proof.Machine.execRegisterWriteOther reg data s
  | .holdLatch => Sys2Proof.Machine.execHoldLatch s
  | .busFrameJudged bus good => Sys2Proof.Machine.execBusFrameJudged bus good s
  | .missingClock bus => Sys2Proof.Machine.execMissingClock bus s
  | .timingWindowEnd bus localCycles => Sys2Proof.Machine.execTimingWindowEnd bus localCycles s
  | .officeTick => Sys2Proof.Machine.execOfficeTick s
  | .realignComplete => Sys2Proof.Machine.execRealignComplete s
  | .dead n => Sys2Proof.Machine.execDead n s
  | .windowEnd n => Sys2Proof.Machine.execWindowEnd n s
  | .huntFind n octet => Sys2Proof.Machine.execHuntFind n octet s
  | .confirmCheck n octet => Sys2Proof.Machine.execConfirmCheck n octet s
  | .lockedCheck n octet => Sys2Proof.Machine.execLockedCheck n octet s
  | .frameDelivery n payload tag => Sys2Proof.Machine.execFrameDelivery n payload tag s
  | .patrolStep between => Sys2Proof.Machine.execPatrolStep between s
  | .lineRequest n req => Sys2Proof.Machine.execLineRequest n req s
  | .serviceIn n => Sys2Proof.Machine.execServiceIn n s
  | .serviceOut n => Sys2Proof.Machine.execServiceOut n s
  | .recentre n => Sys2Proof.Machine.execRecentre n s
  | .restartLine n => Sys2Proof.Machine.execRestartLine n s
  | .armWindow n => Sys2Proof.Machine.execArmWindow n s
  | .clearCounts n => Sys2Proof.Machine.execClearCounts n s
  | .timingRequest req => Sys2Proof.Machine.execTimingRequest req s
  | .clearHistory => Sys2Proof.Machine.execClearHistory s
  | .clearHoldLatch => Sys2Proof.Machine.execClearHoldLatch s
  | .realign => Sys2Proof.Machine.execRealign s
  | .storeRequest req => Sys2Proof.Machine.execStoreRequest req s
  | .clearBankCounts => Sys2Proof.Machine.execClearBankCounts s
  | .swap bank => Sys2Proof.Machine.execSwap bank s
  | .returnBank => Sys2Proof.Machine.execReturnBank s
  | .cancel => Sys2Proof.Machine.execCancel s
  | .monitorRequest m req => Sys2Proof.Machine.execMonitorRequest m req s
  | .loadPreset m => Sys2Proof.Machine.execLoadPreset m s
  | .clearOverflow m => Sys2Proof.Machine.execClearOverflow m s
  | .directoryRequest req => Sys2Proof.Machine.execDirectoryRequest req s
  | .clearViolations => Sys2Proof.Machine.execClearViolations s
  | .clearUnposted => Sys2Proof.Machine.execClearUnposted s
  | .unfreeze => Sys2Proof.Machine.execUnfreeze s
  | .lineBitTaken n bit => Sys2Proof.Machine.execLineBitTaken n bit s
  | .busClockEdge bus pulse => Sys2Proof.Machine.execBusClockEdge bus pulse s
  | .localOscillatorCycle holdreq strikes => Sys2Proof.Machine.execLocalOscillatorCycle holdreq strikes s

end Sys2Proof.Machine
end

