-- ==== Sys2Proof/Safety.lean ====
section
/-!
DEFINITION. What a sound state of the part is, in the terms the claims use: one predicate for each
promise the manual makes of every moment, and the machine-wide choices the model makes.
-/
namespace Sys2Proof.Machine

/-! ## Lines -/

/-- A placement that passes the checks of R26: its ring lies inside the bank and its capacity suits
its slip unit (R24). -/
abbrev Placement.legal (p : Placement) : Prop :=
  p.base + p.capacity ≤ 256 ∧ p.capacity ≤ 32 ∧ (if p.unit = .group then 12 else 4) ≤ p.capacity

/-- Thresholds that fit a placement (R42): 320 ≤ T_low, T_low + 320u ≤ T_high and
T_high ≤ 320(C − u) − 160. -/
abbrev thresholdsFit (p : Placement) (tLow tHigh : Nat) : Prop :=
  320 ≤ tLow ∧ tLow + 320 * p.u ≤ tHigh ∧ tHigh + 160 ≤ 320 * (p.capacity - p.u)

/-- A line's ring is within its bounds (R25): a legal placement, H at most C − u, and H = 0 in OUT,
HUNTING and DEAD; the thresholds of its next reader event fit the placement (R42, R43). -/
abbrev Line.ringLegal (l : Line) : Prop :=
  l.placement.legal ∧ l.ring.held ≤ l.placement.heldMax
    ∧ (l.state = .out ∨ l.state = .hunting ∨ l.state = .dead → l.ring.held = 0)
    ∧ thresholdsFit l.placement l.reader.adopt.tLow l.reader.adopt.tHigh

/-- A line's framer stands as its state requires (R2, section 1.5): held exactly in OUT and DEAD, and
LOCKED exactly in FILLING and RUNNING. -/
abbrev Line.framerAgrees (l : Line) : Prop :=
  (l.framer.held = true ↔ l.state = .out ∨ l.state = .dead)
    ∧ (l.framer.state = .locked ↔ l.state = .filling ∨ l.state = .running)

/-- Every ring is within its bounds (R25, R42). -/
abbrev State.ringsLegal (s : State) : Prop := ∀ n : LineNo, (s.line n).ringLegal

/-- Every framer stands as its line's state requires (R2). -/
abbrev State.framersAgree (s : State) : Prop := ∀ n : LineNo, (s.line n).framerAgrees

/-- No two lines in service share a slot (R27). -/
abbrev State.ringsDisjoint (s : State) : Prop :=
  ∀ n m : LineNo, n ≠ m → (s.line n).state.inService = true → (s.line m).state.inService = true →
    (s.line n).placement.shares (s.line m).placement = false

/-! ## Office timing -/

/-- The office timing follows a bus only while that bus is GOOD and the hold latch is clear (R93). -/
abbrev Timing.followsGoodBus (t : Timing) : Prop :=
  ∀ x : Bus, t.selector = .on x → (t.bus x).state = .good ∧ t.holdLatch = false

/-- The holdover history holds at most four values (R102), and hv and S are those it gives (R103). -/
abbrev Timing.holdoverComputed (t : Timing) : Prop :=
  t.history.length ≤ 4 ∧ t.hv = meanOffset t.history ∧ t.ncoStep = holdoverStep t.hv

/-! ## Spare control -/

/-- In STANDBY and SPARED every mark is NOT_CONCERNED and every count 0 (R120), and an operation goes
on only while some line is PENDING (R122). -/
abbrev Spare.settled (x : Spare) : Prop :=
  (x.state.operating = none → x.coverage = clearedCoverage)
    ∧ (x.state.operating ≠ none → x.outstanding ≠ 0)

/-! ## The control plane -/

/-- The prompt queue holds at most eight record numbers, none twice (R157), and the bad-word list at
most sixteen offsets, none twice (R153). A patrol step waits only while READY is 1, and one is due only
behind one in progress (R156). -/
abbrev State.queuesLegal (s : State) : Prop :=
  s.patrol.prompts.length ≤ 8 ∧ s.patrol.prompts.Nodup
    ∧ s.badWords.offsets.length ≤ 16 ∧ s.badWords.offsets.Nodup
    ∧ (s.patrol.step ≠ none → s.phase = .ready) ∧ (s.patrol.due = true → s.patrol.step ≠ none)

/-- Control memory and the slip store are in canonical form. -/
abbrev State.memoriesWf (s : State) : Prop := Memory.wf s.memory ∧ SlotStore.wf s.slots

/-! ## What is left alone -/

/-- From s to t the control plane is left alone: the phase, the pins, the host port, the registers,
the scrub, the bad-word list, the patrol, the report heads and the queue of commands. -/
structure State.ControlKept (s t : State) : Prop where
  phase : t.phase = s.phase
  holdreq : t.holdreq = s.holdreq
  port : t.port = s.port
  mask : t.mask = s.mask
  violations : t.violations = s.violations
  scrub : t.scrub = s.scrub
  badWords : t.badWords = s.badWords
  patrol : t.patrol = s.patrol
  reportHeads : t.reportHeads = s.reportHeads
  pending : t.pending = s.pending

/-- From s to t the control plane and the office timing are left alone. -/
structure State.Quiet (s t : State) : Prop extends State.ControlKept s t where
  timing : t.timing = s.timing

/-- From s to t at most reports have been posted (chapter 11): nothing but control memory, the journal
writer and ATTENTION differs; of control memory only device-owned words of the journal area, of
ATTENTION only LOST and CRITICAL, and these can only be set. -/
structure State.ReportsOnly (s t : State) : Prop where
  rest : t = { s with memory := t.memory, journal := t.journal, attention := t.attention }
  memory : ∀ a, a < journalStart ∨ ownerOf a = .host → t.memWord a = s.memWord a
  kindMask : t.journal.kindMask = s.journal.kindMask
  attention : t.attention =
    { s.attention with lost := t.attention.lost, critical := t.attention.critical }
  lost : s.attention.lost = true → t.attention.lost = true
  critical : s.attention.critical = true → t.attention.critical = true

end Sys2Proof.Machine
end

