-- ==== Sys2Proof/Certificates/Slice0/Obligations.lean ====
section
/-!
DEFINITION. The statements for the provers, family by family. Each says what commands do by the rules
it cites, with the frame: the next state is given whole, or as the state before with the named fields
replaced. A post is written `State.post`; what a post does is stated under the journal.
-/
open Sys2Proof Sys2Proof.Machine

/-! ## The queue, resets and restarts -/

/-- A step takes the command at the front of the queue and runs it on the rest; with no command waiting
the part idles, which is the model's choice (assumption 1). -/
def Obligations.StepRunsTheFrontCommand : Prop :=
  (∀ (s : State) (c : Instr) (rest : List Instr), s.pending = c :: rest →
    step s = exec c { s with pending := rest }) ∧
  ∀ s : State, s.pending = [] → step s = .next s

/-- Every command is taken in every state: none stops the part, and each answers a next state. The
manual gives every command an effect wherever it occurs; that a command sent where it cannot occur is
taken with no effect is the model's choice (assumption 4). The statements below say what the state
is. -/
def Obligations.EveryCommandIsTaken : Prop :=
  ∀ (c : Instr) (s : State), ∃ t, exec c s = .next t

/-- The state after reset meets every invariant stated below, and no command waits. -/
def Obligations.ResetMeetsEveryInvariant : Prop :=
  State.reset.memoriesWf ∧ State.reset.timing.followsGoodBus ∧ State.reset.timing.holdoverComputed ∧
  State.reset.ringsLegal ∧ State.reset.ringsDisjoint ∧ State.reset.framersAgree ∧
  State.reset.spare.settled ∧ State.reset.queuesLegal ∧ State.reset.pending = []

/-- FULL_RESET leaves the full-reset values of R19, R37, R65, R85, R107, R131, R143, R150, R152, R153,
R163 and R164, whatever the state before. The level of HOLDREQ and the waiting commands are not the
part's to reset (assumption 3). Where the manual gives no value the model chooses one (assumption 26): a
framer's expected position and a FREE slot's serial are 0, and the monitor unit holds each line as OUT
with no fill. -/
def Obligations.FullResetLeavesTheResetValues : Prop :=
  ∀ s : State, ∃ t, exec .fullReset s = .next t ∧
    t.phase = .inReset ∧ t.ready = false ∧ t.holdreq = s.holdreq ∧ t.pending = s.pending ∧
    (∀ n : LineNo, t.line n =
      { state := .out, lastCause := .none, confirmCount := 3, lossCount := 4, idleCode := 0x5A
        deadCount := 0, bitCount := 0
        framer := { state := .hunt, held := true, expected := 0, matchCount := 0, errorCount := 0
                    framePosition := 0, history := [], payload := [] }
        placement := { bank := 0, base := 0, capacity := 4, unit := .frame }
        ring := { readIndex := 1, held := 0 }
        reader := { tLow := 320, tHigh := 800, staged := none, slipEvents := true
                    recentrePending := false, lastDecision := .idle, lastFill := 0
                    lastSubstituted := false }
        counters := { repeats := 0, deletes := 0, alignErrors := 0, overruns := 0, underruns := 0
                      misalign := 0, substituted := 0, storeCorrected := 0, storeUncorrected := 0 }
        window := { counting := false, startPending := false, counter := 0, length := 8000
                    mode := .continuous, staged := none, reportWindows := false, horizonLimit := 0
                    index := 0
                    record := { index := 0, length := 0, bits := 0, offset := 0, minFill := 0
                                maxFill := 0, repeats := 0, deletes := 0, flags := {}
                                horizon := 0xFFFFFFFF } } }) ∧
    (let bus : BusMonitor :=
      { state := .unqualified, flywheel := none, stray := false, goodCount := 0, badCount := 0
        windowPassed := false, window := none, activeThroughout := false, lastX := 0, silence := 32 }
    t.timing =
      { busA := bus, busB := bus
        settings := { preferred := .a, revertive := true, force := .none, revertDelay := 10
                      badFrameLimit := 2, goodFrameCount := 800, freqLimit := 500 }
        selector := .free, revertCount := 0, switchCount := 0, holdLatch := false, phase := 0
        buildOut := 0, realignPending := false, frameCounter := 0, busTimed := false, history := []
        hv := 0, ncoStep := 536870912, ncoAccumulator := 0 }) ∧
    t.spare.state = .standby ∧ t.spare.autoLimit = 0 ∧ t.spare.outstanding = 0 ∧
    t.spare.lastCause = .none ∧ (∀ n, t.cover n = { mark := .notConcerned, count := 0 }) ∧
    (∀ b, t.bank b = { corrected := 0, uncorrected := 0 }) ∧
    (∀ m, t.monitor m =
      { settings := { enabled := false, event := .officeFrames, line := none, level := 0
                      threshold := 0, less := false, edge := false, overflowAction := .none
                      preset := 0 }
        armed := false, count := 0, overflow := false, edgeHistory := false }) ∧
    t.monitorUnit.freeze = false ∧
    (∀ n, t.gathered n =
      { repeats := 0, deletes := 0, alignErrors := 0, overruns := 0, underruns := 0, substituted := 0
        storeCorrected := 0, storeUncorrected := 0, state := .out, fill := none }) ∧
    t.attention = { lost := false, protect := false, promptLost := false, critical := false } ∧
    t.mask = 0 ∧ t.violations = { count := 0, address := 0 } ∧
    t.scrub = { pointer := 0, passes := 0, corrected := 0 } ∧
    t.badWords = { offsets := [], overflow := 0 } ∧
    t.patrol.pointer = .directory ∧ t.patrol.prompts = [] ∧ t.patrol.due = false ∧ t.patrol.step = none ∧
    (∀ r, t.head r =
      { updcnt := 0, appser := 0, actser := 0, result := .none, reason := .none, detail := 0 }) ∧
    (∀ i, t.journalSlot i = { state := .free, serial := 0, posting := false }) ∧
    t.journal.nextSerial = 1 ∧ t.journal.kindMask = 0x7FFF ∧ t.journal.halted = false ∧
    t.journal.dropCount = 0 ∧ t.journal.current = none ∧ t.journal.waiting = [] ∧
    (∀ k : Fin 15, t.journal.unposted[k] = 0) ∧ t.highway = { inHand := none, sent := none }

/-- RESET_RELEASE on the part at its full-reset office timing (R96, R154): every control memory word is
a clean 0 but the four identity words, every slot of the store is a part-written one, and a HOLDREQ
asserted at release sets the latch and takes the selector from FREE to HOLDOVER with one switch counted;
nothing is reported, since READY has not been 1. INITIALISATION_END then sets READY and changes nothing
else; MASK being 0, INTn is not asserted (R150). -/
def Obligations.InitialisationRunsFromReleaseToReady : Prop :=
  (∀ (holdreq : Bool) (s : State), s.phase = .inReset → s.timing = {} →
    ∃ t, exec (.resetRelease holdreq) s = .next t ∧
      t = { s with
        phase := .initialising, holdreq := holdreq, memory := t.memory, slots := t.slots
        timing := if holdreq then { holdLatch := true, selector := .holdover, switchCount := 1 }
          else {} } ∧
      (∀ a, t.memWord a = { raw := if a = 120 then 0x2480 else if a = 121 then 0x0001
        else if a = 122 then 64 else if a = 123 then 128 else 0 }) ∧
      ∀ b i, t.slot b i =
        { payload := List.replicate 39 0xFF, position := 0, filler := true, errors := {} }) ∧
  ∀ s : State, s.phase = .initialising →
    exec .initialisationEnd s = .next { s with phase := .ready } ∧
    ({ s with phase := .ready } : State).ready = true ∧
    (s.mask = 0 → ({ s with phase := .ready } : State).interrupt = false)

/-- ENGINE_RESTART with READY at 1, no post and no patrol step in progress (R19, R37, R65, R85, R143,
R155, R163, R169): what the restart sets at once, and everything else kept. That the gathered values are
kept, that a pending REALIGN is dropped at the start of the restart, that reports still waiting for the
writer are dropped and counted, and that the journal area and the serials are rewritten at once are the
model's choices (assumption 12), and a framer's expected position is 0 by assumption 26. -/
def Obligations.EngineRestartBegins : Prop :=
  ∀ s : State, s.ready = true → s.journal.current = none → s.patrol.step = none →
    ∃ t, exec .engineRestart s = .next t ∧
    t = { s with
      phase := .restarting, port := .writeDone false
      patrol := { s.patrol with prompts := [], due := false }
      memory := t.memory, lines := t.lines, monitorUnit := t.monitorUnit
      reportHeads := t.reportHeads
      journal := { s.journal with
        kindMask := 0x7FFF, heldBeforeRestart := s.journal.heldCount, waiting := []
        dropCount := min 65535 (s.journal.dropCount + s.journal.waiting.length) }
      timing := { s.timing with
        realignPending := s.timing.realignPending && 320 ≤ s.timing.phase } } ∧
    (∀ n, t.line n =
      { lastCause := (s.line n).lastCause, bitCount := (s.line n).bitCount
        ring := { readIndex := (s.line n).ring.readIndex, held := 0 }
        counters := (s.line n).counters
        window := { index := (s.line n).window.index, record := (s.line n).window.record } }) ∧
    (∀ m, t.monitor m = { count := (s.monitor m).count, overflow := (s.monitor m).overflow }) ∧
    t.monitorUnit.freeze = false ∧ t.monitorUnit.gathered = s.monitorUnit.gathered ∧
    (∀ r, t.head r =
      { s.head r with updcnt := (s.head r).updcnt + 2, appser := 0, actser := 0 }) ∧
    (∀ a, journalStart ≤ a → t.memWord a = {}) ∧
    (∀ r : Record, t.memWord (r.base + 16) = { raw := (s.head r).updcnt + 2 } ∧
      t.memWord (r.base + 17) = {} ∧ t.memWord (r.base + 18) = {}) ∧
    ∀ a, a < journalStart → (∀ (r : Record) k, 16 ≤ k → k ≤ 18 → a ≠ r.base + k) →
      t.memWord a = s.memWord a

/-- ENGINE_RESTART_END, with no plan for the slot that RESTART is written to and no lengthened frame
open (R107, R131, R155, R163, R169): READY is 1, the journal is empty but for RESTART with serial 1 in
slot 0, and spare control and the timing unit stand at their end values. That a change of selector state
made by the defaults is dropped and counted before RESTART is posted is the model's choice (assumption
12). -/
def Obligations.EngineRestartEndPostsRestart : Prop :=
  ∀ s : State, s.phase = .restarting → s.timing.phase < 320 → s.journal.plans = [] →
    ∃ t, exec .engineRestartEnd s = .next t ∧
      let c : Timing := { s.timing with
        settings := {}
        revertCount := if s.timing.settings.preferred = .a then s.timing.revertCount else 0 }
      let moved := c.nextSelector ≠ c.selector
      let dropped := if moved then min 65535 (s.journal.dropCount + 1) else s.journal.dropCount
      t = { s with
        phase := .ready, memory := t.memory
        attention := { s.attention with critical := false }
        patrol := { s.patrol with pointer := .directory }
        timing := if moved then c.switch c.nextSelector else c
        spare := match s.spare.state with
          | .standby => { state := .standby, lastCause := s.spare.lastCause }
          | .mirror _ => { state := .standby, lastCause := .restart }
          | .spared k => { state := .spared k, lastCause := s.spare.lastCause }
          | .restore k => { state := .spared k, lastCause := .restart }
        journal :=
          { slots := (Vector.replicate 128 {}).set 0 { state := .held, serial := 1 }
            nextSerial := 2 } } ∧
      (∀ i : Fin 128, t.memWord (journalBase i + 2) = {} ∧ t.memWord (journalBase i + 3) = {}) ∧
      ([0, 1, 0x0F00, highHalf t.timing.stamp, lowHalf t.timing.stamp, word dropped,
          word s.journal.heldBeforeRestart, word (bit s.journal.halted),
          highHalf s.journal.nextSerial, lowHalf s.journal.nextSerial, 0, 0, 0, 0].map
            fun x => ({ raw := x } : MemWord)) =
        readBackWords.map (fun k => t.memWord (journalBase 0 + k)) ∧
      ∀ a, a < journalStart ∨ journalStart + 16 ≤ a ∧ takeserSlot a = none →
        t.memWord a = s.memWord a

/-! ## The host port -/

/-- HOST_MEMORY_READ of control memory (R144, R147): by the owner of the word and by which of its 22
bits are in error, with nothing changed but the port's answer; that three bits and more in error are
found uncorrectable, like two, is the model's choice (assumption 11). While RESETn is asserted and
during full-reset initialisation a memory read returns 0 with XERRn, and a write of any kind ends with
XERRn and is not performed (R144). HOST_MEMORY_READ with the register select line asserted (R149):
IDENT, CONTROL, ATTENTION, MASK, PROMPT and the unused words, with ATTENTION and MASK read as 0 while
the port is closed (R144). Each bit of the ATTENTION word (R150, R169), and INTn asserted exactly while
a bit is set both in ATTENTION and in MASK. -/
def Obligations.HostReadsAnswer : Prop :=
  (∀ (addr : BitVec 13) (s : State), s.phase = .ready ∨ s.phase = .restarting →
    exec (.hostMemoryRead false addr) s = .next { s with
      port := if ownerOf addr.toNat = .unassigned then .readDone 0 false
      else match (s.memWord addr.toNat).errors with
        | [] => .readDone (s.memWord addr.toNat).raw false
        | [b] => .readDone (if b < 16 then (s.memWord addr.toNat).raw ^^^ (1 <<< b)
            else (s.memWord addr.toNat).raw) false
        | _ :: _ :: _ => .readDone (s.memWord addr.toNat).raw true }) ∧
  (∀ s : State, s.phase = .inReset ∨ s.phase = .initialising →
    (∀ addr, exec (.hostMemoryRead false addr) s = .next { s with port := .readDone 0 true }) ∧
    ∀ c : Instr, (∃ addr data, c = .hostMemoryWrite addr data) ∨ (∃ i low data, c = .takeser i low data) ∨
      (∃ addr data, c = .protect addr data) ∨ c = .engineRestart ∨ (∃ data, c = .attentionClear data) ∨
      (∃ data, c = .maskWrite data) ∨ (∃ data, c = .prompt data) ∨
      (∃ reg data, c = .registerWriteOther reg data) →
      exec c s = .next { s with port := .writeDone true }) ∧
  (∀ (addr : BitVec 13) (s : State),
    exec (.hostMemoryRead true addr) s = .next { s with
      port := .readDone (match addr.toNat % 8 with
        | 0 => 0x2480
        | 1 => 0x0001
        | 3 => if s.phase = .ready ∨ s.phase = .restarting then s.attentionWord else 0
        | 4 => if s.phase = .ready ∨ s.phase = .restarting then s.mask.setWidth 16 else 0
        | _ => 0) false }) ∧
  ∀ s : State,
    (s.attentionWord.getLsbD 0 = true ↔ s.phase = .ready) ∧
    (s.attentionWord.getLsbD 1 = true ↔ ∃ i, (s.journalSlot i).state = .held) ∧
    s.attentionWord.getLsbD 2 = s.attention.lost ∧
    s.attentionWord.getLsbD 3 = s.attention.protect ∧
    s.attentionWord.getLsbD 4 = s.attention.promptLost ∧
    s.attentionWord.getLsbD 5 = s.attention.critical ∧
    (∀ k, 6 ≤ k → s.attentionWord.getLsbD k = false) ∧
    (s.interrupt = true ↔ ∃ k, s.attentionWord.getLsbD k = true ∧ s.mask.getLsbD k = true)

/-- HOST_MEMORY_WRITE of a host-owned word other than a TAKESER word (R144, R147, R153): the word holds
the data, clean, the bad-word list loses its offset and keeps the order of the rest, and nothing else
changes. PROTECT (R146): a host write of a word the host does not own is not performed; the violation
count, the last violating address and ATTENTION.PROTECT are set and PROTECT is reported. -/
def Obligations.HostWritesStoreOrAreRefused : Prop :=
  (∀ (addr : BitVec 13) (data : Word) (s : State), s.phase = .ready ∨ s.phase = .restarting →
    ownerOf addr.toNat = .host → takeserSlot addr.toNat = none →
    ∃ t, exec (.hostMemoryWrite addr data) s = .next t ∧
      t = { s with
        memory := t.memory, port := .writeDone false
        badWords := { s.badWords with
          offsets := s.badWords.offsets.filter fun x => x ≠ 2 * addr.toNat } } ∧
      t.memWord addr.toNat = { raw := data, errors := [] } ∧
      ∀ a, a ≠ addr.toNat → t.memWord a = s.memWord a) ∧
  ∀ (addr : BitVec 13) (data : Word) (s : State), s.phase = .ready ∨ s.phase = .restarting →
    ownerOf addr.toNat ≠ .host → ∀ c : Instr, c = .protect addr data ∨ c = .hostMemoryWrite addr data →
    let count := min 65535 (s.violations.count + 1)
    exec c s = .next
      (({ s with
          violations := { count := count, address := word (2 * addr.toNat) }
          attention := { s.attention with protect := true }
          port := .writeDone true } : State).post .protect 0 [word (2 * addr.toNat), word count])

/-- TAKESER (R167): the word of the slot's pair is stored; a HELD slot with no post in progress whose
two TAKESER words then equal its posted serial becomes FREE, and any other keeps its state. That the
word not written is compared as corrected is the model's choice (assumption 11). A write of POSTSER or
of the body of a slot is refused as a protection violation (R145, R146, R153). -/
def Obligations.TakeserFreesAMatchingSlot : Prop :=
  (∀ (i : Fin 128) (low : Bool) (data : Word) (s : State), s.phase = .ready ∨ s.phase = .restarting →
    ∃ t, exec (.takeser i low data) s = .next t ∧
      let a := 0x1800 + 16 * i.val + if low then 3 else 2
      let serial := if low then (s.memWord (a - 1)).corrected ++ data
        else data ++ (s.memWord (a + 1)).corrected
      t = { s with
        memory := t.memory, port := .writeDone false
        badWords := { s.badWords with offsets := s.badWords.offsets.filter fun x => x ≠ 2 * a }
        journal := { s.journal with
          slots := if (s.journalSlot i).state = .held ∧ (s.journalSlot i).posting = false ∧
              serial = (s.journalSlot i).serial then
            s.journal.slots.set i { s.journalSlot i with state := .free }
          else s.journal.slots } } ∧
      t.memWord a = { raw := data, errors := [] } ∧
      ∀ b, b ≠ a → t.memWord b = s.memWord b) ∧
  ∀ (i : Fin 128) (w : Nat) (data : Word) (s : State), s.phase = .ready ∨ s.phase = .restarting →
    w < 16 → w ≠ 2 → w ≠ 3 →
    let offset := 2 * (0x1800 + 16 * i.val + w)
    let count := min 65535 (s.violations.count + 1)
    exec (.hostMemoryWrite (BitVec.ofNat 13 (0x1800 + 16 * i.val + w)) data) s = .next
      (({ s with
          violations := { count := count, address := word offset }
          attention := { s.attention with protect := true }
          port := .writeDone true } : State).post .protect 0 [word offset, word count])

/-- Register writes with the port open (R149, R150, R155, R157). ATTENTION_CLEAR clears each sticky bit
written as 1, CRITICAL only while the journal is not halted; MASK keeps bits 0 to 5; the number of a
record written to PROMPT joins the tail of the queue unless it waits there already, and a ninth number,
or one that names no record, is dropped and sets PROMPT_LOST (that a number already in a full queue is
not lost is the model's choice, assumption 29); a write of IDENT or of an unused word ends with XERRn,
and one of CONTROL with bit 0 clear, or with bit 0 set during an engine restart, ends normally, none of
these having an effect. -/
def Obligations.RegisterWritesActAsTheTableSays : Prop :=
  (∀ (data : Word) (s : State), s.phase = .ready ∨ s.phase = .restarting →
    exec (.attentionClear data) s = .next { s with
      port := .writeDone false
      attention :=
        { lost := s.attention.lost && !data.getLsbD 2
          protect := s.attention.protect && !data.getLsbD 3
          promptLost := s.attention.promptLost && !data.getLsbD 4
          critical := s.attention.critical && (!data.getLsbD 5 || s.journal.halted) } } ∧
    exec (.maskWrite data) s = .next { s with
      port := .writeDone false, mask := data.extractLsb' 0 6 }) ∧
  (∀ (data : Word) (s : State), s.phase = .ready ∨ s.phase = .restarting →
    (∀ r : Record, r.number.val = data.toNat →
      exec (.prompt data) s = .next (
        if r ∈ s.patrol.prompts then { s with port := .writeDone false }
        else if s.patrol.prompts.length < 8 then
          { s with port := .writeDone false
                   patrol := { s.patrol with prompts := s.patrol.prompts ++ [r] } }
        else { s with port := .writeDone false
                      attention := { s.attention with promptLost := true } })) ∧
    ((∀ r : Record, r.number.val ≠ data.toNat) →
      exec (.prompt data) s = .next { s with
        port := .writeDone false, attention := { s.attention with promptLost := true } })) ∧
  (∀ (reg : Fin 8) (data : Word) (s : State), s.phase = .ready ∨ s.phase = .restarting →
    reg ≠ 3 → reg ≠ 4 → reg ≠ 5 → ¬(reg = 2 ∧ data.getLsbD 0 = true) →
    exec (.registerWriteOther reg data) s =
      .next { s with port := .writeDone (reg ≠ 2) }) ∧
  ∀ s : State, s.phase = .restarting →
    exec .engineRestart s = .next { s with port := .writeDone false }

/-! ## The journal -/

/-- What a report comes to when it is not posted (R162, R165, R168, R169): discarded before READY,
counted in the restart drop count, dropped by the kind mask, counted while the journal is halted, and
counted with LOST where no slot is FREE; where a post is in progress it waits its turn. A report that is
posted, with no plan for the slot writes to come (R165, R166): the lowest-numbered FREE slot becomes
HELD with the next serial, which advances past 0 (with no skip of a serial still HELD, the model's
choice, assumption 30); its fourteen device-owned words hold the serial, the kind and record number, the
stamp and nine detail words; nothing else changes. -/
def Obligations.ReportsArePostedOrCounted : Prop :=
  (∀ (s : State) (k : Kind) (record : Nat) (detail : List Word),
    let counted : Journal := { s.journal with
      unposted := s.journal.unposted.set k.index (min 65535 (s.journal.unposted[k.index] + 1)) }
    (s.phase = .inReset ∨ s.phase = .initialising → s.post k record detail = s) ∧
    (s.phase = .restarting → s.post k record detail =
      { s with journal := { s.journal with
        dropCount := min 65535 (s.journal.dropCount + 1) } }) ∧
    (s.phase = .ready → s.journal.kindMask.getLsbD (k.code - 1) = false →
      s.post k record detail = s) ∧
    (s.phase = .ready → s.journal.kindMask.getLsbD (k.code - 1) = true →
      (s.journal.current ≠ none → s.post k record detail =
        { s with journal := { s.journal with
          waiting := s.journal.waiting ++ [{
            kind := k, record := record, stamp := s.timing.frameCounter.setWidth 32
            detail := detail }] } }) ∧
      (s.journal.current = none → s.journal.halted = true →
        s.post k record detail = { s with journal := counted }) ∧
      (s.journal.current = none → s.journal.halted = false →
        (∀ i, (s.journalSlot i).state ≠ .free) →
        s.post k record detail = { s with
          journal := counted, attention := { s.attention with lost := true } }))) ∧
  ∀ (s : State) (k : Kind) (record : Nat) (detail : List Word) (i : Fin 128), s.phase = .ready →
    s.journal.kindMask.getLsbD (k.code - 1) = true → s.journal.current = none →
    s.journal.halted = false → s.journal.plans = [] → (s.journalSlot i).state = .free →
    (∀ j, j < i → (s.journalSlot j).state ≠ .free) →
    let t := s.post k record detail
    let serial := s.journal.nextSerial
    let stamp : Long := s.timing.frameCounter.setWidth 32
    t = { s with
      memory := t.memory
      journal := { s.journal with
        slots := s.journal.slots.set i { state := .held, serial := serial, posting := false }
        nextSerial := if serial = 0xFFFFFFFF then 1 else serial + 1 } } ∧
    t.memWord (0x1800 + 16 * i.val) = { raw := highHalf serial } ∧
    t.memWord (0x1800 + 16 * i.val + 1) = { raw := lowHalf serial } ∧
    t.memWord (0x1800 + 16 * i.val + 4) = { raw := word (256 * k.code + record) } ∧
    t.memWord (0x1800 + 16 * i.val + 5) = { raw := highHalf stamp } ∧
    t.memWord (0x1800 + 16 * i.val + 6) = { raw := lowHalf stamp } ∧
    (∀ d, d < 9 → t.memWord (0x1800 + 16 * i.val + 7 + d) = { raw := detail.getD d 0 }) ∧
    ∀ a, (∀ w, w < 16 → w ≠ 2 → w ≠ 3 → a ≠ 0x1800 + 16 * i.val + w) →
      t.memWord a = s.memWord a

/-- The read-back of a post (R166, R168): a word of the slot struck in one bit is rewritten, and the
post is the one that nothing strikes; a word struck in two bits makes the slot BAD with its serial
consumed, and JOURNAL_SLOT_BAD is posted and then the original report again. A second failed read-back
within one post makes its slot BAD as well and halts the journal, with CRITICAL set: where it is the
post of JOURNAL_SLOT_BAD both reports are counted as unposted, where it is the retry the original report
alone. -/
def Obligations.ReadBackMendsRetriesOrHalts : Prop :=
  (∀ (s : State) (k : Kind) (record : Nat) (detail : List Word) (i : Fin 128), s.phase = .ready →
    s.journal.kindMask.getLsbD (k.code - 1) = true → s.journal.current = none →
    s.journal.halted = false →
    (s.journalSlot i).state = .free → (∀ j, j < i → (s.journalSlot j).state ≠ .free) →
    ∀ (w : Fin 16) (b c : Nat), w ≠ 2 → w ≠ 3 → b ≠ c →
    (s.journal.plans = [{ hits := [(w, b)] }] → s.post k record detail =
      ({ s with journal := { s.journal with plans := [] } } : State).post k record detail) ∧
    (s.journal.plans = [{ hits := [(w, b), (w, c)] }] → ∃ u : State,
      s.post k record detail =
        (u.post .journalSlotBad 0 [word i.val, highHalf s.journal.nextSerial,
          lowHalf s.journal.nextSerial, word k.code]).post k record detail ∧
      u = { s with
        memory := u.memory
        journal := { s.journal with
          slots := s.journal.slots.set i { state := .bad, serial := s.journal.nextSerial }
          nextSerial :=
            if s.journal.nextSerial = 0xFFFFFFFF then 1 else s.journal.nextSerial + 1
          plans := [] } } ∧
      ∀ a, (∀ d, d < 16 → d ≠ 2 → d ≠ 3 → a ≠ 0x1800 + 16 * i.val + d) →
        u.memWord a = s.memWord a)) ∧
  ∀ (s : State) (k : Kind) (record : Nat) (detail : List Word), s.phase = .ready →
    (∀ x : Kind, s.journal.kindMask.getLsbD (x.code - 1) = true) → s.journal.current = none →
    s.journal.halted = false →
    k ≠ .journalSlotBad → (∀ i, (s.journalSlot i).state = .free) →
    ∀ (w : Fin 16) (b c : Nat), w ≠ 2 → w ≠ 3 → b ≠ c →
    let t := s.post k record detail
    let unposted := fun x : Kind => t.journal.unposted[x.index]
    (s.journal.plans = [{ hits := [(w, b), (w, c)] }, { hits := [(w, b), (w, c)] }] →
      t.journal.halted = true ∧ t.attention = { s.attention with critical := true } ∧
      (t.journalSlot 0).state = .bad ∧ (t.journalSlot 1).state = .bad ∧
      (∀ i, 2 ≤ i → t.journalSlot i = s.journalSlot i) ∧
      unposted k = min 65535 (s.journal.unposted[k.index] + 1) ∧
      unposted .journalSlotBad =
        min 65535 (s.journal.unposted[Kind.journalSlotBad.index] + 1)) ∧
    (s.journal.plans = [{ hits := [(w, b), (w, c)] }, {}, { hits := [(w, b), (w, c)] }] →
      t.journal.halted = true ∧ t.attention = { s.attention with critical := true } ∧
      (t.journalSlot 0).state = .bad ∧ (t.journalSlot 1).state = .held ∧
      (t.journalSlot 2).state = .bad ∧
      (∀ i, 3 ≤ i → t.journalSlot i = s.journalSlot i) ∧
      unposted k = min 65535 (s.journal.unposted[k.index] + 1) ∧
      unposted .journalSlotBad = s.journal.unposted[Kind.journalSlotBad.index])

/-- A post made of many words is taken over many grants (R148, R164, R165). Where a plan stops it at a
word (the model's own, assumption 2), the slot is HELD with its post in progress, the words before the
stop are written, the next serial advances after the last of the fourteen, and the post waits. The
writer's grants take it to its next stop, or to its end, after which the reports that waited are handled
in order; one that was JOURNAL_SLOT_BAD is followed first by the report it stands for (R166). That it is
granted at local cycles, and where the patrol works before each of the patrol's grants, is the model's
choice (assumption 9). An engine restart completes the post in progress, and the reports that waited are
dropped and counted (R155; assumption 12). -/
def Obligations.PostInProgressGoesOn : Prop :=
  let words := fun (x : Report) (serial : Long) =>
    [(4, word (256 * x.kind.code + x.record)), (5, highHalf x.stamp), (6, lowHalf x.stamp)]
      ++ (List.range 9).map (fun d => (7 + d, x.detail.getD d 0))
      ++ [(0, highHalf serial), (1, lowHalf serial)]
  let after := fun serial : Long => if serial = 0xFFFFFFFF then (1 : Long) else serial + 1
  let writes := fun (s t : State) (i : Fin 128) (l : List (Nat × Word)) =>
    (∀ p ∈ l, t.memWord (0x1800 + 16 * i.val + p.1) = { raw := p.2 }) ∧
    ∀ a, (∀ p ∈ l, a ≠ 0x1800 + 16 * i.val + p.1) → t.memWord a = s.memWord a
  (∀ (s : State) (k : Kind) (record : Nat) (detail : List Word) (i : Fin 128) (stop : Nat)
    (stops : List Nat) (hits : List (Fin 16 × Nat)) (rest : List WritePlan), s.phase = .ready →
    s.journal.kindMask.getLsbD (k.code - 1) = true → s.journal.current = none →
    s.journal.halted = false → s.journal.plans = { stops := stop :: stops, hits := hits } :: rest →
    (s.journalSlot i).state = .free → (∀ j, j < i → (s.journalSlot j).state ≠ .free) →
    let t := s.post k record detail
    let serial := s.journal.nextSerial
    let x : Report := { kind := k, record := record, stamp := s.timing.frameCounter.setWidth 32
                        detail := detail }
    t = { s with
      memory := t.memory
      journal := { s.journal with
        slots := s.journal.slots.set i { state := .held, serial := serial, posting := true }
        nextSerial := if 14 ≤ stop then after serial else serial
        current := some { slot := i, serial := serial, report := x, stage := .first
                          written := stop, plan := { stops := stops, hits := hits } }
        plans := rest } } ∧
    writes s t i ((words x serial).take stop)) ∧
  (∀ (s : State) (c : PostInProgress) (stop : Nat) (stops : List Nat),
    s.journal.current = some c → c.plan.stops = stop :: stops → c.written ≤ stop →
    s.goOn = { s with
      memory := s.goOn.memory
      journal := { s.journal with
        nextSerial := if 14 ≤ stop then after c.serial else s.journal.nextSerial
        current := some { c with written := stop, plan := { c.plan with stops := stops } } } } ∧
    writes s s.goOn c.slot (((words c.report c.serial).take stop).drop c.written)) ∧
  (∀ s : State, s.journal.current = none → s.goOn = s) ∧
  (∀ (s : State) (k : Kind) (record : Nat) (detail : List Word), s.phase = .ready →
    s.journal.kindMask.getLsbD (k.code - 1) = true →
    s.post k record detail = s.handle { kind := k, record := record
                                        stamp := s.timing.frameCounter.setWidth 32
                                        detail := detail }) ∧
  ∀ (s : State) (c : PostInProgress), s.journal.current = some c → c.plan = { stops := [], hits := [] } →
    s.journal.plans = [] → s.journal.halted = false → c.written ≤ 14 →
    (∀ p ∈ (words c.report c.serial).take c.written,
      (s.memWord (0x1800 + 16 * c.slot.val + p.1)).errors = []) →
    let told := match c.stage with
      | .first | .retry => []
      | .slotBad x => [x]
    ∃ u : State,
      u = { s with
        memory := u.memory
        journal := { s.journal with
          slots := s.journal.slots.set c.slot { state := .held, serial := c.serial, posting := false }
          nextSerial := after c.serial, current := none, waiting := [] } } ∧
      writes s u c.slot ((words c.report c.serial).drop c.written) ∧
      s.goOn = (told ++ s.journal.waiting).foldl State.handle u ∧
      (s.phase = .ready → ∃ v : State,
        v = told.foldl State.handle u ∧
        exec .engineRestart s = exec .engineRestart { v with journal := { v.journal with
          dropCount := min 65535 (s.journal.dropCount + s.journal.waiting.length) } })

/-- The frame of every report (R165 to R168), where the plans of the slot writes to come strike words
that a post writes: nothing but control memory, the journal writer, LOST and CRITICAL can change, no
host-owned word and no word outside the journal area does, and a slot that is HELD or BAD keeps its item
and all its words. -/
def Obligations.ReportsLeaveTheRestAlone : Prop :=
  ∀ (s : State) (k : Kind) (record : Nat) (detail : List Word),
    (∀ plan ∈ s.journal.plans, ∀ h ∈ plan.hits, h.1 ≠ 2 ∧ h.1 ≠ 3) →
    State.ReportsOnly s (s.post k record detail) ∧
    ∀ i : Fin 128, (s.journalSlot i).state ≠ .free →
      (s.post k record detail).journalSlot i = s.journalSlot i ∧
      ∀ w, w < 16 → (s.post k record detail).memWord (0x1800 + 16 * i.val + w) =
        s.memWord (0x1800 + 16 * i.val + w)

/-! ## Office timing -/

/-- Rounding to the nearest integer (section 7 of the scope, R77, R90, R103): the result is within half
of the quotient, and where it is exactly a half away it is the one further from zero. -/
def Obligations.RoundingIsToNearestHalfAwayFromZero : Prop :=
  ∀ (num : Int) (den : Nat), 0 < den →
    let r := roundHalfAway num den
    2 * (r * den - num).natAbs ≤ den ∧
    (2 * (r * den - num).natAbs = den → num.natAbs < r.natAbs * den)

/-- The selector's next state (R93): the eleven rules of its table, each under its own condition and
those of the rules before it. `y` is the bus that is not `x`. -/
def Obligations.SelectorTakesItsNextState : Prop :=
  ∀ t : Timing,
    let good := fun x => (t.bus x).state = .good
    let p := t.settings.preferred
    let free := t.settings.force = .none ∧ t.holdLatch = false
    (t.holdLatch = true → t.nextSelector = .holdover) ∧
    (t.settings.force = .holdover → t.nextSelector = .holdover) ∧
    (∀ x, t.holdLatch = false → t.settings.force = .bus x → good x → t.nextSelector = .on x) ∧
    (∀ x, t.holdLatch = false → t.settings.force = .bus x → ¬good x → t.selector = .free →
      t.nextSelector = .free) ∧
    (∀ x, t.settings.force = .bus x → ¬good x → t.selector ≠ .free →
      t.nextSelector = .holdover) ∧
    (∀ x, free → t.selector = .on x → good x → t.nextSelector =
      if x ≠ p ∧ t.settings.revertive = true ∧ t.settings.revertDelay ≤ t.revertCount ∧ good p then
        .on p else .on x) ∧
    (∀ x y, x ≠ y → free → t.selector = .on x → ¬good x → good y → t.nextSelector = .on y) ∧
    (∀ x y, x ≠ y → free → t.selector = .on x → ¬good x → ¬good y → t.nextSelector = .holdover) ∧
    (free → t.selector = .free ∨ t.selector = .holdover → good p → t.nextSelector = .on p) ∧
    (∀ y, y ≠ p → free → t.selector = .free ∨ t.selector = .holdover → ¬good p → good y →
      t.nextSelector = .on y) ∧
    (free → t.selector = .free ∨ t.selector = .holdover → (∀ x, ¬good x) →
      t.nextSelector = t.selector)

/-- A change of selector state (R93, R97, R99, R100, R101): where the next state is the present one
nothing changes; otherwise the switch count advances, a pending REALIGN is cancelled, φ is kept, the
build-out or the NCO is set for the new source, active throughout is cleared for the bus left, and
SELECTOR is reported; in the lengthened part of a REALIGN frame φ becomes 0 and the office tick that
closes the frame follows. A change of a bus monitor's state (R88, R92, R94): the counts are 0 and window
passed clear, BUS_STATE is reported with the bus's last x, the revert count is 0 if the preferred bus
leaves GOOD, and the selector takes its next state at the same event. That SELECTOR is posted before the
tick that closes a lengthened frame (assumption 17), and that an unaligned flywheel counts as 0 for Bo
(assumption 6), are the model's choices. -/
def Obligations.StateChangesOfBusAndSelectorAreReported : Prop :=
  (∀ (s : State) (cause : SelectorCause),
    let t := s.timing
    let new := t.nextSelector
    (new = t.selector → s.takeSelector cause = s) ∧
    (new ≠ t.selector →
      let phase := if 320 ≤ t.phase then 0 else t.phase
      let step : Long := BitVec.ofInt 32 (536870912 - roundHalfAway (536870912 * t.hv) 10000000)
      let u : Timing := { t with
        selector := new
        switchCount := t.switchCount + 1
        realignPending := false
        phase := phase
        busA := if t.selector = .on .a then { t.busA with activeThroughout := false } else t.busA
        busB := if t.selector = .on .b then { t.busB with activeThroughout := false } else t.busB
        buildOut := match new with
          | .on x => ((t.bus x).flywheel.getD 0 + 320 - phase) % 320
          | .free | .holdover => t.buildOut
        busTimed := match new with
          | .on _ => t.busTimed
          | .free | .holdover => false
        ncoStep := match new with
          | .on _ => t.ncoStep
          | .free | .holdover => step
        ncoAccumulator := match new with
          | .on _ => t.ncoAccumulator
          | .free | .holdover => 0 }
      let reverted := t.selector = .on .a ∧ t.busA.state = .good ∨
        t.selector = .on .b ∧ t.busB.state = .good
      let told := if t.holdLatch = false ∧ t.settings.force = .none ∧ reverted then .revert else cause
      let v := ({ s with timing := u } : State).post .selector 1
        [word t.selector.code, word new.code, word told.code, word u.buildOut, signedWord u.hv,
          word u.history.length]
      s.takeSelector cause = if 320 ≤ t.phase then v.tick else v)) ∧
  ∀ (s : State) (x : Bus) (new : MonitorState) (cause : BusCause),
    let m := s.timing.bus x
    let moved : Timing := s.timing.setBus x
      { m with state := new, goodCount := 0, badCount := 0, windowPassed := false }
    let u := ({ s with timing := moved } : State).post .busState 1
      [if x = .a then 0 else 1, word m.state.code, word new.code, word cause.code, signedWord m.lastX]
    s.changeBus x new cause =
      ({ u with timing := { u.timing with
        revertCount := if x = s.timing.settings.preferred ∧ m.state = .good then 0
          else s.timing.revertCount } } : State).takeSelector
        (if new = .good then .busGood else .busFailed)

/-- HOLD_LATCH (R96): a latch already set stays set; a clear one is set, HOLD_LATCH is reported with the
selector's state before, and the selector is in HOLDOVER at the same event. A local cycle that finds
HOLDREQ asserted latches it before all else of the cycle but the journal writer's grants (the model's
choice, assumption 7), here with none to take, and while RESETn is asserted only the pin's level is
followed (R107; sampling it then is the model's choice, assumption 3). -/
def Obligations.HoldreqLatchesTheSelectorInHoldover : Prop :=
  (∀ s : State, s.phase ≠ .inReset →
    (s.timing.holdLatch = true → exec .holdLatch s = .next { s with holdreq := true }) ∧
    (s.timing.holdLatch = false → ∃ t, exec .holdLatch s = .next t ∧
      t = (({ s with holdreq := true, timing := { s.timing with holdLatch := true } } : State).post
        .holdLatch 1 [word s.timing.selector.code]).takeSelector .holdLatch ∧
      t.timing.holdLatch = true ∧ t.timing.selector = .holdover)) ∧
  (∀ (s u : State), s.phase ≠ .inReset → s.journal.current = none → s.journal.plans = [] →
    exec .holdLatch s = .next u →
    exec (.localOscillatorCycle true []) s = exec (.localOscillatorCycle true []) u) ∧
  ∀ (holdreq : Bool) (s : State), s.phase = .inReset →
    exec (.localOscillatorCycle holdreq []) s = .next { s with holdreq := holdreq }

/-- BUS_FRAME_JUDGED (R88, R91): what a good and a bad frame do in each state of the monitor. No frame
is judged while the flywheel is unaligned (R87). MISSING_CLOCK (R89): the timing window is discarded,
the flywheel unaligned, the counts 0, window passed clear and the silence count at 32; a monitor that
was not FAILED enters FAILED; with the silence count held at 32, as before the first edge, no missing
clock is taken (R107). That the window is discarded also where the missing clock falls together with its
last edge is the model's choice (assumption 31). -/
def Obligations.BusFramesAndMissingClocksAreCounted : Prop :=
  (∀ (x : Bus) (good : Bool) (s : State), s.phase ≠ .inReset →
    let m := s.timing.bus x
    m.flywheel ≠ none →
    let c := s.timing.settings
    let put := fun m : BusMonitor => ({ s with timing := s.timing.setBus x m } : State)
    exec (.busFrameJudged x good) s = .next (
      if m.state = .good then
        if good then put { m with badCount := 0 }
        else if c.badFrameLimit ≤ m.badCount + 1 then s.changeBus x .failed .badFrames
        else put { m with badCount := m.badCount + 1 }
      else if good then
        if c.goodFrameCount ≤ min 8000 (m.goodCount + 1) ∧ m.windowPassed = true then
          s.changeBus x .good .qualified
        else put { m with goodCount := min 8000 (m.goodCount + 1) }
      else put { m with goodCount := 0 })) ∧
  (∀ (x : Bus) (good : Bool) (s : State), (s.timing.bus x).flywheel = none →
    exec (.busFrameJudged x good) s = .next s) ∧
  ∀ (x : Bus) (s : State), s.phase ≠ .inReset →
    let m := s.timing.bus x
    let lost : BusMonitor := { m with
      window := none, flywheel := none, stray := false, goodCount := 0, badCount := 0
      windowPassed := false, silence := 32 }
    let u : State := { s with timing := s.timing.setBus x lost }
    exec (.missingClock x) s = .next (
      if 32 ≤ m.silence then s
      else if m.state = .failed then u else u.changeBus x .failed .missingClock)

/-- TIMING_WINDOW_END (R90, R91, R94, R102): x from the local cycles counted, what the window does to
the monitor in and out of limit, what it adds to reverting and to the holdover history, and the next
window begun at the same edge; that it begins after the selector has acted, so that active throughout is
set by the selector's new state, is the model's choice (assumption 18), and so is that the command with
no window in hand is taken as the end of one (assumption 6). -/
def Obligations.TimingWindowEndJudgesTheBus : Prop :=
  ∀ (x : Bus) (cycles : Long) (s : State), s.phase ≠ .inReset →
    let m := s.timing.bus x
    let c := s.timing.settings
    let offset := clampSigned (roundHalfAway (((cycles.toNat : Int) - 20480000) * 10000000) 20480000)
    let inLimit := offset.natAbs ≤ c.freqLimit
    let t := s.timing.setBus x { m with lastX := offset }
    let credited : Timing := { t with
      revertCount := if x = c.preferred then min 255 (t.revertCount + 1) else t.revertCount }
    let joined := if t.selector = .on x ∧ m.activeThroughout = true then
      credited.withHistory ((credited.history ++ [offset]).drop
        (if credited.history.length < 4 then 0 else 1)) else credited
    let u : State :=
      if m.state = .good then
        if inLimit then
          if x = c.preferred then ({ s with timing := joined } : State).takeSelector .busGood
          else { s with timing := joined }
        else ({ s with timing := t } : State).changeBus x .failed .frequency
      else if inLimit then
        if c.goodFrameCount ≤ m.goodCount then
          ({ s with timing := t } : State).changeBus x .good .qualified
        else { s with timing := t.setBus x { m with lastX := offset, windowPassed := true } }
      else { s with timing := t.setBus x { m with lastX := offset, windowPassed := false } }
    let begun : BusMonitor := { u.timing.bus x with
      window := some { edges := 0, cycles := 0 }
      activeThroughout := decide (u.timing.selector = .on x) }
    exec (.timingWindowEnd x cycles) s = .next { u with timing := u.timing.setBus x begun }

/-- OFFICE_TICK, and REALIGN_COMPLETE on a followed bus in a lengthened frame (R39, R98, R100, R101,
R108, R110, R135): φ becomes 0, the frame counter advances, the group position is the counter modulo 4,
and every highway carries the alignment code of the new group position; the control plane is left alone.
The monitors count the frame that ended, and then for each line, in ascending order (assumption 7), its
window unit closes that frame and its reader acts; an OUT line with no window in hand sends its idle
code in all 39 channels. OFFICE_TICK with a REALIGN pending on a followed bus whose flywheel is not at 0
makes no tick: φ counts on at 320, and a driven highway carries an extension octet (R114). OFFICE_TICK
is taken as the wrap of φ from any value below 320, and leaves the flywheel and Bo as they are, and
REALIGN_COMPLETE leaves the flywheel too, by the model's choice (assumption 6). -/
def Obligations.OfficeTickOpensAFrame : Prop :=
  (∀ (c : Instr) (s : State), s.phase ≠ .inReset →
    (c = .officeTick ∧ s.timing.phase < 320 ∧ ¬(s.timing.realignPending = true ∧
        (∃ x, s.timing.selector = .on x) ∧ s.timing.buildOut ≠ 0) ∨
      c = .realignComplete ∧ 320 ≤ s.timing.phase ∧ ∃ x, s.timing.selector = .on x) →
    let ticked : Timing := { s.timing with
      phase := 0, frameCounter := s.timing.frameCounter + 1, realignPending := false
      busTimed := s.timing.selector == .on .a || s.timing.selector == .on .b
      buildOut := if c = .officeTick then s.timing.buildOut else 0 }
    let counted := (List.finRange 8).foldl (fun u i => u.closeMonitor s.monitorUnit.freeze i)
      { s with timing := ticked }
    let opened : State := { counted with
      highway := { s.highway with
        inHand := some
          { position := ticked.position
            channels := match s.highway.inHand with
              | some g => g.channels
              | none => Vector.replicate 64 (List.replicate 39 0xFF) } } }
    let served := (List.finRange 64).foldl
      (fun u n => (u.closeWindowFrame n s.timing.busTimed).readerEvent n ticked.position) opened
    ∃ t f, exec c s = .next t ∧ State.ControlKept s t ∧
      t = { served with highway := { served.highway with sent := t.highway.sent } } ∧
      t.timing = ticked ∧
      t.highway.inHand = some f ∧ f.position.val = (s.timing.frameCounter + 1).toNat % 4 ∧
      t.highway.sent = some (Vector.replicate 8 (alignmentCode f.position)) ∧
      ∀ n, (s.line n).state = .out → (s.line n).window.startPending = false →
        (s.line n).window.counting = false →
        f.channels[n] = List.replicate 39 (s.line n).idleCode ∧
        t.line n = { s.line n with
          bitCount := 0
          reader := { (s.line n).reader.adopt with
            recentrePending := false, lastDecision := .idle, lastFill := (s.line n).fill
            lastSubstituted := false } }) ∧
  ∀ (s : State) (x : Bus), s.phase ≠ .inReset → s.timing.phase < 320 →
    s.timing.realignPending = true → s.timing.selector = .on x → s.timing.buildOut ≠ 0 →
    exec .officeTick s = .next { s with
      timing := { s.timing with phase := 320 }
      highway := { s.highway with
        sent := if s.highway.inHand = none then s.highway.sent
          else some (Vector.replicate 8 0xFF) } }

/-- BUS_CLOCK_EDGE (R87, R88, R90, R98, R100, R102, R108, R114). The edge sets the silence count to 0
and advances the flywheel; a pulse at a wrap, or none, judges a frame, and a pulse off the wrap realigns
a monitor that is not GOOD and judges its frame bad. On the followed bus the edge is one office bit: the
office tick where φ would wrap, or the next φ; in the lengthened part of a REALIGN frame an extension
octet, or, at the flywheel's wrap, the tick that closes the frame. The edge with no timing window in
hand begins one, one within a window is counted, and the 2,560,000th ends it. That the office bit comes
first, then the judgement, then the window, is the model's choice (assumption 7). -/
def Obligations.BusClockEdgeDrivesFlywheelAndPhase : Prop :=
  ∀ (x : Bus) (pulse : Bool) (s : State), s.phase ≠ .inReset →
    let m := s.timing.bus x
    let edge : Option Nat × Bool × Option Bool := match m.flywheel with
      | none => if pulse then (some 0, false, none) else (none, m.stray, none)
      | some f =>
        if f % 320 = 319 then (some 0, false, some (pulse && !m.stray))
        else if pulse = false then (some (f % 320 + 1), m.stray, none)
        else if m.state = .good then (some (f % 320 + 1), true, none)
        else (some 0, false, some false)
    let fly := edge.1.getD 0
    let stepped : State := { s with timing := s.timing.setBus x { m with
      silence := 0, flywheel := edge.1, stray := edge.2.1 } }
    let p := (fly + 320 - s.timing.buildOut) % 320
    let bitAt := fun (phase : Nat) (octets : FrameInHand → Vector Octet 8) => { stepped with
      timing := { stepped.timing with phase := phase }
      highway := { s.highway with sent := match s.highway.inHand with
        | some f => some (octets f)
        | none => s.highway.sent } }
    ∃ v u : State,
      (s.timing.selector ≠ .on x → v = stepped) ∧
      (s.timing.selector = .on x →
        (320 ≤ s.timing.phase → fly = 0 → exec .realignComplete stepped = .next v) ∧
        (320 ≤ s.timing.phase → fly ≠ 0 →
          v = bitAt (s.timing.phase + 1) fun _ => Vector.replicate 8 0xFF) ∧
        (s.timing.phase < 320 → p = 0 → exec .officeTick stepped = .next v) ∧
        (s.timing.phase < 320 → p ≠ 0 →
          v = bitAt p fun f => Vector.ofFn fun h => f.highwayOctet h p)) ∧
      (match edge.2.2 with
        | none => u = v
        | some good => exec (.busFrameJudged x good) v = .next u) ∧
      let put := fun b : BusMonitor => ({ u with timing := u.timing.setBus x b } : State)
      match m.window with
      | none => exec (.busClockEdge x pulse) s = .next (put { u.timing.bus x with
          window := some { edges := 0, cycles := 0 }
          activeThroughout := decide (u.timing.selector = .on x) })
      | some w =>
        if w.edges + 1 < 2560000 then
          exec (.busClockEdge x pulse) s = .next (put { u.timing.bus x with
            window := some { w with edges := w.edges + 1 } })
        else w.cycles < 2 ^ 32 →
          exec (.busClockEdge x pulse) s = exec (.timingWindowEnd x (BitVec.ofNat 32 w.cycles)) u

/-- LOCAL_OSCILLATOR_CYCLE (R89, R90, R103, R108, R156), at a level of HOLDREQ that latches nothing new,
after the errors that strike and the journal writer's grants: the silence counts and the timing windows
count the cycle, and the cycle that brings a bus's silence count to 32 takes its MISSING_CLOCK, bus A's
first; the NCO takes its step in FREE and HOLDOVER, each carry being one office bit; and the patrol's
interval advances, each 2560th cycle taking a patrol step; the step in progress goes on, with the host
cycles that come with the cycle between its grants. An error that strikes (R21, R147) toggles one bit of
a word of control memory or of the store, a bit struck again being right again, and a plan joins those
of the slot writes to come; strikes are taken in order. The order within the cycle is the model's choice
(assumption 7), strikes and plans are its own operand (assumption 2). -/
def Obligations.LocalCycleAdvancesTheCounters : Prop :=
  (∀ (s : State) (holdreq : Bool), s.phase ≠ .inReset →
    (holdreq = true → s.timing.holdLatch = true) →
    let cycled := fun (t : Timing) (x : Bus) => t.setBus x { t.bus x with
      window := (t.bus x).window.map fun w => { w with cycles := w.cycles + 1 }
      silence := min 32 ((t.bus x).silence + 1) }
    let g : State := { s.goOn with holdreq := holdreq }
    ∃ a b : State,
      (if s.timing.busA.silence = 31 then exec (.missingClock .a) g = .next a
        else a = { g with timing := cycled g.timing .a }) ∧
      (if s.timing.busB.silence = 31 then exec (.missingClock .b) a = .next b
        else b = { a with timing := cycled a.timing .b }) ∧
      let t := b.timing
      let nco := t.selector = .free ∨ t.selector = .holdover
      let total := t.ncoAccumulator.toNat + t.ncoStep.toNat
      let u : State := { b with timing := { t with
        ncoAccumulator := if nco then t.ncoAccumulator + t.ncoStep else t.ncoAccumulator } }
      ∃ v : State,
        (¬nco ∨ total < 2 ^ 32 → v = u) ∧
        (nco → 2 ^ 32 ≤ total → t.phase < 319 → v = { u with
          timing := { u.timing with phase := t.phase + 1 }
          highway := { b.highway with sent := match b.highway.inHand with
            | some f => some (Vector.ofFn fun h => f.highwayOctet h (t.phase + 1))
            | none => b.highway.sent } }) ∧
        (nco → 2 ^ 32 ≤ total → t.phase = 319 → exec .officeTick u = .next v) ∧
        (t.phase < 320 →
          let timed := fun k : Nat => ({ v with patrol := { s.patrol with timer := k } } : State)
          (s.patrol.step = none → s.patrol.due = false → s.patrol.timer + 1 < 2560 →
            exec (.localOscillatorCycle holdreq []) s = .next (timed (s.patrol.timer + 1))) ∧
          ∀ l : List (Nat × HostCycle),
            let cycle := Instr.localOscillatorCycle holdreq (l.map fun c => .host c.1 c.2)
            (s.patrol.timer + 1 < 2560 →
              exec cycle s = .next ((timed (s.patrol.timer + 1)).patrolTurn l)) ∧
            (2560 ≤ s.patrol.timer + 1 → exec cycle s = exec (.patrolStep l) (timed 0)))) ∧
  (∀ (l : List Nat) (b c : Nat), (c ∈ strikeBit l b ↔ if c = b then b ∉ l else c ∈ l) ∧
    (l.Pairwise (· < ·) → (strikeBit l b).Pairwise (· < ·))) ∧
  ∀ (s : State) (holdreq : Bool) (rest : List Strike),
    (∀ (a : BitVec 13) (b : Nat), ∃ t : State, t = { s with memory := t.memory } ∧
      t.memWord a.toNat =
        { raw := if b < 16 then (s.memWord a.toNat).raw ^^^ (1 <<< b) else (s.memWord a.toNat).raw
          errors := strikeBit (s.memWord a.toNat).errors b } ∧
      (∀ c, c ≠ a.toNat → t.memWord c = s.memWord c) ∧
      exec (.localOscillatorCycle holdreq (.control a b :: rest)) s =
        exec (.localOscillatorCycle holdreq rest) t) ∧
    (∀ (k : Fin 9) (i : Fin 256) (w : Fin 5) (b : Nat), ∃ t : State, t = { s with slots := t.slots } ∧
      (let e := (s.slot k i.val).errors
      t.slot k i.val = { s.slot k i.val with errors :=
        { w0 := if w = 0 then strikeBit e.w0 b else e.w0
          w1 := if w = 1 then strikeBit e.w1 b else e.w1
          w2 := if w = 2 then strikeBit e.w2 b else e.w2
          w3 := if w = 3 then strikeBit e.w3 b else e.w3
          w4 := if w = 4 then strikeBit e.w4 b else e.w4 } }) ∧
      (∀ c j, j < 256 → c ≠ k ∨ j ≠ i.val → t.slot c j = s.slot c j) ∧
      exec (.localOscillatorCycle holdreq (.slot k i w b :: rest)) s =
        exec (.localOscillatorCycle holdreq rest) t) ∧
    ∀ plan : WritePlan, exec (.localOscillatorCycle holdreq (.nextPost plan :: rest)) s =
      exec (.localOscillatorCycle holdreq rest)
        { s with journal := { s.journal with plans := s.journal.plans ++ [plan] } }

/-! ## Lines: the framer and the writer -/

/-- DEAD of a HUNTING, FILLING or RUNNING line (R10, R16, R121): the ring is emptied, the framer held in
HUNT with nothing kept, the dead count at 8, LINE_STATE reported, and a PENDING line covered. The
expected position of a framer so held is 0 by the model's choice (assumption 26). -/
def Obligations.DeadLineIsEmptiedAndHeld : Prop :=
  ∀ (n : LineNo) (s : State), s.phase ≠ .inReset →
    let l := s.line n
    l.state = .hunting ∨ l.state = .filling ∨ l.state = .running →
    let dead : Line := { l with
      state := .dead, lastCause := .dead, deadCount := 8
      framer := { state := .hunt, held := true }
      ring := { l.ring with held := 0 } }
    exec (.dead n) s = .next
      (((s.setLine n dead).post .lineState (16 + n.val) [word l.state.code, 4, 10]).coverLine n)

/-- HUNT_FIND (R1, R2, R3): the eight bits are counted and join the search history; an octet that is the
code of position m opens a candidate, and any other leaves the framer in HUNT. CONFIRM_CHECK (R4, R5,
R13): a match short of N_c advances the expected position; a match that reaches N_c locks the framer,
and a HUNTING line passes to FILLING with a store reset; a mismatch returns the framer to the resumed
search over its history, which never ends in LOCKED. That the commands count and record the octet's
eight bits (assumption 6), that the match count stands at most 15 once LOCKED (assumption 15), and that
a search without a survivor leaves the expected position (assumption 26), are the model's choices. -/
def Obligations.SearchAndConfirmationOfAlignment : Prop :=
  (∀ (n : LineNo) (o : Octet) (s : State), s.phase ≠ .inReset →
    let l := s.line n
    l.framer.held = false → l.framer.state = .hunt →
    let history := ((bitsOf o).reverse ++ l.framer.history).take 5120
    let found := fun f : Framer =>
      s.setLine n { l with bitCount := min 65535 (l.bitCount + 8), framer := f }
    (∀ m : GroupPos, o = alignmentCode m → exec (.huntFind n o) s = .next (found { l.framer with
      history := history, state := .confirm, expected := m + 1, matchCount := 0
      candidateAge := 8, boundaryAge := 8 })) ∧
    ((∀ m : GroupPos, o ≠ alignmentCode m) →
      exec (.huntFind n o) s = .next (found { l.framer with history := history }))) ∧
  ∀ (n : LineNo) (o : Octet) (s : State), s.phase ≠ .inReset →
    let l := s.line n
    l.framer.held = false → l.framer.state = .confirm →
    let f : Framer := { l.framer with
      history := ((bitsOf o).reverse ++ l.framer.history).take 5120
      candidateAge := l.framer.candidateAge + 8, boundaryAge := l.framer.boundaryAge + 8 }
    let checked := fun g : Framer =>
      s.setLine n { l with bitCount := min 65535 (l.bitCount + 8), framer := g }
    let locked := checked { f with
      state := .locked, matchCount := min 15 (f.matchCount + 1), errorCount := 0
      framePosition := 8, payload := [], candidateAge := 0, boundaryAge := 0 }
    (o = alignmentCode f.expected → f.matchCount + 1 < l.confirmCount →
      exec (.confirmCheck n o) s = .next (checked { f with
        matchCount := f.matchCount + 1, expected := f.expected + 1, boundaryAge := 8 })) ∧
    (o = alignmentCode f.expected → l.confirmCount ≤ f.matchCount + 1 →
      exec (.confirmCheck n o) s =
        .next (if l.state = .hunting then locked.refill n .locked else locked)) ∧
    (o ≠ alignmentCode f.expected → exec (.confirmCheck n o) s = .next (checked (
      match resumeSearch (f.history.take (f.candidateAge - 1)).reverse with
      | some c => { f with
          expected := c.expected, matchCount := c.matchCount, candidateAge := c.age
          boundaryAge := 8 + (c.age - 8) % 320 }
      | none => { f with
          state := .hunt, matchCount := 0, candidateAge := 0, boundaryAge := 0 })))

/-- The resumed search (R5), over the bits of the history in order of arrival: it takes the first octet
that is an alignment code and whose checks, every 320 bits on, all match the following positions as far
as the bits go; it counts those matches and ends in HUNT only where no octet survives. -/
def Obligations.ResumedSearchTakesTheFirstSurvivor : Prop :=
  ∀ bits : List Bool, bits.length ≤ 5120 →
    let octetAt := fun j => octetOf ((bits.drop j).take 8)
    let survives := fun (j : Nat) (m : GroupPos) =>
      ∀ k, j + 320 * k + 8 ≤ bits.length → octetAt (j + 320 * k) = alignmentCode (m + Fin.ofNat 4 k)
    (∀ c, resumeSearch bits = some c → ∃ j m, j + 8 ≤ bits.length ∧ survives j m ∧
      c.age = bits.length - j ∧ c.matchCount = (bits.length - j - 8) / 320 ∧
      c.expected = m + 1 + Fin.ofNat 4 c.matchCount ∧
      ∀ i m', i < j → ¬survives i m') ∧
    (resumeSearch bits = none → ∀ j m, j + 8 ≤ bits.length → ¬survives j m)

/-- LOCKED_CHECK (R6, R7, R13): a match clears the error count; a mismatch is counted for the line and
gathered for the monitors, and below N_l the frame is received like any other; the mismatch that reaches
N_l is LOST, which empties the ring of a FILLING or RUNNING line and sends it to HUNTING. That the
command counts and records the octet's eight bits (assumption 6), and that a framer returned to HUNT has
the expected position 0 (assumption 26), are the model's choices. -/
def Obligations.LockedCheckCountsErrors : Prop :=
  ∀ (n : LineNo) (o : Octet) (s : State), s.phase ≠ .inReset →
    let l := s.line n
    l.framer.held = false → l.framer.state = .locked →
    let f : Framer := { l.framer with
      history := ((bitsOf o).reverse ++ l.framer.history).take 5120 }
    let taken : Line := { l with bitCount := min 65535 (l.bitCount + 8) }
    let missed := fun m : Line =>
      (s.setLine n { m with
        counters := { l.counters with alignErrors := l.counters.alignErrors + 1 } }).setGathered n
        { s.gathered n with alignErrors := (s.gathered n).alignErrors + 1 }
    (o = alignmentCode f.expected → exec (.lockedCheck n o) s = .next (s.setLine n { taken with
      framer := { f with errorCount := 0, framePosition := 8, payload := [] } })) ∧
    (o ≠ alignmentCode f.expected → f.errorCount + 1 < l.lossCount →
      exec (.lockedCheck n o) s = .next (missed { taken with
        framer := { f with
          errorCount := f.errorCount + 1, framePosition := 8, payload := [] } })) ∧
    (o ≠ alignmentCode f.expected → l.lossCount ≤ f.errorCount + 1 →
      l.state = .filling ∨ l.state = .running →
      exec (.lockedCheck n o) s = .next ((missed { taken with
        state := .hunting, lastCause := .lost, framer := { state := .hunt, held := false }
        ring := { l.ring with held := 0 } }).post .lineState (16 + n.val)
          [word l.state.code, 1, 4]))

/-- FRAME_DELIVERY (R29, R30, R31, R33, R119, R120): outside FILLING and RUNNING the frame is discarded;
with H below C − u it is written with its tag, clean, at the write position in every bank named for
writes, and H rises by one; at H_max it is an overrun, counted and gathered. -/
def Obligations.DeliveredFrameIsWrittenOrDiscarded : Prop :=
  ∀ (n : LineNo) (payload : Vector Octet 39) (tag : GroupPos) (s : State), s.phase ≠ .inReset →
    let l := s.line n
    let p := l.placement
    let k := p.bank
    let i := p.base + (l.ring.readIndex + l.ring.held) % p.capacity
    let banks : List (Fin 9) := match s.spare.state with
      | .standby => [⟨k.val, by omega⟩]
      | .mirror j => if j = k then [⟨k.val, by omega⟩, 8] else [⟨k.val, by omega⟩]
      | .spared j => if j = k then [8] else [⟨k.val, by omega⟩]
      | .restore j => if j = k then [⟨k.val, by omega⟩, 8] else [⟨k.val, by omega⟩]
    (l.state ≠ .filling → l.state ≠ .running →
      exec (.frameDelivery n payload tag) s = .next s) ∧
    (l.state = .filling ∨ l.state = .running → p.legal →
      l.ring.held < p.capacity - p.unit.slots → ∃ w : State,
      w = { s.setLine n { l with ring := { l.ring with held := l.ring.held + 1 } } with
        slots := w.slots } ∧
      (∀ b ∈ banks, w.slot b i = { payload := payload.toList, position := tag, filler := false
                                   errors := {} }) ∧
      (∀ b j, j < 256 → b ∉ banks ∨ j ≠ i → w.slot b j = s.slot b j) ∧
      exec (.frameDelivery n payload tag) s = .next (
        if s.spare.state = .mirror k ∨ s.spare.state = .restore k then
          let count := min 32 ((s.cover n).count + 1)
          let v := w.setCover n { s.cover n with count := count }
          if p.capacity ≤ count then v.coverLine n else v
        else w)) ∧
    (l.state = .filling ∨ l.state = .running → p.capacity - p.unit.slots ≤ l.ring.held →
      exec (.frameDelivery n payload tag) s = .next
        ((s.setLine n { l with
          counters := { l.counters with overruns := l.counters.overruns + 1 } }).setGathered n
            { s.gathered n with overruns := (s.gathered n).overruns + 1 }))

/-- LINE_BIT_TAKEN (R1, R2, R3, R4, R6, R8): every bit is counted; a held framer ignores it; in HUNT it
joins the history and completes the octet examined; in LOCKED it advances the frame bit position, each
eighth bit adding an octet to the payload, and the 320th delivers the frame with the expected position
as its tag. The eight bits of the octet that a check falls on, taken one by one, are that check. -/
def Obligations.LineBitIsCountedAndOffered : Prop :=
  (∀ (n : LineNo) (b : Bool) (s : State), s.phase ≠ .inReset →
    let l := s.line n
    let f := l.framer
    let history := (b :: f.history).take 5120
    let o := octetOf (history.take 8).reverse
    let taken := fun g : Framer =>
      s.setLine n { l with bitCount := min 65535 (l.bitCount + 1), framer := g }
    (f.held = true → exec (.lineBitTaken n b) s = .next (taken f)) ∧
    (f.held = false → f.state = .hunt →
      f.history.length < 7 ∨ (∀ m : GroupPos, o ≠ alignmentCode m) →
      exec (.lineBitTaken n b) s = .next (taken { f with history := history })) ∧
    (∀ m : GroupPos, f.held = false → f.state = .hunt → 7 ≤ f.history.length →
      o = alignmentCode m → exec (.lineBitTaken n b) s = .next (taken { f with
        history := history, state := .confirm, expected := m + 1, matchCount := 0
        candidateAge := 8, boundaryAge := 8 })) ∧
    (f.held = false → f.state = .confirm → f.boundaryAge ≠ 327 →
      exec (.lineBitTaken n b) s = .next (taken { f with
        history := history, candidateAge := f.candidateAge + 1
        boundaryAge := f.boundaryAge + 1 })) ∧
    (f.held = false → f.state = .locked → (f.framePosition + 1) % 8 ≠ 0 →
      exec (.lineBitTaken n b) s = .next (taken { f with
        history := history, framePosition := f.framePosition + 1 })) ∧
    (f.held = false → f.state = .locked → (f.framePosition + 1) % 8 = 0 →
      8 < f.framePosition + 1 → f.framePosition + 1 < 320 →
      exec (.lineBitTaken n b) s = .next (taken { f with
        history := history, framePosition := f.framePosition + 1
        payload := f.payload ++ [o] })) ∧
    (f.held = false → f.state = .locked → f.framePosition = 319 →
      ∀ frame : Vector Octet 39, frame.toList = f.payload ++ [o] →
      exec (.lineBitTaken n b) s = exec (.frameDelivery n frame f.expected) (taken { f with
        history := history, framePosition := 0, payload := [], expected := f.expected + 1 }))) ∧
  ∀ (n : LineNo) (o : Octet) (s : State), s.phase ≠ .inReset →
    let f := (s.line n).framer
    let taken := (bitsOf o).foldl
      (fun t b => match t with
        | .next u => exec (.lineBitTaken n b) u
        | .fault r => .fault r
        | .refused r => .refused r)
      (.next s)
    f.held = false →
    (f.state = .confirm → f.boundaryAge = 320 → taken = exec (.confirmCheck n o) s) ∧
    (f.state = .locked → f.framePosition = 0 → taken = exec (.lockedCheck n o) s)

/-- A store reset with its entry to FILLING (R16, R34, R121): LINE_STATE with the cause, r = u and H =
0, and the u retained slots written as part-written slots in every bank named for writes, no other slot
being written; a PENDING line is covered. Covering (R121, R122, R129): only a PENDING line becomes
COVERED; the one that leaves no line PENDING turns MIRROR into SPARED and RESTORE into STANDBY, with
every mark and count cleared and SPARE_PHASE reported with cause COMPLETE. That a reset within FILLING
keeps the last cause is the model's choice (assumption 13). -/
def Obligations.StoreResetWritesTheRetainedSlotsAndCovers : Prop :=
  (∀ (s : State) (n : LineNo) (cause : LineCause),
    let l := s.line n
    let p := l.placement
    let u := p.unit.slots
    p.legal → ∃ w : State,
    w = { (s.setLine n { l with
        state := .filling
        lastCause := if l.state = .filling then l.lastCause else cause
        ring := { readIndex := u, held := 0 } }).post .lineState (16 + n.val)
          [word l.state.code, 2, word cause.code] with slots := w.slots } ∧
    (∀ b ∈ s.spare.state.writeBanks p.bank, ∀ j, j < u → w.slot b (p.base + j) =
      { payload := List.replicate 39 0xFF, position := 0, filler := true, errors := {} }) ∧
    (∀ b i, i < 256 → b ∉ s.spare.state.writeBanks p.bank ∨ i < p.base ∨ p.base + u ≤ i →
      w.slot b i = s.slot b i) ∧
    s.refill n cause = w.coverLine n) ∧
  ∀ (s : State) (n : LineNo),
    let coverage := s.spare.coverage.set n { s.cover n with mark := .covered }
    let cleared : Vector Coverage 64 := Vector.replicate 64 { mark := .notConcerned, count := 0 }
    ((s.cover n).mark ≠ .pending → s.coverLine n = s) ∧
    ((s.cover n).mark = .pending → (∃ m, m ≠ n ∧ (s.cover m).mark = .pending) →
      s.coverLine n = { s with spare := { s.spare with coverage := coverage } }) ∧
    ((s.cover n).mark = .pending → (∀ m, m ≠ n → (s.cover m).mark ≠ .pending) → ∀ k : Fin 8,
      (s.spare.state = .mirror k → s.coverLine n =
        ({ s with spare := { s.spare with
          state := .spared k, coverage := cleared, lastCause := .complete } } : State).post
            .sparePhase 2 [1, 2, word k.val, 3]) ∧
      (s.spare.state = .restore k → s.coverLine n =
        ({ s with spare := { s.spare with
          state := .standby, coverage := cleared, lastCause := .complete } } : State).post
            .sparePhase 2 [3, 0, word k.val, 3]))

/-! ## Lines: windows and the reader -/

/-- The window unit at a tick and at a reader event (R70, R73, R74): a pending start begins a window and
counts nothing of the frame that ends; a COUNTING window counts the frame, and ends at its W-th; the
reader's hand-over joins the accumulation of a COUNTING window. What ends every reader event (R57, R63,
R64, R110, R135): the bit count starts again, SUBSTITUTED counts a substitute, the decision and fill are
kept for the report, and the window unit, the monitor unit and the frame in hand take what the event
made. -/
def Obligations.WindowUnitCountsFramesAndHandOvers : Prop :=
  ((∀ (s : State) (n : LineNo) (busTimed : Bool),
    let l := s.line n
    let w := l.window
    let a := w.accumulation
    let counted := s.setLine n { l with window := { w with
      counter := w.counter - 1
      accumulation := { a with
        bits := min 4294967295 (a.bits + l.bitCount)
        referenceLost := a.referenceLost || !busTimed } } }
    (w.startPending = true → s.closeWindowFrame n busTimed = s.setLine n { l with window := { w with
      counting := true, startPending := false, counter := w.length, accumulation := {} } }) ∧
    (w.startPending = false → w.counting = false → s.closeWindowFrame n busTimed = s) ∧
    (w.startPending = false → w.counting = true → 1 < w.counter →
      s.closeWindowFrame n busTimed = counted) ∧
    (w.startPending = false → w.counting = true → w.counter = 1 → s.phase ≠ .inReset →
      exec (.windowEnd n) counted = .next (s.closeWindowFrame n busTimed))) ∧
  ∀ (w : Window) (fill : Option Nat) (repeats deletes tLow tHigh : Nat),
    let a := w.accumulation
    (w.counting = false → w.takeEvent fill repeats deletes tLow tHigh = w) ∧
    (w.counting = true → w.takeEvent fill repeats deletes tLow tHigh = { w with
      accumulation := { a with
        runningSeen := a.runningSeen || fill.isSome
        notRunningSeen := a.notRunningSeen || fill.isNone
        minFill := match fill with
          | some f => if a.runningSeen then min a.minFill f else f
          | none => a.minFill
        maxFill := match fill with
          | some f => if a.runningSeen then max a.maxFill f else f
          | none => a.maxFill
        repeats := a.repeats + repeats
        deletes := a.deletes + deletes
        endFill := fill.getD 0
        endLow := tLow
        endHigh := tHigh } })) ∧
  ∀ (n : LineNo) (fill : Nat) (a : Acted),
    let l := a.state.line n
    let w := l.window.takeEvent a.fill a.repeats a.deletes l.reader.tLow l.reader.tHigh
    let u := (a.state.setLine n { l with
      bitCount := 0
      counters := if a.substituted then
          { l.counters with substituted := l.counters.substituted + 1 } else l.counters
      reader := { l.reader with
        lastDecision := a.decision, lastFill := fill, lastSubstituted := a.substituted }
      window := w }).setGathered n
        { repeats := a.repeats, deletes := a.deletes, alignErrors := 0, overruns := 0
          underruns := a.underruns, substituted := if a.substituted then 1 else 0
          storeCorrected := a.corrected, storeUncorrected := a.uncorrected
          state := l.state, fill := a.fill }
    let placed := fun f : FrameInHand =>
      ({ f with channels := f.channels.set n a.octets } : FrameInHand)
    State.handOver n fill a =
      { u with highway := { u.highway with inHand := u.highway.inHand.map placed } }

/-- WINDOW_END of a COUNTING window (R75 to R82): the record with its offset, flags and slip horizon;
WINDOW_DONE where REPORT_WINDOWS is ON; SLIP_FORECAST where the horizon was computed and falls short of
the limit; then the staged values in force, and the window reloaded or stopped. That the command sent
alone ends a window whatever its counter holds is the model's choice (assumption 6). -/
def Obligations.WindowEndRecordsAndReports : Prop :=
  ∀ (n : LineNo) (s : State), s.phase ≠ .inReset →
    let l := s.line n
    let w := l.window
    let a := w.accumulation
    let exact := roundHalfAway (((a.bits : Int) - 320 * w.length) * 31250) w.length
    let q := if exact < -32768 then -32768 else if 32767 < exact then 32767 else exact
    let frames := (if 0 < q then a.endHigh - a.endFill else a.endFill - a.endLow) * 31250 / q.natAbs
    let horizon := if a.notRunningSeen = true ∨ a.runningSeen = false ∨ q = 0 then none
      else some (min frames 0xFFFFFFFE)
    let code : Long := match horizon with
      | some h => BitVec.ofNat 32 h
      | none => 0xFFFFFFFF
    let record : WindowRecord :=
      { index := w.index + 1, length := w.length, bits := a.bits, offset := q
        minFill := if a.runningSeen then a.minFill else 0
        maxFill := if a.runningSeen then a.maxFill else 0
        repeats := a.repeats, deletes := a.deletes
        flags := { incomplete := a.notRunningSeen, noFill := !a.runningSeen
                   refNotLocked := a.referenceLost, saturated := q != exact }
        horizon := code }
    let length := match w.staged with
      | some x => x.1
      | none => w.length
    let mode := match w.staged with
      | some x => x.2
      | none => w.mode
    let ended : Window := { w with
      index := w.index + 1, record := record, length := length, mode := mode, staged := none }
    let after : Window := match mode with
      | .continuous => { ended with
          counting := true, startPending := false, counter := length, accumulation := {} }
      | .single => { ended with counting := false, counter := 0 }
    let flags := 32768 * bit record.flags.incomplete + 16384 * bit record.flags.noFill
      + 8192 * bit record.flags.refNotLocked + 4096 * bit record.flags.saturated
    let s1 := s.setLine n { l with window := after }
    let s2 := if w.reportWindows then s1.post .windowDone (16 + n.val)
        [record.index, word w.length, signedWord q, word record.minFill, word record.maxFill,
          word flags, highHalf code, lowHalf code]
      else s1
    w.counting = true → exec (.windowEnd n) s = .next (
      match horizon with
      | some h =>
        if w.horizonLimit ≠ 0 ∧ h < 8000 * w.horizonLimit then
          s2.post .slipForecast (16 + n.val)
            [record.index, signedWord q, word a.endFill, word (if 0 < q then a.endHigh else a.endLow),
              if 0 < q then 2 else 1, highHalf code, lowHalf code, word w.horizonLimit]
        else s2
      | none => s2)

/-- The reader event of a RUNNING line whose slot to read has no uncorrectable word (R22, R40, R43, R49,
R50, R51, R53, R55, R56): below T_low a repeat and above T_high a delete by one slip unit, in frame mode
and at g = 0 of group mode, and then a normal read of the slot at r; a FILLER slot is sent as alarm
fill. A slot with a corrected word sends its corrected payload, and STORE_CORRECTED is counted once, for
the line, for the bank that served the read and for the monitors. -/
def Obligations.RunningLineSlipsAndReads : Prop :=
  ∀ (s : State) (n : LineNo) (g : GroupPos),
    let l := s.line n
    let p := l.placement
    let u := p.unit.slots
    let c := l.reader.adopt
    let fill := 320 * l.ring.held + l.framer.partialBits
    let mayslip := p.unit = .frame ∨ g = 0
    let direction := if mayslip ∧ fill < c.tLow then 1
      else if mayslip ∧ c.tHigh < fill then 2 else 0
    let r := if direction = 1 then (l.ring.readIndex + (p.capacity - u)) % p.capacity
      else if direction = 2 then (l.ring.readIndex + u) % p.capacity else l.ring.readIndex
    let held := if direction = 1 then l.ring.held + u
      else if direction = 2 then l.ring.held - u else l.ring.held
    let bank := s.spare.state.readBank p.bank
    let x := s.slot bank (p.base + r % p.capacity)
    l.state = .running → l.bitCount ≠ 0 → l.reader.recentrePending = false →
    (mayslip ∨ l.ring.held ≠ 0) → .uncorrectable ∉ x.conditions.toList →
    (p.unit = .group → x.filler = true ∨ x.position = g) →
    let fixed := if x.conditions = {} then 0 else 1
    let decision : Decision := if direction = 1 then .repeatUnit
      else if direction = 2 then .deleteUnit else .normal
    let served := if fixed = 1 then
        s.setBank bank { s.bank bank with corrected := (s.bank bank).corrected + 1 } else s
    let counters := if fixed = 1 then
        { l.counters with storeCorrected := l.counters.storeCorrected + 1 } else l.counters
    let read := served.setLine n { l with
      deadCount := 0
      reader := { c with recentrePending := false }
      ring := { readIndex := (r + 1) % p.capacity, held := held - 1 }
      counters :=
        if direction = 1 then { counters with repeats := counters.repeats + 1 }
        else if direction = 2 then { counters with deletes := counters.deletes + 1 }
        else counters }
    s.readerEvent n g = State.handOver n fill
      { state := if direction ≠ 0 ∧ c.slipEvents = true then
            read.post .slip (16 + n.val) [word direction, word p.unit.code, word fill,
              word (held - 1), word c.tLow, word c.tHigh]
          else read
        octets := if x.filler then List.replicate 39 0xFF else x.payload
        decision := decision, substituted := x.filler, fill := some fill
        repeats := if direction = 1 then 1 else 0, deletes := if direction = 2 then 1 else 0
        corrected := fixed }

/-- The reader event of a RUNNING line that has no frame to send (R22, R34, R51, R52, R53, R54, R56,
R58): a RECENTRE that is pending, an underrun within a group, and, after the slip if one is decided, a
tag mismatch or an uncorrectable slot, which is counted and may start the automatic swap (R127). -/
def Obligations.RunningLineSendsAlarmFill : Prop :=
  ∀ (s : State) (n : LineNo) (g : GroupPos),
    let l := s.line n
    let p := l.placement
    let u := p.unit.slots
    let c := l.reader.adopt
    let fill := 320 * l.ring.held + l.framer.partialBits
    let mayslip := p.unit = .frame ∨ g = 0
    let direction := if mayslip ∧ fill < c.tLow then 1
      else if mayslip ∧ c.tHigh < fill then 2 else 0
    let r := if direction = 1 then (l.ring.readIndex + (p.capacity - u)) % p.capacity
      else if direction = 2 then (l.ring.readIndex + u) % p.capacity else l.ring.readIndex
    let held := if direction = 1 then l.ring.held + u
      else if direction = 2 then l.ring.held - u else l.ring.held
    let bank := s.spare.state.readBank p.bank
    let i := p.base + r % p.capacity
    let x := s.slot bank i
    let counters : LineCounters :=
      if direction = 1 then { l.counters with repeats := l.counters.repeats + 1 }
      else if direction = 2 then { l.counters with deletes := l.counters.deletes + 1 }
      else l.counters
    let at_ := fun (t : State) (counters : LineCounters) => t.setLine n { l with
      deadCount := 0, reader := { c with recentrePending := false }, counters := counters
      ring := { readIndex := r, held := held } }
    let told := fun (t : State) => if direction ≠ 0 ∧ c.slipEvents = true then
        t.post .slip (16 + n.val) [word direction, word p.unit.code, word fill,
          word (t.line n).ring.held, word c.tLow, word c.tHigh]
      else t
    let decision : Decision := if direction = 1 then .repeatUnit
      else if direction = 2 then .deleteUnit else .normal
    let fixed := if x.conditions = {} then 0 else 1
    l.state = .running → l.bitCount ≠ 0 →
    (l.reader.recentrePending = true → s.readerEvent n g = State.handOver n fill
      { state := (s.setLine n { l with
          deadCount := 0, reader := { c with recentrePending := false } }).refill n .recentre
        decision := .recentre }) ∧
    (l.reader.recentrePending = false → p.unit = .group → g ≠ 0 → l.ring.held = 0 →
      s.readerEvent n g = State.handOver n fill
        { state := (s.setLine n { l with
            deadCount := 0, reader := { c with recentrePending := false }
            counters := { l.counters with underruns := l.counters.underruns + 1 } }).refill n .underrun
          decision := .underrun, underruns := 1 }) ∧
    (l.reader.recentrePending = false → mayslip ∨ l.ring.held ≠ 0 →
      (p.unit = .group → .uncorrectable ∉ x.conditions.toList → x.filler = false → x.position ≠ g →
        s.readerEvent n g = State.handOver n fill
          { state := told ((at_
              (if fixed = 1 then
                s.setBank bank { s.bank bank with corrected := (s.bank bank).corrected + 1 } else s)
              { counters with
                misalign := counters.misalign + 1
                storeCorrected := if fixed = 1 then counters.storeCorrected + 1
                  else counters.storeCorrected }).refill n .tagMismatch)
            decision := .tagMismatch, corrected := fixed
            repeats := if direction = 1 then 1 else 0
            deletes := if direction = 2 then 1 else 0 }) ∧
      (.uncorrectable ∈ x.conditions.toList →
        s.readerEvent n g = State.handOver n fill
          { state := told ((((at_
              (s.setBank bank { s.bank bank with uncorrected := (s.bank bank).uncorrected + 1 })
              { counters with storeUncorrected := counters.storeUncorrected + 1 }).post
              .storeUncorrectable (16 + n.val)
                [word bank.val, word i, word r, word x.uncorrectableSet, word decision.code]).autoSwap
              bank).advanceRing n 1)
            decision := decision, fill := some fill, uncorrected := 1
            repeats := if direction = 1 then 1 else 0
            deletes := if direction = 2 then 1 else 0 }))

/-- The reader event of a FILLING line that received bits and has no RECENTRE pending (R44, R46, R47,
R48, R52, R53, R54, R55). Below its centre, in group mode after the trim k that brings the oldest held
frame to the office group position, or with nothing held there, it sends alarm fill; an uncorrectable
tag word at the trim is a tag mismatch. At its centre it discards k frames and reads: the line starts
and sends the frame, or alarm fill for a FILLER or an uncorrectable slot; a tag that does not match g
keeps it in FILLING with a store reset. -/
def Obligations.FillingLineStartsAtItsCentre : Prop :=
  ∀ (s : State) (n : LineNo) (g : GroupPos),
    let l := s.line n
    let p := l.placement
    let c := { l.reader.adopt with recentrePending := false }
    let fill := 320 * l.ring.held + l.framer.partialBits
    let centre := (c.tLow + c.tHigh) / 2
    let bank := s.spare.state.readBank p.bank
    let first := s.slot bank (p.base + l.ring.readIndex % p.capacity)
    let group := p.unit = .group
    let k := if group then (g - first.position).val else 0
    let r := if group then (l.ring.readIndex + k) % p.capacity else l.ring.readIndex
    let i := p.base + r % p.capacity
    let x := s.slot bank i
    let fixed := if x.conditions = {} then 0 else 1
    let at_ := fun (t : State) (m : Line) => t.setLine n { m with deadCount := 0, reader := c }
    let waits : State := State.handOver n fill { state := at_ s l, decision := .fill }
    let lost := first.conditions.w0 = .uncorrectable
    let started : Line := { l with
      state := .running, lastCause := .started
      ring := { readIndex := (r + 1) % p.capacity, held := l.ring.held - k - 1 } }
    let corrected := if fixed = 1 then
        s.setBank bank { s.bank bank with corrected := (s.bank bank).corrected + 1 } else s
    let counters : LineCounters := { l.counters with
      storeCorrected := if fixed = 1 then l.counters.storeCorrected + 1
        else l.counters.storeCorrected }
    l.state = .filling → l.bitCount ≠ 0 → l.reader.recentrePending = false →
    (group → l.ring.held = 0 → s.readerEvent n g = waits) ∧
    (group → l.ring.held ≠ 0 → lost → s.readerEvent n g = State.handOver n fill
      { state := (at_ s { l with
          counters := { l.counters with misalign := l.counters.misalign + 1 } }).refill n .tagMismatch
        decision := .tagMismatch }) ∧
    ((group → l.ring.held ≠ 0 ∧ ¬lost) → fill < centre + 320 * k → s.readerEvent n g = waits) ∧
    ((group → l.ring.held ≠ 0 ∧ ¬lost) → centre + 320 * k ≤ fill →
      (.uncorrectable ∉ x.conditions.toList → (group → x.filler = true ∨ x.position = g) →
        s.readerEvent n g = State.handOver n fill
          { state := (at_ corrected { started with counters := counters }).post .lineState
              (16 + n.val) [2, 3, 5]
            octets := if x.filler then List.replicate 39 0xFF else x.payload
            decision := .start, substituted := x.filler, fill := some (fill - 320 * k)
            corrected := fixed }) ∧
      (.uncorrectable ∉ x.conditions.toList → group → x.filler = false → x.position ≠ g →
        s.readerEvent n g = State.handOver n fill
          { state := (at_ corrected { l with
              counters := { counters with misalign := counters.misalign + 1 } }).refill n .tagMismatch
            decision := .tagMismatch, corrected := fixed }) ∧
      (.uncorrectable ∈ x.conditions.toList →
        s.readerEvent n g = State.handOver n fill
          { state := (((at_
              (s.setBank bank { s.bank bank with uncorrected := (s.bank bank).uncorrected + 1 })
              { started with counters := { l.counters with
                storeUncorrected := l.counters.storeUncorrected + 1 } }).post .lineState (16 + n.val)
                  [2, 3, 5]).post .storeUncorrectable (16 + n.val)
                    [word bank.val, word i, word r, word x.uncorrectableSet, 2]).autoSwap bank
            decision := .start, fill := some (fill - 320 * k), uncorrected := 1 }))

/-- The reader event of a line that is OUT, DEAD or HUNTING, and what every line's event does first
(R10, R11, R43, R45, R58): an OUT line sends its idle code, a DEAD one that has had no bits stays DEAD
and one that has had bits passes to HUNTING, a HUNTING line sends alarm fill, and in each a pending
RECENTRE is dropped. A frame of no bits counts toward DEAD, and the eighth makes the line DEAD; below it
a FILLING or RUNNING line is served as one that received bits, with the dead count kept. A RECENTRE
pending on a FILLING line is taken with a store reset. A framer returned to HUNT has the expected
position 0 by the model's choice (assumption 26). -/
def Obligations.ReaderOfALineNotRunning : Prop :=
  ∀ (s : State) (n : LineNo) (g : GroupPos),
    let l := s.line n
    let c := { l.reader.adopt with recentrePending := false }
    let fill := 320 * l.ring.held + l.framer.partialBits
    let adopted := fun m : Line => s.setLine n { m with reader := c }
    (l.state = .out → s.readerEvent n g = State.handOver n fill
      { state := adopted l, octets := List.replicate 39 l.idleCode, decision := .idle
        substituted := false }) ∧
    (l.state = .dead → l.bitCount = 0 → s.readerEvent n g = State.handOver n fill
      { state := adopted l, decision := .fill }) ∧
    (l.state = .dead → l.bitCount ≠ 0 → s.readerEvent n g = State.handOver n (320 * l.ring.held)
      { state := (adopted { l with
          state := .hunting, lastCause := .alive, deadCount := 0
          framer := { state := .hunt, held := false } }).post .lineState (16 + n.val) [4, 1, 11]
        decision := .fill }) ∧
    (l.state = .hunting → l.bitCount ≠ 0 → s.readerEvent n g = State.handOver n fill
      { state := adopted { l with deadCount := 0 }, decision := .fill }) ∧
    (l.state = .hunting → l.bitCount = 0 → l.deadCount < 7 → s.readerEvent n g =
      State.handOver n fill
        { state := adopted { l with deadCount := l.deadCount + 1 }, decision := .fill }) ∧
    (l.state = .hunting ∨ l.state = .filling ∨ l.state = .running → l.bitCount = 0 →
      7 ≤ l.deadCount → s.phase ≠ .inReset → ∃ u, exec (.dead n) s = .next u ∧
      s.readerEvent n g = State.handOver n 0
        { state := u.setLine n { u.line n with reader := c }, decision := .fill }) ∧
    (l.state = .filling ∨ l.state = .running → l.bitCount = 0 → l.deadCount < 7 →
      let t := (s.setLine n { l with bitCount := 1 }).readerEvent n g
      s.readerEvent n g = t.setLine n { t.line n with deadCount := l.deadCount + 1 }) ∧
    (l.state = .filling → l.bitCount ≠ 0 → l.reader.recentrePending = true →
      s.readerEvent n g = State.handOver n fill
        { state := (adopted { l with deadCount := 0 }).refill n .recentre, decision := .recentre })

/-! ## The patrol -/

/-- A word of the request half read for a snapshot (R147, R153, R158): one with one bit in error is used
corrected, and the stored word is left for the scrub; an uncorrectable one has no value and is offered
to the bad-word list, which reports CONTROL_ECC where it joins. The judgement of a snapshot and what it
does before the report (R158, R160): REQSER uncorrectable in either reading is POISONED with DETAIL 0
and APPSER kept; two different readings are torn; APPSER's serial is old; a new one with an
uncorrectable field is POISONED at that field; and only a snapshot read whole is taken as a request. The
scrub of one word (R147, R152, R153): a word with one bit in error is rewritten corrected and counted;
an uncorrectable host-owned word is offered to the bad-word list, where it joins with CONTROL_ECC, or is
held already, or finds the list full; an uncorrectable unassigned word is written 0, and a device-owned
one is left for its owner. -/
def Obligations.SnapshotsAreJudgedAndWordsScrubbed : Prop :=
  (∀ (s : State) (r : Record) (first last : Option Word) (fields : List (Option Word)),
    let h := s.head r
    let done := s.actOn r (judgeSnapshot h.appser first fields last)
    let poisoned := fun (appser : Word) (detail : Nat) => s.setHead r { h with
      appser := appser, result := .poisoned, reason := .none, detail := word detail }
    (first = none ∨ last = none → done = poisoned h.appser 0) ∧
    ∀ a b : Word, first = some a → last = some b →
      (a ≠ b → done = s) ∧
      (a = b → a = h.appser → done = s) ∧
      (a = b → a ≠ h.appser → ∀ k, k < fields.length → fields[k]? = some none →
        (∀ j, j < k → fields[j]? ≠ some none) → done = poisoned a (k + 1)) ∧
      ∀ words : List Word, a = b → a ≠ h.appser → fields = words.map some →
        done = s.takeRequest r (a :: words)) ∧
  (∀ (s : State) (r : Record) (i : Nat),
    let a := r.base + i
    let m := s.memWord a
    let l := s.badWords.offsets
    (m.errors = [] → s.readRequest r i = (s, some m.raw)) ∧
    (∀ b, m.errors = [b] →
      s.readRequest r i = (s, some (if b < 16 then m.raw ^^^ (1 <<< b) else m.raw))) ∧
    (∀ b c e, m.errors = b :: c :: e →
      (2 * a ∈ l → s.readRequest r i = (s, none)) ∧
      (2 * a ∉ l → l.length < 16 → s.readRequest r i =
        (({ s with badWords := { s.badWords with offsets := l ++ [2 * a] } } : State).post
          .controlEcc 0 [word (2 * a), word (l.length + 1)], none)) ∧
      (2 * a ∉ l → 16 ≤ l.length → s.readRequest r i =
        ({ s with badWords := { s.badWords with
          overflow := min 65535 (s.badWords.overflow + 1) } }, none)))) ∧
  ∀ (s : State) (a : Nat),
    let m := s.memWord a
    let l := s.badWords.offsets
    (m.condition = .clean → s.scrubWord a = s) ∧
    (∀ b, m.condition = .single b → ∃ t, s.scrubWord a = t ∧
      t = { s with
        memory := t.memory, scrub := { s.scrub with corrected := s.scrub.corrected + 1 } } ∧
      t.memWord a = { raw := if b < 16 then m.raw ^^^ (1 <<< b) else m.raw } ∧
      ∀ c, c ≠ a → t.memWord c = s.memWord c) ∧
    (m.condition = .uncorrectable →
      (ownerOf a = .unassigned → s.scrubWord a = s.memWrite a 0) ∧
      (ownerOf a = .device → s.scrubWord a = s) ∧
      (ownerOf a = .host → 2 * a ∈ l → s.scrubWord a = s) ∧
      (ownerOf a = .host → 2 * a ∉ l → l.length < 16 → s.scrubWord a =
        ({ s with badWords := { s.badWords with offsets := l ++ [2 * a] } } : State).post
          .controlEcc 0 [word (2 * a), word (l.length + 1)]) ∧
      (ownerOf a = .host → 2 * a ∉ l → 16 ≤ l.length → s.scrubWord a =
        { s with badWords := { s.badWords with
          overflow := min 65535 (s.badWords.overflow + 1) } }))

/-- PATROL_STEP with no step in progress and no host cycle between its grants, on a control memory
without errors (R148, R151, R152, R156, R158, R161): the head of the prompt queue or the record of the
round-robin pointer is served, and the interval begins again; a REQSER that differs from APPSER takes
the record's request, whose command is the record's row; the report half is written under UPDCNT from
the state the request left; eight words are scrubbed. The journal writer is granted before the patrol: a
post in progress, one that the request made among them, ends before the patrol's next grant. -/
def Obligations.PatrolStepServesARecord : Prop :=
  (∀ (s u : State) (r : Record), s.phase = .ready → s.patrol.step = none → s.journal.current = none →
    (∀ a, (s.memWord a).condition = .clean) →
    let chosen : State := { s with patrol := match s.patrol.prompts with
      | [] => { s.patrol with pointer := s.patrol.pointer.next, timer := 0, due := false }
      | _ :: rest => { s.patrol with prompts := rest, timer := 0, due := false } }
    let words := (List.range 16).map fun i => (s.memWord (r.base + i)).raw
    let request : Instr := match r with
      | .directory => .directoryRequest (directoryRequestOf words)
      | .timing => .timingRequest (timingRequestOf words)
      | .store => .storeRequest (storeRequestOf words)
      | .monitor m => .monitorRequest m (monitorRequestOf words)
      | .line n => .lineRequest n (lineRequestOf words)
    r = (match s.patrol.prompts with
      | [] => s.patrol.pointer
      | x :: _ => x) →
    (if (s.memWord r.base).raw = (s.head r).appser then u = chosen
      else exec request chosen = .next u) →
    let v := u.drainPosts
    (∀ a, (v.memWord a).condition = .clean) → s.scrub.pointer < 8192 →
    ∃ t, exec (.patrolStep []) s = .next t ∧
      t = { v with
        memory := t.memory, reportHeads := t.reportHeads
        scrub := { u.scrub with
          pointer := (u.scrub.pointer + 8) % 8192
          passes := if u.scrub.pointer + 8 = 8192 then u.scrub.passes + 1 else u.scrub.passes } } ∧
      t.head r = { u.head r with updcnt := (u.head r).updcnt + 2 } ∧
      (∀ q, q ≠ r → t.head q = u.head q) ∧
      t.memWord (r.base + 16) = { raw := (u.head r).updcnt + 2 } ∧
      t.memWord (r.base + 17) = { raw := (u.head r).appser } ∧
      t.memWord (r.base + 18) = { raw := (u.head r).actser } ∧
      t.memWord (r.base + 19) =
        { raw := word (256 * (u.head r).result.code + (u.head r).reason.code) } ∧
      t.memWord (r.base + 20) = { raw := (u.head r).detail } ∧
      (∀ i w, (i, w) ∈ u.reportBody r → t.memWord (r.base + i) = { raw := w }) ∧
      ∀ a, (∀ i, reportListed r i = true → a ≠ r.base + i) → t.memWord a = v.memWord a) ∧
  ∀ s : State,
    (s.journal.current = none → s.drainPosts = s) ∧
    (s.journal.current ≠ none → s.drainPosts = s.goOn.drainPosts ∧
      s.drainPosts.journal.current = none) ∧
    (s.phase = .ready → s.patrol.step = none →
      exec (.patrolStep []) s = exec (.patrolStep []) s.drainPosts ∧
      ∀ (a : BitVec 13) (v : State), s.journal.current ≠ none →
        exec (.hostMemoryRead false a) s = .next v →
        exec (.patrolStep [(0, .read a)]) s = exec (.patrolStep []) v.goOn)

/-- A patrol step may wait for its grants, and the next may fall due behind it (R148, R155, R156). A
step that waits before any grant and goes on later, with nothing between, ends as the one that does not
wait. One that waits before its first grant has taken the record and read nothing. A step that falls
due, or PATROL_STEP, while one is in progress begins as soon as that ends, and the interval begins again
with it; with none in progress and none due the patrol does nothing. An engine restart completes the
step in progress and drops the one that is due: on a control memory without errors, with no request left
to judge, it is the engine restart of the state that the completed step leaves. Where a step waits is
the model's choice (assumption 9), and so is that PATROL_STEP begins the interval again (assumption 8).
-/
def Obligations.PatrolStepWaitsAndGoesOn : Prop :=
  (∀ (s : State) (k : Nat), s.phase = .ready →
    (s.patrolTurn [(k, .wait)]).patrolTurn [] = s.patrolTurn []) ∧
  (∀ (s : State) (r : Record), s.phase = .ready → s.patrol.step = none →
    r = (match s.patrol.prompts with
      | [] => s.patrol.pointer
      | x :: _ => x) →
    exec (.patrolStep [(0, .wait)]) s = .next { s with patrol :=
      { pointer := if s.patrol.prompts = [] then s.patrol.pointer.next else s.patrol.pointer
        prompts := s.patrol.prompts.tail, timer := 0, due := false
        step := some { record := r, work := .reading (0 :: requestFields r ++ [0]) [] } } }) ∧
  (∀ s : State, s.phase = .ready →
    (s.patrol.step = none → s.patrol.due = false → s.patrolTurn [] = s) ∧
    (s.patrol.step ≠ none → exec (.patrolStep []) s = exec (.patrolStep [])
      (({ s with patrol := { s.patrol with due := false } } : State).patrolTurn [])) ∧
    (s.patrol.step ≠ none → s.patrol.due = true → exec (.patrolStep []) s = .next (s.patrolTurn []))) ∧
  ∀ (s : State) (x : StepInProgress), s.phase = .ready → s.journal.current = none →
    (∀ a, (s.memWord a).errors = []) → s.patrol.step = some x →
    (∀ todo read, x.work ≠ .reading todo read) →
    exec .engineRestart s = exec .engineRestart
      (({ s with patrol := { s.patrol with due := false } } : State).patrolTurn [])

/-- Host cycles between the grants of a patrol step (R148, R151, R155, R158), on a control memory
without errors, with no post and no step in progress, where the record served holds no new request.
UPDCNT read among the report writes is odd and one more than before, and before them and after them even
as it stands; the step is otherwise as with no host cycle. A new REQSER written after its first reading
makes the snapshot torn: neither the request nor the report is touched, and the scrub follows. A restart
asked for at any grant lets the step complete with its report and scrub, and is then the engine restart
of the state the step leaves; with READY at 0 there is no step, and a host cycle is served alone, as in
a local cycle in which the patrol has no work. That the cycles which fall between grants come with the
step's command is the model's choice (assumption 9). -/
def Obligations.HostCyclesFallBetweenGrants : Prop :=
  let served := fun (c : HostCycle) (s : State) => match c with
    | .read a => exec (.hostMemoryRead false a) s
    | .write a x => exec (.hostMemoryWrite a x) s
    | .registerRead reg => exec (.hostMemoryRead true (BitVec.ofNat 13 reg.val)) s
    | .registerWrite reg x => exec (.registerWriteOther reg x) s
    | .wait => .next s
  (∀ (s u : State) (r : Record) (k : Nat), s.phase = .ready → s.patrol.step = none →
    s.journal.current = none → (∀ a, (s.memWord a).errors = []) → s.scrub.pointer < 8192 →
    r = (match s.patrol.prompts with
      | [] => s.patrol.pointer
      | x :: _ => x) →
    (s.memWord r.base).raw = (s.head r).appser → (s.memWord (r.base + 16)).raw = (s.head r).updcnt →
    exec (.patrolStep []) s = .next u →
    let reads := 2 + (requestFields r).length
    let writes := 6 + (s.reportBody r).length
    let seen := if k ≤ reads then (s.head r).updcnt
      else if k < reads + writes then (s.head r).updcnt + 1 else (s.head r).updcnt + 2
    exec (.patrolStep [(k, .read (BitVec.ofNat 13 (r.base + 16)))]) s =
      .next { u with port := .readDone seen false } ∧
    (∀ x : Word, 0 < k → k < reads → x ≠ (s.head r).appser → ∃ t,
      exec (.patrolStep [(k, .write (BitVec.ofNat 13 r.base) x)]) s = .next t ∧
      t = { u with
        memory := t.memory, reportHeads := s.reportHeads, port := .writeDone false
        badWords := { u.badWords with
          offsets := u.badWords.offsets.filter fun y => y ≠ 2 * r.base } } ∧
      t.memWord r.base = { raw := x } ∧ ∀ a, a ≠ r.base → t.memWord a = s.memWord a) ∧
    ∀ x : Word, x.getLsbD 0 = true →
      exec (.patrolStep [(k, .registerWrite 2 x)]) s = exec .engineRestart u) ∧
  (∀ (s : State) (k : Nat) (c : HostCycle), s.phase ≠ .ready →
    exec (.patrolStep [(k, c)]) s = served c s) ∧
  (∀ (s u : State) (holdreq : Bool) (k : Nat) (c : HostCycle), s.phase ≠ .inReset →
    s.patrol.step = none → s.patrol.due = false → s.patrol.timer + 1 < 2560 →
    exec (.localOscillatorCycle holdreq []) s = .next u →
    exec (.localOscillatorCycle holdreq [.host k c]) s = served c u) ∧
  ∀ (s : State) (x : Word), x.getLsbD 0 = true →
    exec (.registerWriteOther 2 x) s = exec .engineRestart s

/-- The report half of every record after the common head (R18, R36, R64, R83, R105, R130, R141, R162,
section 9.8): each word by its offset, from the state of the owning blocks, and the codes of states,
causes and settings. A negative q, x, history value or hv stands as 16-bit two's complement, which is
the model's choice (assumption 27). -/
def Obligations.ReportHalvesShowTheState : Prop :=
  let from21 := fun l : List Word => l.mapIdx fun i w => (21 + i, w)
  let long := fun x : Long => [highHalf x, lowHalf x]
  (∀ (s : State) (n : LineNo),
    let l := s.line n
    let p := l.placement
    let x := l.reader
    let w := l.window
    let c := l.counters
    let o := w.record
    let heldMax := p.capacity - p.unit.slots
    s.reportBody (.line n) = from21 (
      [ word (8192 * l.state.code + 2048 * l.framer.state.code + 128 * l.deadCount
          + 8 * l.lastCause.code + 4 * bit x.recentrePending + 2 * bit x.lastSubstituted
          + bit (l.state != .out)),
        word (256 * l.idleCode.toNat + 32 * p.bank.val + 16 * p.unit.code + x.lastDecision.code),
        word (4096 * l.confirmCount + 256 * l.lossCount + 128 * bit x.slipEvents
          + 64 * bit w.counting + 32 * bit w.startPending
          + 16 * (match w.mode with | .continuous => 0 | .single => 1)
          + 4 * (match w.staged with | none => 0 | some (_, .continuous) => 1 | some (_, .single) => 2)
          + 2 * bit w.reportWindows),
        word (256 * p.base + p.capacity),
        word (1024 * l.ring.readIndex + 32 * l.ring.held + heldMax),
        word (320 * heldMax), word x.tLow, word x.tHigh, word ((x.tLow + x.tHigh) / 2),
        word x.lastFill, word w.counter, word w.length,
        word (match w.staged with | none => 0 | some (k, _) => k),
        word (32768 * bit o.flags.incomplete + 16384 * bit o.flags.noFill
          + 8192 * bit o.flags.refNotLocked + 4096 * bit o.flags.saturated + w.horizonLimit),
        o.index, word o.length ]
      ++ long (BitVec.ofNat 32 o.bits)
      ++ [ BitVec.ofInt 16 o.offset, word o.minFill, word o.maxFill, word o.repeats, word o.deletes ]
      ++ long o.horizon ++ long c.repeats ++ long c.deletes ++ long c.alignErrors ++ long c.overruns
      ++ long c.underruns ++ long c.misalign ++ long c.substituted ++ long c.storeCorrected
      ++ long c.storeUncorrected)) ∧
  (∀ s : State,
    let t := s.timing
    let c := t.settings
    let bus := fun m : BusMonitor =>
      [ word (16384 * m.state.code + 8192 * bit m.windowPassed + m.badCount), word m.goodCount,
        BitVec.ofInt 16 m.lastX ]
    s.reportBody .timing = from21 (
      [ (match c.preferred with | .a => 0 | .b => 1), word (bit c.revertive), word c.force.code,
        word c.revertDelay, word c.badFrameLimit, word c.goodFrameCount, word c.freqLimit,
        word t.selector.code ]
      ++ long t.switchCount ++ bus t.busA ++ bus t.busB
      ++ [ word t.revertCount, word t.buildOut, word t.phase,
        word (bit t.realignPending + 2 * bit t.holdLatch + 4 * bit s.holdreq
          + 256 * t.history.length) ]
      ++ (List.range 4).map (fun i => BitVec.ofInt 16 (t.history.getD i 0))
      ++ [BitVec.ofInt 16 t.hv] ++ long t.ncoStep
      ++ [ t.frameCounter.extractLsb' 32 16, t.frameCounter.extractLsb' 16 16,
        t.frameCounter.extractLsb' 0 16 ])) ∧
  (∀ s : State, s.reportBody .store = from21 (
    [ word (16384 * s.spare.state.code + 256 * s.spare.lastCause.code
        + (match s.spare.state with
          | .standby => 0
          | .mirror k | .spared k | .restore k => k.val)),
      word s.spare.autoLimit,
      word ((List.finRange 64).filter fun n => (s.cover n).mark = .pending).length ]
    ++ ((List.finRange 9).map fun b =>
      long (s.bank b).corrected ++ long (s.bank b).uncorrected).flatten
    ++ (List.finRange 64).map fun n => word (16384 * (s.cover n).mark.code + (s.cover n).count))) ∧
  (∀ (s : State) (i : MonitorNo),
    let m := s.monitor i
    let c := m.settings
    s.reportBody (.monitor i) = from21 (
      [ word (32768 * bit c.enabled + 16384 * bit c.less + 8192 * bit c.edge
          + 2048 * c.overflowAction.code + 1024 * bit m.armed + 512 * bit m.edgeHistory
          + 256 * bit m.overflow + 128 * bit s.monitorUnit.freeze + c.event.code),
        word (match c.line with | some n => n.val | none => 255), word c.level, word c.threshold ]
      ++ long c.preset ++ long m.count)) ∧
  (∀ s : State,
    let slots := fun x : SlotState =>
      word ((List.finRange 128).filter fun i => (s.journalSlot i).state = x).length
    s.reportBody .directory = from21 (
      [ s.journal.kindMask.setWidth 16, word (bit s.monitorUnit.freeze), word s.violations.count,
        s.violations.address ]
      ++ long s.scrub.passes ++ long s.scrub.corrected
      ++ [word s.badWords.offsets.length, word s.badWords.overflow]
      ++ (List.range 16).map (fun i => word (s.badWords.offsets.getD i 0))
      ++ long s.journal.nextSerial
      ++ [slots .held, slots .bad, word (bit s.journal.halted)]
      ++ (List.finRange 15).map fun k => word s.journal.unposted[k])
      ++ [(120, 0x2480), (121, 0x0001), (122, 64), (123, 128)]) ∧
  [LineState.out, .hunting, .filling, .running, .dead].map LineState.code = [0, 1, 2, 3, 4] ∧
  [FramerState.hunt, .confirm, .locked].map FramerState.code = [0, 1, 2] ∧
  [LineCause.none, .serviceIn, .serviceOut, .locked, .lost, .started, .underrun, .tagMismatch, .recentre,
    .structural, .dead, .alive, .restartLine].map LineCause.code = List.range 13 ∧
  [SlipUnit.frame, .group].map SlipUnit.code = [0, 1] ∧
  [Decision.idle, .fill, .start, .normal, .repeatUnit, .deleteUnit, .underrun, .tagMismatch,
    .recentre].map Decision.code = List.range 9 ∧
  [Force.none, .bus .a, .bus .b, .holdover].map Force.code = [0, 1, 2, 3] ∧
  [SelectorState.free, .on .a, .on .b, .holdover].map SelectorState.code = [0, 1, 2, 3] ∧
  [MonitorState.unqualified, .good, .failed].map MonitorState.code = [0, 1, 2] ∧
  (∀ k : Fin 8, [SpareState.standby, .mirror k, .spared k, .restore k].map SpareState.code =
    [0, 1, 2, 3]) ∧
  [SpareCause.none, .swap, .auto, .complete, .returned, .cancel, .restart].map SpareCause.code =
    List.range 7 ∧
  [Mark.notConcerned, .pending, .covered].map Mark.code = [0, 1, 2] ∧
  [OverflowAction.none, .journal, .freezeAll, .journalFreeze].map OverflowAction.code = [0, 1, 2, 3] ∧
  [MonitorEvent.officeFrames, .repeats, .deletes, .alignErrors, .overruns, .underruns, .substituted,
    .storeCorrected, .storeUncorrected, .linesNotRunning, .fillAtOrAbove,
    .fillBelow].map MonitorEvent.code = List.range 12

/-! ## Line requests -/

/-- The clamped fields of a line request that passes the placement checks (R9, R41, R42, R67): N_c and
N_l into 1..15, the thresholds automatic or moved into their ranges against the new placement, W into
800..64000 and L into 0..3600; the mask names exactly the words moved. The other fields are in force as
written (R17, R24, R41, R67): the placement's bank, base, capacity and slip unit, the idle code from the
low octet of ACTIONS, SLIP_EVENTS, the window mode and REPORT_WINDOWS. LINE_REQUEST (R26, R27, R159):
the checks in their order, the first that fails refusing the whole request, which then applies nothing,
is answered REFUSED and reported; otherwise the request is applied and answered, ACTSER following
APPSER. -/
def Obligations.LineRequestIsCheckedClampedAndAnswered : Prop :=
  (∀ q : LineRequest, q.badField = none → q.capacityLegal = true →
    let v := q.settings
    let u := if q.slipUnit = 1 then 4 else 1
    let k := 320 * (q.capacity.toNat - u)
    v.confirmCount = max 1 (min 15 q.confirmCount.toNat) ∧
    v.lossCount = max 1 (min 15 q.lossCount.toNat) ∧
    v.thresholds.tLow = (if q.tLow = 0 then 320
      else max 320 (min (k - 160 - 320 * u) q.tLow.toNat)) ∧
    v.thresholds.tHigh = (if q.tHigh = 0 then k - 160
      else max (v.thresholds.tLow + 320 * u) (min (k - 160) q.tHigh.toNat)) ∧
    320 ≤ v.thresholds.tLow ∧ v.thresholds.tLow + 320 * u ≤ v.thresholds.tHigh ∧
    v.thresholds.tHigh ≤ k - 160 ∧
    v.windowLength = max 800 (min 64000 q.windowLength.toNat) ∧
    v.horizonLimit = min 3600 q.horizonLimit.toNat ∧
    v.idleCode = q.actions.extractLsb' 0 8 ∧
    v.thresholds.slipEvents = decide (q.slipEvents = 1) ∧
    v.windowMode = (if q.windowMode = 1 then .single else .continuous) ∧
    v.reportWindows = decide (q.reportWindows = 1) ∧
    (q.bank.toNat ≤ 7 → v.placement.bank.val = q.bank.toNat) ∧
    v.placement.base = q.base.toNat ∧ v.placement.capacity = q.capacity.toNat ∧
    v.placement.unit = (if q.slipUnit = 1 then .group else .frame) ∧
    ∀ i, q.moved.getLsbD i = true ↔
      i = 2 ∧ v.confirmCount ≠ q.confirmCount.toNat ∨ i = 3 ∧ v.lossCount ≠ q.lossCount.toNat ∨
      i = 9 ∧ q.tLow ≠ 0 ∧ v.thresholds.tLow ≠ q.tLow.toNat ∨
      i = 10 ∧ q.tHigh ≠ 0 ∧ v.thresholds.tHigh ≠ q.tHigh.toNat ∨
      i = 12 ∧ v.windowLength ≠ q.windowLength.toNat ∨
      i = 15 ∧ v.horizonLimit ≠ q.horizonLimit.toNat) ∧
  ∀ (n : LineNo) (q : LineRequest) (s : State), s.phase = .ready →
    let h := s.head (.line n)
    let refused := fun (r : Reason) (detail : Word) =>
      (s.post .requestRefused (16 + n.val) [q.serial, word r.code, detail]).setHead (.line n)
        { h with appser := q.serial, result := .refused, reason := r, detail := detail }
    let shared := (List.finRange 64).find? fun m => m ≠ n ∧ (s.line m).state ≠ .out ∧
      (s.line m).placement.bank.val = q.bank.toNat ∧
      q.base.toNat < (s.line m).placement.base + (s.line m).placement.capacity ∧
      (s.line m).placement.base < q.base.toNat + q.capacity.toNat
    let done := s.applyLine n q
    let accepted := done.setHead (.line n) { done.head (.line n) with
      appser := q.serial, actser := q.serial
      result := if q.moved = 0 then .accepted else .acceptedClamped
      reason := .none, detail := q.moved }
    exec (.lineRequest n q) s = .next (
      if 1 < q.service.toNat then refused .badField 1
      else if 1 < q.slipUnit.toNat then refused .badField 8
      else if 1 < q.slipEvents.toNat then refused .badField 11
      else if 1 < q.windowMode.toNat then refused .badField 13
      else if 1 < q.reportWindows.toNat then refused .badField 14
      else if 7 < q.bank.toNat then refused .badBank 0
      else if q.capacity.toNat < (if q.slipUnit = 1 then 12 else 4) ∨ 32 < q.capacity.toNat then
        refused .badCapacity 0
      else if 256 < q.base.toNat + q.capacity.toNat then refused .outOfBank 0
      else if q.service = 0 ∧ (q.actions.getLsbD 8 = true ∨ q.actions.getLsbD 9 = true ∨
          q.actions.getLsbD 10 = true) then refused .conflict 4
      else if q.service = 1 then
        match shared with
        | some m => refused .overlap (word m.val)
        | none => accepted
      else accepted)

/-- An accepted line request is applied in the order of R12: OUT or RESTART_LINE on a line in service,
the settings, IN on an OUT line, then RECENTRE, ARM_WINDOW and CLEAR_COUNTS; each part is what the
command of its own does. -/
def Obligations.LineRequestPartsAreAppliedInOrder : Prop :=
  ∀ (n : LineNo) (q : LineRequest) (s s1 s3 s4 s5 s6 : State), s.phase = .ready →
    (if q.service = 0 then exec (.serviceOut n) s = .next s1
      else if q.actions.getLsbD 9 = true then exec (.restartLine n) s = .next s1 else s1 = s) →
    let s2 := s1.applyLineSettings n q.settings
    (q.service = 1 → s2.overlapping n (s2.line n).placement = none) →
    (if q.service = 1 then exec (.serviceIn n) s2 = .next s3 else s3 = s2) →
    (if q.actions.getLsbD 8 = true then exec (.recentre n) s3 = .next s4 else s4 = s3) →
    (q.actions.getLsbD 10 = true → (s4.line n).state ≠ .out) →
    (if q.actions.getLsbD 10 = true then exec (.armWindow n) s4 = .next s5 else s5 = s4) →
    (if q.actions.getLsbD 11 = true then exec (.clearCounts n) s5 = .next s6 else s6 = s5) →
    s.applyLine n q = s6

/-- The settings of an accepted line request (R14, R28, R43, R67, R68, R69, R121): N_c, N_l and the idle
code in force, thresholds and SLIP_EVENTS staged, the window settings in force or staged, and where the
placement changes, a window start caused on a line in service, the coverage mark moved, and a store
reset of a FILLING or RUNNING line. That the coverage count is kept where a line moves out of the bank
or becomes COVERED is the model's choice (assumption 21). -/
def Obligations.LineSettingsComeIntoForce : Prop :=
  ∀ (s : State) (n : LineNo) (v : LineSettings),
    let l := s.line n
    let w := l.window
    let unstaged : Window := match w.staged with
      | some x => { w with length := x.1, mode := x.2, staged := none }
      | none => w
    let started : Window := if w.counting then
        { unstaged with counting := false, counter := 0, accumulation := {}, startPending := true }
      else { w with startPending := true }
    let set : Line := { l with
      confirmCount := v.confirmCount, lossCount := v.lossCount, idleCode := v.idleCode
      reader := { l.reader with staged := some v.thresholds } }
    let placed := s.setLine n { set with
      placement := v.placement, window := if l.state = .out then w else started }
    let c := s.cover n
    let moved := fun k : Fin 8 =>
      if v.placement.bank ≠ k then { c with mark := .notConcerned }
      else match c.mark with
        | .notConcerned => if l.state = .hunting then { mark := .pending, count := 0 }
          else { c with mark := .covered }
        | .pending => if l.state = .hunting then { mark := .pending, count := 0 } else c
        | .covered => c
    let covered := match s.spare.state with
      | .standby | .spared _ => placed
      | .mirror k | .restore k => placed.setCover n (moved k)
    let changed := (if l.state = .filling ∨ l.state = .running then covered.refill n .structural
      else covered).settleSpare
    let put := fun (t : State) => t.setLine n { t.line n with window :=
      if (t.line n).window.counting then { (t.line n).window with
        reportWindows := v.reportWindows, horizonLimit := v.horizonLimit
        staged := some (v.windowLength, v.windowMode) }
      else { (t.line n).window with
        reportWindows := v.reportWindows, horizonLimit := v.horizonLimit
        length := v.windowLength, mode := v.windowMode, staged := none } }
    s.applyLineSettings n v =
      if v.placement = l.placement then put (s.setLine n set) else put changed

/-- SERVICE_IN, SERVICE_OUT and RESTART_LINE while READY is 1 (R12, R15, R27, R35, R71, R121). That
RESTART_LINE keeps the dead count of a HUNTING line (assumption 14), that a framer returned to HUNT has
the expected position 0 (assumption 26), and that a command of its own is turned away where its request
would be refused (assumption 4), are the model's choices. -/
def Obligations.ServiceAndRestartMoveTheLine : Prop :=
  ∀ (n : LineNo) (s : State), s.phase = .ready →
    let l := s.line n
    let w := l.window
    let unstaged : Window := match w.staged with
      | some x => { w with length := x.1, mode := x.2, staged := none }
      | none => w
    let abandoned : Window := if w.counting then
        { unstaged with counting := false, counter := 0, accumulation := {} } else w
    let stopped : Window := if w.counting then { abandoned with startPending := false }
      else { unstaged with startPending := false }
    let fresh : Framer := { state := .hunt, held := false }
    (l.state = .out → s.overlapping n l.placement = none → exec (.serviceIn n) s = .next
      ((s.setLine n { l with
        state := .hunting, lastCause := .serviceIn, deadCount := 0, framer := fresh
        window := { abandoned with startPending := true } }).post .lineState (16 + n.val)
          [0, 1, 1])) ∧
    (l.state ≠ .out ∨ s.overlapping n l.placement ≠ none →
      exec (.serviceIn n) s = .next s) ∧
    (l.state ≠ .out → exec (.serviceOut n) s = .next
      (((s.setLine n { l with
        state := .out, lastCause := .serviceOut, deadCount := 0
        framer := { state := .hunt, held := true }, ring := { l.ring with held := 0 }
        window := stopped }).post .lineState (16 + n.val) [word l.state.code, 0, 2]).coverLine n)) ∧
    (l.state = .out → exec (.serviceOut n) s = .next s ∧ exec (.restartLine n) s = .next s) ∧
    (l.state = .hunting →
      exec (.restartLine n) s = .next (s.setLine n { l with framer := fresh })) ∧
    (l.state = .filling ∨ l.state = .running ∨ l.state = .dead → exec (.restartLine n) s = .next
      ((s.setLine n { l with
        state := .hunting, lastCause := .restartLine, deadCount := 0, framer := fresh
        ring := { l.ring with held := 0 } }).post .lineState (16 + n.val)
          [word l.state.code, 1, 12]))

/-! ## The other requests and actions -/

/-- RECENTRE, CLEAR_COUNTS and ARM_WINDOW while READY is 1 (R58, R62, R72): RECENTRE becomes pending,
all nine counters are 0 and nothing else, and ARM_WINDOW causes a start where the next window's mode is
SINGLE and does nothing in CONTINUOUS mode; on an OUT line it is turned away. CLEAR_HISTORY,
CLEAR_HOLD_LATCH and REALIGN while READY is 1 (R96, R100, R102, R103). An action turned away where its
request would be refused is the model's choice (assumption 4). -/
def Obligations.LineAndTimingActionsWhileReady : Prop :=
  (∀ (n : LineNo) (s : State), s.phase = .ready →
    let l := s.line n
    let w := l.window
    let mode := match w.staged with
      | some x => x.2
      | none => w.mode
    let unstaged : Window := match w.staged with
      | some x => { w with length := x.1, mode := x.2, staged := none }
      | none => w
    let armed : Window := if w.counting then
        { unstaged with counting := false, counter := 0, accumulation := {}, startPending := true }
      else { w with startPending := true }
    exec (.recentre n) s = .next (s.setLine n { l with
      reader := { l.reader with recentrePending := true } }) ∧
    exec (.clearCounts n) s = .next (s.setLine n { l with counters :=
      { repeats := 0, deletes := 0, alignErrors := 0, overruns := 0, underruns := 0, misalign := 0
        substituted := 0, storeCorrected := 0, storeUncorrected := 0 } }) ∧
    (l.state ≠ .out → mode = .single →
      exec (.armWindow n) s = .next (s.setLine n { l with window := armed })) ∧
    (l.state = .out ∨ mode = .continuous → exec (.armWindow n) s = .next s)) ∧
  ∀ s : State, s.phase = .ready →
    let t := s.timing
    exec .clearHistory s = .next { s with
      timing := { t with history := [], hv := 0, ncoStep := 536870912 } } ∧
    (t.holdLatch = true → s.holdreq = false → exec .clearHoldLatch s =
      .next (({ s with timing := { t with holdLatch := false } } : State).takeSelector
        .latchCleared)) ∧
    (t.holdLatch = false ∨ s.holdreq = true → exec .clearHoldLatch s = .next s) ∧
    (∀ x, t.selector = .on x →
      exec .realign s = .next { s with timing := { t with realignPending := true } }) ∧
    (t.selector = .free ∨ t.selector = .holdover → exec .realign s = .next s)

/-- TIMING_REQUEST (R94, R96, R97, R100, R102, R104, R159): the checks in their order; an accepted
request puts its clamped settings in force, clears the history and the latch, lets the selector take its
next state once, sets REALIGN pending after that, and is answered. -/
def Obligations.TimingRequestIsCheckedAndApplied : Prop :=
  ∀ (q : TimingRequest) (s : State), s.phase = .ready →
    let t := s.timing
    let h := s.head .timing
    let refused := fun (r : Reason) (detail : Word) =>
      (s.post .requestRefused 1 [q.serial, word r.code, detail]).setHead .timing
        { h with appser := q.serial, result := .refused, reason := r, detail := detail }
    let settings : TimingSettings :=
      { preferred := if q.preferred = 0 then .a else .b
        revertive := q.revertive = 1
        force := if q.force = 0 then .none else if q.force = 1 then .bus .a
          else if q.force = 2 then .bus .b else .holdover
        revertDelay := max 1 (min 60 q.revertDelay.toNat)
        badFrameLimit := max 1 (min 15 q.badFrameLimit.toNat)
        goodFrameCount := max 8 (min 8000 q.goodFrameCount.toNat)
        freqLimit := max 10 (min 10000 q.freqLimit.toNat) }
    let history := if q.actions.getLsbD 2 = true then [] else t.history
    let u : Timing := { t with
      settings := settings
      revertCount := if settings.preferred = t.settings.preferred then t.revertCount else 0
      holdLatch := t.holdLatch && !q.actions.getLsbD 1
      history := history
      hv := if q.actions.getLsbD 2 = true then 0 else t.hv
      ncoStep := if q.actions.getLsbD 2 = true then 536870912 else t.ncoStep }
    let moved := 16 * bit (settings.revertDelay ≠ q.revertDelay.toNat)
      + 32 * bit (settings.badFrameLimit ≠ q.badFrameLimit.toNat)
      + 64 * bit (settings.goodFrameCount ≠ q.goodFrameCount.toNat)
      + 128 * bit (settings.freqLimit ≠ q.freqLimit.toNat)
    let cause : SelectorCause := if settings.force ≠ t.settings.force then .force
      else if q.actions.getLsbD 1 = true ∧ t.holdLatch = true then .latchCleared else .settings
    let taken := ({ s with timing := u } : State).takeSelector cause
    let pending : Timing := { taken.timing with
      realignPending := taken.timing.realignPending || q.actions.getLsbD 0 }
    exec (.timingRequest q) s = .next (
      if 1 < q.preferred.toNat then refused .badField 1
      else if 1 < q.revertive.toNat then refused .badField 2
      else if 3 < q.force.toNat then refused .badField 3
      else if q.actions.getLsbD 1 = true ∧ s.holdreq = true then refused .holdActive 0
      else if q.actions.getLsbD 0 = true ∧
          (u.nextSelector = .free ∨ u.nextSelector = .holdover) then refused .noBus 0
      else ({ taken with timing := pending } : State).setHead .timing { h with
        appser := q.serial, actser := q.serial
        result := if moved = 0 then .accepted else .acceptedClamped
        reason := .none, detail := word moved })

/-- CLEAR_BANK_COUNTS, SWAP, RETURN and CANCEL while READY is 1 (R22, R120, R122, R124, R125, R126,
R129): the state entered, the marks its start sets, SPARE_PHASE with its cause, and completion at once
where no line is PENDING. STORE_REQUEST (R22, R123, R124, R125, R159): the checks in their order,
SPARE_BUSY among them; an accepted request puts AUTO_LIMIT in force, clears the bank counts if it asks
to, and then takes the action, which is what the command of its own does. -/
def Obligations.SpareActionsAndStoreRequests : Prop :=
  (∀ (s : State) (k : Fin 8), s.phase = .ready →
    let x := s.spare
    let cleared : Vector Coverage 64 := Vector.replicate 64 { mark := .notConcerned, count := 0 }
    let marks : Vector Coverage 64 := Vector.ofFn fun n : LineNo =>
      { mark := if (s.line n).placement.bank ≠ k then .notConcerned
          else if (s.line n).state = .out ∨ (s.line n).state = .dead then .covered else .pending
        count := 0 }
    let outstanding := ∃ n : LineNo, (s.line n).placement.bank = k ∧
      ((s.line n).state = .hunting ∨ (s.line n).state = .filling ∨ (s.line n).state = .running)
    let entered := fun (old new : SpareState) (coverage : Vector Coverage 64) (t : State)
        (cause : SpareCause) =>
      ({ t with spare := { x with state := new, coverage := coverage, lastCause := cause } }
        : State).post .sparePhase 2 [word old.code, word new.code, word k.val, word cause.code]
    exec .clearBankCounts s = .next { s with
      bankCounts := Vector.replicate 9 { corrected := 0, uncorrected := 0 } } ∧
    (x.state = .standby →
      (outstanding → exec (.swap k) s =
        .next (entered .standby (.mirror k) marks s .swap)) ∧
      (¬outstanding → exec (.swap k) s = .next
        (entered (.mirror k) (.spared k) cleared (entered .standby (.mirror k) marks s .swap)
          .complete))) ∧
    (x.state = .spared k →
      (outstanding → exec .returnBank s =
        .next (entered (.spared k) (.restore k) marks s .returned)) ∧
      (¬outstanding → exec .returnBank s = .next
        (entered (.restore k) .standby cleared (entered (.spared k) (.restore k) marks s .returned)
          .complete))) ∧
    (x.state = .mirror k →
      exec .cancel s = .next (entered (.mirror k) .standby cleared s .cancel)) ∧
    (x.state = .restore k →
      exec .cancel s = .next (entered (.restore k) (.spared k) cleared s .cancel))) ∧
  ∀ (q : StoreRequest) (s s1 s2 : State), s.phase = .ready →
    let h := s.head .store
    let refused := fun (r : Reason) (detail : Word) =>
      (s.post .requestRefused 2 [q.serial, word r.code, detail]).setHead .store
        { h with appser := q.serial, result := .refused, reason := r, detail := detail }
    let limit := min 255 q.autoLimit.toNat
    let limited : State := { s with spare := { s.spare with autoLimit := limit } }
    (if q.clearBankCounts = 1 then exec .clearBankCounts limited = .next s1 else s1 = limited) →
    (if q.spareAction = 1 then exec (.swap (Fin.ofNat 8 q.swapBank.toNat)) s1 = .next s2
      else if q.spareAction = 2 then exec .returnBank s1 = .next s2
      else if q.spareAction = 3 then exec .cancel s1 = .next s2 else s2 = s1) →
    let suits := match q.spareAction.toNat, s.spare.state with
      | 1, .standby => true
      | 2, .spared _ => true
      | 3, .mirror _ => true
      | 3, .restore _ => true
      | 0, _ => true
      | _, _ => false
    exec (.storeRequest q) s = .next (
      if 3 < q.spareAction.toNat then refused .badField 1
      else if 1 < q.clearBankCounts.toNat then refused .badField 3
      else if q.spareAction = 1 ∧ 7 < q.swapBank.toNat then refused .badBank 0
      else if suits = false then
        refused (if q.spareAction = 3 then .nothingToCancel else .spareBusy) 0
      else s2.setHead .store { h with
        appser := q.serial, actser := q.serial
        result := if q.autoLimit.toNat ≤ 255 then .accepted else .acceptedClamped
        reason := .none, detail := if q.autoLimit.toNat ≤ 255 then 0 else 16 })

/-- RETURN (R125). In SPARED it enters RESTORE for the bank already spared, with the marks and counts of
R120 for that bank and SPARE_PHASE with cause RETURN, and completes at once where no line is PENDING, in
STANDBY with SPARE_PHASE and cause COMPLETE (R122). A store request that carries it does that at its
patrol step, whatever SWAP_BANK holds, and is answered; in STANDBY, MIRROR or RESTORE the request is
refused with SPARE_BUSY and applies nothing. -/
def Obligations.ReturnRestoresTheBank : Prop :=
  ∀ (q : StoreRequest) (s : State), s.phase = .ready →
    q.spareAction = 2 → q.clearBankCounts = 0 → q.autoLimit.toNat ≤ 255 →
    let h := s.head .store
    (∀ k : Fin 8, s.spare.state = .spared k →
      let entered := fun (t : State) (new : SpareState) (marks : LineNo → Mark) (cause : SpareCause)
          (detail : List Word) =>
        ({ t with spare := { t.spare with
          state := new, lastCause := cause
          coverage := Vector.ofFn fun n => { mark := marks n, count := 0 } } } : State).post
            .sparePhase 2 detail
      let concerned := fun n : LineNo => (s.line n).placement.bank = k
      let active := fun n : LineNo => (s.line n).state = .hunting ∨ (s.line n).state = .filling ∨
        (s.line n).state = .running
      let returned := fun t : State =>
        let u := entered t (.restore k) (fun n => if ¬concerned n then .notConcerned
          else if active n then .pending else .covered) .returned [2, 3, word k.val, 4]
        if ∃ n, concerned n ∧ active n then u
        else entered u .standby (fun _ => .notConcerned) .complete [3, 0, word k.val, 3]
      exec .returnBank s = .next (returned s) ∧
      exec (.storeRequest q) s = .next
        ((returned { s with spare := { s.spare with autoLimit := q.autoLimit.toNat } }).setHead .store
          { h with appser := q.serial, actser := q.serial, result := .accepted, reason := .none
                   detail := 0 })) ∧
    ((∀ k : Fin 8, s.spare.state ≠ .spared k) →
      exec (.storeRequest q) s = .next ((s.post .requestRefused 2 [q.serial, 7, 0]).setHead .store
        { h with appser := q.serial, result := .refused, reason := .spareBusy, detail := 0 })) ∧
    ∀ bank : Word, exec (.storeRequest { q with swapBank := bank }) s = exec (.storeRequest q) s

/-- The automatic swap (R127). An increment of the uncorrected count of a working bank at or above an
AUTO_LIMIT other than 0 takes a SWAP of that bank in STANDBY: MIRROR with the marks and counts of R120,
SPARE_PHASE with cause AUTO, and completion at once where no line is PENDING (R122); in any other state,
and for the spare bank, nothing. The increment is the one of the normal read that finds a slot
UNCORRECTABLE, of a FILLING line at its start or of a RUNNING one, slip or not: the bank served the
read, alarm fill is sent, and the count stands before the swap is taken. Nothing else starts one: an
accepted store request puts its AUTO_LIMIT in force at its patrol step and with no action leaves the
state of spare control, and a return to STANDBY, by the covering of the last line or by CANCEL, leaves
it in STANDBY. -/
def Obligations.AutomaticSwapStartsAMirror : Prop :=
  (∀ (s : State) (b : Fin 9),
    let x := s.spare
    let count := (s.bank b).uncorrected.toNat
    (b = 8 ∨ x.state ≠ .standby ∨ x.autoLimit = 0 ∨ count < x.autoLimit → s.autoSwap b = s) ∧
    ∀ k : Fin 8, b.val = k.val → x.state = .standby → x.autoLimit ≠ 0 → x.autoLimit ≤ count →
      let cleared : Vector Coverage 64 := Vector.replicate 64 { mark := .notConcerned, count := 0 }
      let marks : Vector Coverage 64 := Vector.ofFn fun n : LineNo =>
        { mark := if (s.line n).placement.bank ≠ k then .notConcerned
            else if (s.line n).state = .out ∨ (s.line n).state = .dead then .covered else .pending
          count := 0 }
      let outstanding := ∃ n : LineNo, (s.line n).placement.bank = k ∧
        ((s.line n).state = .hunting ∨ (s.line n).state = .filling ∨ (s.line n).state = .running)
      let taken := ({ s with spare := { x with
        state := .mirror k, coverage := marks, lastCause := .auto } } : State).post .sparePhase 2
          [0, 1, word k.val, 2]
      (outstanding → s.autoSwap b = taken) ∧
      (¬outstanding → s.autoSwap b = ({ taken with spare := { x with
        state := .spared k, coverage := cleared, lastCause := .complete } } : State).post
          .sparePhase 2 [1, 2, word k.val, 3])) ∧
  (∀ (s : State) (n : LineNo) (g : GroupPos) (d : Decision) (fill : Nat),
    let l := s.line n
    let b := s.spare.state.readBank l.placement.bank
    let i := l.placement.base + l.ring.readIndex % l.placement.capacity
    let x := s.slot b i
    l.state = .filling ∨ l.state = .running → .uncorrectable ∈ x.conditions.toList →
    let m : Line := { l with counters := { l.counters with
      storeUncorrected := l.counters.storeUncorrected + 1 } }
    let counted := s.setBank b { s.bank b with uncorrected := (s.bank b).uncorrected + 1 }
    let started := if l.state = .filling then
        (counted.setLine n { m with state := .running, lastCause := .started }).post .lineState
          (16 + n.val) [2, 3, 5]
      else counted.setLine n m
    let swapped := (started.post .storeUncorrectable (16 + n.val)
      [word b.val, word i, word l.ring.readIndex, word x.uncorrectableSet, word d.code]).autoSwap b
    s.normalRead n g d fill (l.state == .filling) =
      { state := swapped.setLine n { swapped.line n with ring :=
          { readIndex := (l.ring.readIndex + 1) % l.placement.capacity, held := l.ring.held - 1 } }
        octets := List.replicate 39 0xFF, decision := d, substituted := true, fill := some fill
        uncorrected := 1 }) ∧
  (∀ (q : StoreRequest) (s t : State), s.phase = .ready → exec (.storeRequest q) s = .next t →
    q.spareAction = 0 → t.spare.state = s.spare.state ∧
    t.spare.autoLimit = if q.clearBankCounts.toNat ≤ 1 then min 255 q.autoLimit.toNat
      else s.spare.autoLimit) ∧
  (∀ (s : State) (n : LineNo) (k : Fin 8), s.spare.state = .restore k →
    (s.coverLine n).spare.state = .restore k ∨ (s.coverLine n).spare.state = .standby) ∧
  ∀ (s t : State) (k : Fin 8), s.spare.state = .mirror k → exec .cancel s = .next t →
    t.spare.state = .mirror k ∨ t.spare.state = .standby

/-- MONITOR_REQUEST (R134, R159): the first field out of its list refuses the request; an accepted one
puts its settings in force, disarms a monitor taken from OFF to ON, drops the edge history there and
where the condition changes, keeps the count and OVF, and then performs its actions. -/
def Obligations.MonitorRequestIsCheckedAndApplied : Prop :=
  ∀ (i : MonitorNo) (q : MonitorRequest) (s : State), s.phase = .ready →
    let m := s.monitor i
    let h := s.head (.monitor i)
    let bad := if 1 < q.enable.toNat then 1 else if 11 < q.event.toNat then 2
      else if 63 < q.line.toNat ∧ q.line.toNat ≠ 255 then 3 else if 1 < q.sense.toNat then 6
      else if 1 < q.edge.toNat then 7 else if 3 < q.ovfAction.toNat then 8
      else if 1 < q.loadPreset.toNat then 11 else if 1 < q.clearOverflow.toNat then 12 else 0
    let moved := 16 * bit (10240 < q.level.toNat) + 32 * bit (255 < q.threshold.toNat)
    (bad ≠ 0 → exec (.monitorRequest i q) s = .next
      ((s.post .requestRefused (3 + i.val) [q.serial, 1, word bad]).setHead (.monitor i)
        { h with appser := q.serial, result := .refused, reason := .badField
                 detail := word bad })) ∧
    (bad = 0 → ∀ c : MonitorSettings, c.enabled = (q.enable == 1) → c.event.code = q.event.toNat →
      (match c.line with | some n => n.val | none => 255) = q.line.toNat →
      c.level = min 10240 q.level.toNat → c.threshold = min 255 q.threshold.toNat →
      c.less = (q.sense == 1) → c.edge = (q.edge == 1) →
      c.overflowAction.code = q.ovfAction.toNat → c.preset = q.presetHigh ++ q.presetLow →
      let turnedOn := c.enabled = true ∧ m.settings.enabled = false
      let same := c.event = m.settings.event ∧ c.line = m.settings.line ∧
        c.level = m.settings.level ∧ c.threshold = m.settings.threshold ∧
        c.less = m.settings.less ∧ c.edge = m.settings.edge
      exec (.monitorRequest i q) s = .next ((s.setMonitor i
        { settings := c
          armed := m.armed && decide (¬turnedOn)
          edgeHistory := m.edgeHistory && decide (¬turnedOn ∧ same)
          count := if q.loadPreset = 1 then c.preset else m.count
          overflow := m.overflow && q.clearOverflow != 1 }).setHead (.monitor i) { h with
            appser := q.serial, actser := q.serial
            result := if moved = 0 then .accepted else .acceptedClamped
            reason := .none, detail := word moved }))

/-- LOAD_PRESET and CLEAR_OVERFLOW (R140): LOAD_PRESET sets the count to the PRESET in force and changes
nothing else, whether the monitor is enabled or not and the freeze set or not; a request that carries a
new PRESET loads the new value; CLEAR_OVERFLOW clears OVF and leaves the count and the freeze; with the
freeze set, an UNFREEZE taken before the last CLEAR_OVERFLOW is refused, and the freeze stays. -/
def Obligations.LoadPresetAndClearOverflow : Prop :=
  ∀ (i : MonitorNo) (s : State), s.phase = .ready →
    let m := s.monitor i
    exec (.loadPreset i) s = .next (s.setMonitor i { m with count := m.settings.preset }) ∧
    exec (.clearOverflow i) s = .next (s.setMonitor i { m with overflow := false }) ∧
    (∀ q : MonitorRequest, q.enable.toNat ≤ 1 → q.event.toNat ≤ 11 →
      q.line.toNat ≤ 63 ∨ q.line.toNat = 255 →
      q.sense.toNat ≤ 1 → q.edge.toNat ≤ 1 → q.ovfAction.toNat ≤ 3 → q.loadPreset = 1 →
      q.clearOverflow.toNat ≤ 1 →
      ∃ t, exec (.monitorRequest i q) s = .next t ∧
        (t.monitor i).count = q.presetHigh ++ q.presetLow ∧
        (t.monitor i).settings.preset = q.presetHigh ++ q.presetLow ∧
        (t.monitor i).overflow = (m.overflow && q.clearOverflow != 1) ∧
        t.monitorUnit.freeze = s.monitorUnit.freeze) ∧
    (∀ q : DirectoryRequest, q.unfreeze = 1 → q.clearViolations.toNat ≤ 1 →
      q.clearUnposted.toNat ≤ 1 → s.monitorUnit.freeze = true → m.overflow = true →
      m.settings.overflowAction = .freezeAll ∨ m.settings.overflowAction = .journalFreeze →
      ∃ t, exec (.directoryRequest q) s = .next t ∧
        t.monitorUnit.freeze = s.monitorUnit.freeze ∧ (t.head .directory).result = .refused ∧
        (t.head .directory).reason = .overflowPending)

/-- A monitor at the tick that closes a frame (R136, R137, R138, R139): its sample is 1 for
OFFICE_FRAMES, and else what the line it names adds, or all 64 lines together; a disabled monitor
stands; an enabled one that is not armed, or that the freeze holds, is armed and counts nothing; an
armed one adds its increment modulo 2^32, keeps the condition as its edge history, and at a wrap sets
OVF, freezes and reports as its action says. That an enabled monitor not armed is armed while the freeze
holds is the model's choice (assumption 16). -/
def Obligations.MonitorCountsAtTheTick : Prop :=
  (∀ (u : MonitorUnit) (c : MonitorSettings),
    let adds := fun n : LineNo =>
      let x := u.gathered[n]
      match c.event with
      | .officeFrames => 0
      | .repeats => x.repeats
      | .deletes => x.deletes
      | .alignErrors => x.alignErrors
      | .overruns => x.overruns
      | .underruns => x.underruns
      | .substituted => x.substituted
      | .storeCorrected => x.storeCorrected
      | .storeUncorrected => x.storeUncorrected
      | .linesNotRunning =>
        if x.state = .hunting ∨ x.state = .filling ∨ x.state = .dead then 1 else 0
      | .fillAtOrAbove => if ∃ f, x.fill = some f ∧ c.level ≤ f then 1 else 0
      | .fillBelow => if ∃ f, x.fill = some f ∧ f < c.level then 1 else 0
    u.sample c = if c.event = .officeFrames then 1
      else match c.line with
        | some n => adds n
        | none => ((List.finRange 64).map adds).sum) ∧
  ∀ (s : State) (frozen : Bool) (i : MonitorNo),
    let m := s.monitor i
    let c := m.settings
    let x := s.monitorUnit.sample c
    let holds := if c.less then decide (x < c.threshold) else decide (c.threshold ≤ x)
    let add := if c.threshold = 0 then x
      else if holds && (!c.edge || !m.edgeHistory) then 1 else 0
    let wraps := 2 ^ 32 ≤ m.count.toNat + add
    let counted : Monitor := { m with
      count := m.count + BitVec.ofNat 32 add
      edgeHistory := if c.threshold = 0 then m.edgeHistory else holds
      overflow := m.overflow || decide (wraps)
      armed := true }
    let freezes := c.overflowAction = .freezeAll ∨ c.overflowAction = .journalFreeze
    let posts := c.overflowAction = .journal ∨ c.overflowAction = .journalFreeze
    (c.enabled = false → s.closeMonitor frozen i = s) ∧
    (c.enabled = true → m.armed = false ∨ frozen = true →
      s.closeMonitor frozen i = s.setMonitor i { m with armed := true }) ∧
    (c.enabled = true → m.armed = true → frozen = false →
      let t := s.setMonitor i counted
      let u : State := if wraps ∧ freezes then
          { t with monitorUnit := { t.monitorUnit with freeze := true } } else t
      s.closeMonitor frozen i = if wraps ∧ posts then
          u.post .monitorOverflow (3 + i.val)
            [word i.val, word c.event.code, word (match c.line with | some n => n.val | none => 255),
              highHalf counted.count, lowHalf counted.count, word c.overflowAction.code,
              if u.monitorUnit.freeze then 1 else 0]
        else u)

/-- DIRECTORY_REQUEST, CLEAR_VIOLATIONS, CLEAR_UNPOSTED and UNFREEZE (R139, R146, R159, R162, R168): the
checks in their order; an accepted request puts KIND_MASK in force and then performs its parts, each
being what the command of its own does; UNFREEZE is turned away while a monitor holds the freeze,
whatever the freeze flag (assumption 28), and as a command of its own with no report (assumption 4), by
the model's choice. -/
def Obligations.DirectoryRequestIsCheckedAndApplied : Prop :=
  ∀ (q : DirectoryRequest) (s s1 s2 s3 : State), s.phase = .ready →
    let h := s.head .directory
    let refused := fun (r : Reason) (detail : Word) =>
      (s.post .requestRefused 0 [q.serial, word r.code, detail]).setHead .directory
        { h with appser := q.serial, result := .refused, reason := r, detail := detail }
    let heldBack := ∃ i, (s.monitor i).overflow = true ∧
      ((s.monitor i).settings.overflowAction = .freezeAll ∨
        (s.monitor i).settings.overflowAction = .journalFreeze)
    let masked : State := { s with journal := { s.journal with
      kindMask := q.kindMask.extractLsb' 0 15 } }
    (if q.clearViolations = 1 then exec .clearViolations masked = .next s1 else s1 = masked) →
    (if q.clearUnposted = 1 then exec .clearUnposted s1 = .next s2 else s2 = s1) →
    (if q.unfreeze = 1 then exec .unfreeze s2 = .next s3 else s3 = s2) →
    (1 < q.unfreeze.toNat → exec (.directoryRequest q) s = .next (refused .badField 2)) ∧
    (q.unfreeze.toNat ≤ 1 → 1 < q.clearViolations.toNat →
      exec (.directoryRequest q) s = .next (refused .badField 3)) ∧
    (q.unfreeze.toNat ≤ 1 → q.clearViolations.toNat ≤ 1 → 1 < q.clearUnposted.toNat →
      exec (.directoryRequest q) s = .next (refused .badField 4)) ∧
    (q.unfreeze.toNat ≤ 1 → q.clearViolations.toNat ≤ 1 → q.clearUnposted.toNat ≤ 1 →
      (q.unfreeze = 1 ∧ heldBack →
        exec (.directoryRequest q) s = .next (refused .overflowPending 0)) ∧
      (¬(q.unfreeze = 1 ∧ heldBack) → exec (.directoryRequest q) s = .next
        (s3.setHead .directory { h with
          appser := q.serial, actser := q.serial, result := .accepted, reason := .none
          detail := 0 }))) ∧
    exec .clearViolations s = .next { s with violations := { count := 0, address := 0 } } ∧
    exec .clearUnposted s = .next { s with journal := { s.journal with
      unposted := Vector.replicate 15 0 } } ∧
    (heldBack → exec .unfreeze s = .next s) ∧
    (¬heldBack → ∃ t, exec .unfreeze s = .next t ∧
      t = { s with monitorUnit := { s.monitorUnit with
        freeze := false, monitors := t.monitorUnit.monitors } } ∧
      ∀ i, t.monitor i = { s.monitor i with armed := false, edgeHistory := false })

/-- A command sent where the part does not take it changes nothing (assumption 4): RESET_RELEASE of a
RESETn not asserted, the end of an initialisation or restart not in progress, an event of a line, bus or
tick while RESETn is asserted, a line event of a line in another state, a spare action in a state of
spare control that does not take it, and what the patrol does while READY is 0 (R156), a missing clock
of a bus whose silence count is held at 32 (R107), and a judged frame of a bus whose flywheel is
unaligned (R87). -/
def Obligations.CommandsOutOfPlaceDoNothing : Prop :=
  ∀ (c : Instr) (s : State),
    (s.phase ≠ .inReset ∧ (∃ x, c = .resetRelease x)) ∨
    (s.phase ≠ .initialising ∧ c = .initialisationEnd) ∨
    (s.phase ≠ .restarting ∧ c = .engineRestartEnd) ∨
    (s.phase = .inReset ∧ (c = .holdLatch ∨ (∃ x g, c = .busFrameJudged x g) ∨
      (∃ x, c = .missingClock x) ∨ (∃ x k, c = .timingWindowEnd x k) ∨ c = .officeTick ∨
      c = .realignComplete ∨ (∃ n, c = .dead n) ∨ (∃ n, c = .windowEnd n) ∨
      (∃ n o, c = .huntFind n o) ∨ (∃ n o, c = .confirmCheck n o) ∨ (∃ n o, c = .lockedCheck n o) ∨
      (∃ n p g, c = .frameDelivery n p g) ∨ (∃ n b, c = .lineBitTaken n b) ∨
      (∃ x b, c = .busClockEdge x b))) ∨
    (∃ x, c = .missingClock x ∧ 32 ≤ (s.timing.bus x).silence) ∨
    (∃ x g, c = .busFrameJudged x g ∧ (s.timing.bus x).flywheel = none) ∨
    (∃ n, c = .dead n ∧ ((s.line n).state = .out ∨ (s.line n).state = .dead)) ∨
    (∃ n, c = .windowEnd n ∧ (s.line n).window.counting = false) ∨
    (∃ n o, (c = .huntFind n o ∨ c = .confirmCheck n o ∨ c = .lockedCheck n o) ∧
      (s.line n).framer.held = true) ∨
    (s.spare.state ≠ .standby ∧ (∃ k, c = .swap k)) ∨
    ((∀ k, s.spare.state ≠ .spared k) ∧ c = .returnBank) ∨
    (s.spare.state.operating = none ∧ c = .cancel) ∨
    (320 ≤ s.timing.phase ∧ c = .officeTick) ∨ (s.timing.phase < 320 ∧ c = .realignComplete) ∨
    (s.phase ≠ .ready ∧ (c = .patrolStep [] ∨ (∃ n q, c = .lineRequest n q) ∨
      (∃ n, c = .serviceIn n ∨ c = .serviceOut n ∨ c = .recentre n ∨ c = .restartLine n ∨
        c = .armWindow n ∨ c = .clearCounts n) ∨ (∃ q, c = .timingRequest q) ∨
      c = .clearHistory ∨ c = .clearHoldLatch ∨ c = .realign ∨ (∃ q, c = .storeRequest q) ∨
      c = .clearBankCounts ∨ (∃ k, c = .swap k) ∨ c = .returnBank ∨ c = .cancel ∨
      (∃ i q, c = .monitorRequest i q) ∨ (∃ i, c = .loadPreset i ∨ c = .clearOverflow i) ∨
      (∃ q, c = .directoryRequest q) ∨ c = .clearViolations ∨ c = .clearUnposted ∨
      c = .unfreeze)) →
    exec c s = .next s

/-! ## What every step keeps -/

/-- Control memory and the slip store stay in canonical form. The prompt queue holds at most eight
record numbers and the bad-word list at most sixteen offsets, none twice (R153, R157). A patrol step
waits only while READY is 1, and one is due only behind one in progress (R156). -/
def Obligations.StepsKeepTheMemoriesAndQueues : Prop :=
  (∀ s : State, s.memoriesWf → ∀ t, step s = .next t → t.memoriesWf) ∧
  ∀ s : State, s.queuesLegal → ∀ t, step s = .next t → t.queuesLegal

/-- The office timing follows a bus only while that bus is GOOD and the hold latch is clear (R93). The
holdover history holds at most four values, and hv and S are the ones it gives (R102, R103). -/
def Obligations.StepsKeepTheOfficeTimingSound : Prop :=
  (∀ s : State, s.timing.followsGoodBus → ∀ t, step s = .next t → t.timing.followsGoodBus) ∧
  ∀ s : State, s.timing.holdoverComputed → ∀ t, step s = .next t → t.timing.holdoverComputed

/-- Every line's ring stays within its bounds: a legal placement, H at most C − u, H = 0 in OUT, HUNTING
and DEAD, and thresholds that fit the placement (R25, R26, R42). No two lines in service share a slot
(R27). -/
def Obligations.StepsKeepTheRingsLegalAndDisjoint : Prop :=
  (∀ s : State, s.ringsLegal → ∀ t, step s = .next t → t.ringsLegal) ∧
  ∀ s : State, s.ringsDisjoint → ∀ t, step s = .next t → t.ringsDisjoint

/-- Every framer stays as its line's state requires: held exactly in OUT and DEAD, and LOCKED exactly in
FILLING and RUNNING (R2, R13). In STANDBY and SPARED no line is concerned and every count is 0, and an
operation goes on only while some line is PENDING (R120, R122). -/
def Obligations.StepsKeepLinesAndSpareControlSound : Prop :=
  (∀ s : State, s.framersAgree → ∀ t, step s = .next t → t.framersAgree) ∧
  ∀ s : State, s.spare.settled → ∀ t, step s = .next t → t.spare.settled
end

