-- ==== Sys2Proof/Laws/State.lean ====
section
/-!
SUPPORT. One lemma for each field of the state and each setter that leaves it alone, and what each
setter does to its own entry.
-/
namespace Sys2Proof.Machine

variable (s : State)

/-! ### setMemWord -/

@[simp] theorem State.setMemWord_phase (a : Nat) (w : MemWord) : (s.setMemWord a w).phase = s.phase := rfl
@[simp] theorem State.setMemWord_holdreq (a : Nat) (w : MemWord) : (s.setMemWord a w).holdreq = s.holdreq := rfl
@[simp] theorem State.setMemWord_port (a : Nat) (w : MemWord) : (s.setMemWord a w).port = s.port := rfl
@[simp] theorem State.setMemWord_attention (a : Nat) (w : MemWord) : (s.setMemWord a w).attention = s.attention := rfl
@[simp] theorem State.setMemWord_mask (a : Nat) (w : MemWord) : (s.setMemWord a w).mask = s.mask := rfl
@[simp] theorem State.setMemWord_violations (a : Nat) (w : MemWord) : (s.setMemWord a w).violations = s.violations := rfl
@[simp] theorem State.setMemWord_scrub (a : Nat) (w : MemWord) : (s.setMemWord a w).scrub = s.scrub := rfl
@[simp] theorem State.setMemWord_badWords (a : Nat) (w : MemWord) : (s.setMemWord a w).badWords = s.badWords := rfl
@[simp] theorem State.setMemWord_patrol (a : Nat) (w : MemWord) : (s.setMemWord a w).patrol = s.patrol := rfl
@[simp] theorem State.setMemWord_reportHeads (a : Nat) (w : MemWord) : (s.setMemWord a w).reportHeads = s.reportHeads := rfl
@[simp] theorem State.setMemWord_journal (a : Nat) (w : MemWord) : (s.setMemWord a w).journal = s.journal := rfl
@[simp] theorem State.setMemWord_timing (a : Nat) (w : MemWord) : (s.setMemWord a w).timing = s.timing := rfl
@[simp] theorem State.setMemWord_lines (a : Nat) (w : MemWord) : (s.setMemWord a w).lines = s.lines := rfl
@[simp] theorem State.setMemWord_slots (a : Nat) (w : MemWord) : (s.setMemWord a w).slots = s.slots := rfl
@[simp] theorem State.setMemWord_bankCounts (a : Nat) (w : MemWord) : (s.setMemWord a w).bankCounts = s.bankCounts := rfl
@[simp] theorem State.setMemWord_spare (a : Nat) (w : MemWord) : (s.setMemWord a w).spare = s.spare := rfl
@[simp] theorem State.setMemWord_monitorUnit (a : Nat) (w : MemWord) : (s.setMemWord a w).monitorUnit = s.monitorUnit := rfl
@[simp] theorem State.setMemWord_highway (a : Nat) (w : MemWord) : (s.setMemWord a w).highway = s.highway := rfl
@[simp] theorem State.setMemWord_pending (a : Nat) (w : MemWord) : (s.setMemWord a w).pending = s.pending := rfl
@[simp] theorem State.setMemWord_line (a : Nat) (w : MemWord) (k : LineNo) :
    (s.setMemWord a w).line k = s.line k := rfl
@[simp] theorem State.setMemWord_slot (a : Nat) (w : MemWord) (d : Fin 9) (j : Nat) :
    (s.setMemWord a w).slot d j = s.slot d j := rfl
@[simp] theorem State.setMemWord_cover (a : Nat) (w : MemWord) (k : LineNo) :
    (s.setMemWord a w).cover k = s.cover k := rfl
@[simp] theorem State.setMemWord_bank (a : Nat) (w : MemWord) (d : Fin 9) :
    (s.setMemWord a w).bank d = s.bank d := rfl
@[simp] theorem State.setMemWord_monitor (a : Nat) (w : MemWord) (j : MonitorNo) :
    (s.setMemWord a w).monitor j = s.monitor j := rfl
@[simp] theorem State.setMemWord_gathered (a : Nat) (w : MemWord) (k : LineNo) :
    (s.setMemWord a w).gathered k = s.gathered k := rfl
@[simp] theorem State.setMemWord_head (a : Nat) (w : MemWord) (q : Record) :
    (s.setMemWord a w).head q = s.head q := rfl
@[simp] theorem State.setMemWord_journalSlot (a : Nat) (w : MemWord) (j : Fin 128) :
    (s.setMemWord a w).journalSlot j = s.journalSlot j := rfl

/-! ### memWrite -/

@[simp] theorem State.memWrite_phase (a : Nat) (x : Word) : (s.memWrite a x).phase = s.phase := rfl
@[simp] theorem State.memWrite_holdreq (a : Nat) (x : Word) : (s.memWrite a x).holdreq = s.holdreq := rfl
@[simp] theorem State.memWrite_port (a : Nat) (x : Word) : (s.memWrite a x).port = s.port := rfl
@[simp] theorem State.memWrite_attention (a : Nat) (x : Word) : (s.memWrite a x).attention = s.attention := rfl
@[simp] theorem State.memWrite_mask (a : Nat) (x : Word) : (s.memWrite a x).mask = s.mask := rfl
@[simp] theorem State.memWrite_violations (a : Nat) (x : Word) : (s.memWrite a x).violations = s.violations := rfl
@[simp] theorem State.memWrite_scrub (a : Nat) (x : Word) : (s.memWrite a x).scrub = s.scrub := rfl
@[simp] theorem State.memWrite_badWords (a : Nat) (x : Word) : (s.memWrite a x).badWords = s.badWords := rfl
@[simp] theorem State.memWrite_patrol (a : Nat) (x : Word) : (s.memWrite a x).patrol = s.patrol := rfl
@[simp] theorem State.memWrite_reportHeads (a : Nat) (x : Word) : (s.memWrite a x).reportHeads = s.reportHeads := rfl
@[simp] theorem State.memWrite_journal (a : Nat) (x : Word) : (s.memWrite a x).journal = s.journal := rfl
@[simp] theorem State.memWrite_timing (a : Nat) (x : Word) : (s.memWrite a x).timing = s.timing := rfl
@[simp] theorem State.memWrite_lines (a : Nat) (x : Word) : (s.memWrite a x).lines = s.lines := rfl
@[simp] theorem State.memWrite_slots (a : Nat) (x : Word) : (s.memWrite a x).slots = s.slots := rfl
@[simp] theorem State.memWrite_bankCounts (a : Nat) (x : Word) : (s.memWrite a x).bankCounts = s.bankCounts := rfl
@[simp] theorem State.memWrite_spare (a : Nat) (x : Word) : (s.memWrite a x).spare = s.spare := rfl
@[simp] theorem State.memWrite_monitorUnit (a : Nat) (x : Word) : (s.memWrite a x).monitorUnit = s.monitorUnit := rfl
@[simp] theorem State.memWrite_highway (a : Nat) (x : Word) : (s.memWrite a x).highway = s.highway := rfl
@[simp] theorem State.memWrite_pending (a : Nat) (x : Word) : (s.memWrite a x).pending = s.pending := rfl
@[simp] theorem State.memWrite_line (a : Nat) (x : Word) (k : LineNo) :
    (s.memWrite a x).line k = s.line k := rfl
@[simp] theorem State.memWrite_slot (a : Nat) (x : Word) (d : Fin 9) (j : Nat) :
    (s.memWrite a x).slot d j = s.slot d j := rfl
@[simp] theorem State.memWrite_cover (a : Nat) (x : Word) (k : LineNo) :
    (s.memWrite a x).cover k = s.cover k := rfl
@[simp] theorem State.memWrite_bank (a : Nat) (x : Word) (d : Fin 9) :
    (s.memWrite a x).bank d = s.bank d := rfl
@[simp] theorem State.memWrite_monitor (a : Nat) (x : Word) (j : MonitorNo) :
    (s.memWrite a x).monitor j = s.monitor j := rfl
@[simp] theorem State.memWrite_gathered (a : Nat) (x : Word) (k : LineNo) :
    (s.memWrite a x).gathered k = s.gathered k := rfl
@[simp] theorem State.memWrite_head (a : Nat) (x : Word) (q : Record) :
    (s.memWrite a x).head q = s.head q := rfl
@[simp] theorem State.memWrite_journalSlot (a : Nat) (x : Word) (j : Fin 128) :
    (s.memWrite a x).journalSlot j = s.journalSlot j := rfl

/-! ### setLine -/

@[simp] theorem State.setLine_phase (n : LineNo) (l : Line) : (s.setLine n l).phase = s.phase := rfl
@[simp] theorem State.setLine_holdreq (n : LineNo) (l : Line) : (s.setLine n l).holdreq = s.holdreq := rfl
@[simp] theorem State.setLine_port (n : LineNo) (l : Line) : (s.setLine n l).port = s.port := rfl
@[simp] theorem State.setLine_memory (n : LineNo) (l : Line) : (s.setLine n l).memory = s.memory := rfl
@[simp] theorem State.setLine_attention (n : LineNo) (l : Line) : (s.setLine n l).attention = s.attention := rfl
@[simp] theorem State.setLine_mask (n : LineNo) (l : Line) : (s.setLine n l).mask = s.mask := rfl
@[simp] theorem State.setLine_violations (n : LineNo) (l : Line) : (s.setLine n l).violations = s.violations := rfl
@[simp] theorem State.setLine_scrub (n : LineNo) (l : Line) : (s.setLine n l).scrub = s.scrub := rfl
@[simp] theorem State.setLine_badWords (n : LineNo) (l : Line) : (s.setLine n l).badWords = s.badWords := rfl
@[simp] theorem State.setLine_patrol (n : LineNo) (l : Line) : (s.setLine n l).patrol = s.patrol := rfl
@[simp] theorem State.setLine_reportHeads (n : LineNo) (l : Line) : (s.setLine n l).reportHeads = s.reportHeads := rfl
@[simp] theorem State.setLine_journal (n : LineNo) (l : Line) : (s.setLine n l).journal = s.journal := rfl
@[simp] theorem State.setLine_timing (n : LineNo) (l : Line) : (s.setLine n l).timing = s.timing := rfl
@[simp] theorem State.setLine_slots (n : LineNo) (l : Line) : (s.setLine n l).slots = s.slots := rfl
@[simp] theorem State.setLine_bankCounts (n : LineNo) (l : Line) : (s.setLine n l).bankCounts = s.bankCounts := rfl
@[simp] theorem State.setLine_spare (n : LineNo) (l : Line) : (s.setLine n l).spare = s.spare := rfl
@[simp] theorem State.setLine_monitorUnit (n : LineNo) (l : Line) : (s.setLine n l).monitorUnit = s.monitorUnit := rfl
@[simp] theorem State.setLine_highway (n : LineNo) (l : Line) : (s.setLine n l).highway = s.highway := rfl
@[simp] theorem State.setLine_pending (n : LineNo) (l : Line) : (s.setLine n l).pending = s.pending := rfl
@[simp] theorem State.setLine_slot (n : LineNo) (l : Line) (d : Fin 9) (j : Nat) :
    (s.setLine n l).slot d j = s.slot d j := rfl
@[simp] theorem State.setLine_memWord (n : LineNo) (l : Line) (k : Nat) :
    (s.setLine n l).memWord k = s.memWord k := rfl
@[simp] theorem State.setLine_cover (n : LineNo) (l : Line) (k : LineNo) :
    (s.setLine n l).cover k = s.cover k := rfl
@[simp] theorem State.setLine_bank (n : LineNo) (l : Line) (d : Fin 9) :
    (s.setLine n l).bank d = s.bank d := rfl
@[simp] theorem State.setLine_monitor (n : LineNo) (l : Line) (j : MonitorNo) :
    (s.setLine n l).monitor j = s.monitor j := rfl
@[simp] theorem State.setLine_gathered (n : LineNo) (l : Line) (k : LineNo) :
    (s.setLine n l).gathered k = s.gathered k := rfl
@[simp] theorem State.setLine_head (n : LineNo) (l : Line) (q : Record) :
    (s.setLine n l).head q = s.head q := rfl
@[simp] theorem State.setLine_journalSlot (n : LineNo) (l : Line) (j : Fin 128) :
    (s.setLine n l).journalSlot j = s.journalSlot j := rfl

/-! ### modLine -/

@[simp] theorem State.modLine_phase (n : LineNo) (f : Line → Line) : (s.modLine n f).phase = s.phase := rfl
@[simp] theorem State.modLine_holdreq (n : LineNo) (f : Line → Line) : (s.modLine n f).holdreq = s.holdreq := rfl
@[simp] theorem State.modLine_port (n : LineNo) (f : Line → Line) : (s.modLine n f).port = s.port := rfl
@[simp] theorem State.modLine_memory (n : LineNo) (f : Line → Line) : (s.modLine n f).memory = s.memory := rfl
@[simp] theorem State.modLine_attention (n : LineNo) (f : Line → Line) : (s.modLine n f).attention = s.attention := rfl
@[simp] theorem State.modLine_mask (n : LineNo) (f : Line → Line) : (s.modLine n f).mask = s.mask := rfl
@[simp] theorem State.modLine_violations (n : LineNo) (f : Line → Line) : (s.modLine n f).violations = s.violations := rfl
@[simp] theorem State.modLine_scrub (n : LineNo) (f : Line → Line) : (s.modLine n f).scrub = s.scrub := rfl
@[simp] theorem State.modLine_badWords (n : LineNo) (f : Line → Line) : (s.modLine n f).badWords = s.badWords := rfl
@[simp] theorem State.modLine_patrol (n : LineNo) (f : Line → Line) : (s.modLine n f).patrol = s.patrol := rfl
@[simp] theorem State.modLine_reportHeads (n : LineNo) (f : Line → Line) : (s.modLine n f).reportHeads = s.reportHeads := rfl
@[simp] theorem State.modLine_journal (n : LineNo) (f : Line → Line) : (s.modLine n f).journal = s.journal := rfl
@[simp] theorem State.modLine_timing (n : LineNo) (f : Line → Line) : (s.modLine n f).timing = s.timing := rfl
@[simp] theorem State.modLine_slots (n : LineNo) (f : Line → Line) : (s.modLine n f).slots = s.slots := rfl
@[simp] theorem State.modLine_bankCounts (n : LineNo) (f : Line → Line) : (s.modLine n f).bankCounts = s.bankCounts := rfl
@[simp] theorem State.modLine_spare (n : LineNo) (f : Line → Line) : (s.modLine n f).spare = s.spare := rfl
@[simp] theorem State.modLine_monitorUnit (n : LineNo) (f : Line → Line) : (s.modLine n f).monitorUnit = s.monitorUnit := rfl
@[simp] theorem State.modLine_highway (n : LineNo) (f : Line → Line) : (s.modLine n f).highway = s.highway := rfl
@[simp] theorem State.modLine_pending (n : LineNo) (f : Line → Line) : (s.modLine n f).pending = s.pending := rfl
@[simp] theorem State.modLine_slot (n : LineNo) (f : Line → Line) (d : Fin 9) (j : Nat) :
    (s.modLine n f).slot d j = s.slot d j := rfl
@[simp] theorem State.modLine_memWord (n : LineNo) (f : Line → Line) (k : Nat) :
    (s.modLine n f).memWord k = s.memWord k := rfl
@[simp] theorem State.modLine_cover (n : LineNo) (f : Line → Line) (k : LineNo) :
    (s.modLine n f).cover k = s.cover k := rfl
@[simp] theorem State.modLine_bank (n : LineNo) (f : Line → Line) (d : Fin 9) :
    (s.modLine n f).bank d = s.bank d := rfl
@[simp] theorem State.modLine_monitor (n : LineNo) (f : Line → Line) (j : MonitorNo) :
    (s.modLine n f).monitor j = s.monitor j := rfl
@[simp] theorem State.modLine_gathered (n : LineNo) (f : Line → Line) (k : LineNo) :
    (s.modLine n f).gathered k = s.gathered k := rfl
@[simp] theorem State.modLine_head (n : LineNo) (f : Line → Line) (q : Record) :
    (s.modLine n f).head q = s.head q := rfl
@[simp] theorem State.modLine_journalSlot (n : LineNo) (f : Line → Line) (j : Fin 128) :
    (s.modLine n f).journalSlot j = s.journalSlot j := rfl

/-! ### setCover -/

@[simp] theorem State.setCover_phase (n : LineNo) (c : Coverage) : (s.setCover n c).phase = s.phase := rfl
@[simp] theorem State.setCover_holdreq (n : LineNo) (c : Coverage) : (s.setCover n c).holdreq = s.holdreq := rfl
@[simp] theorem State.setCover_port (n : LineNo) (c : Coverage) : (s.setCover n c).port = s.port := rfl
@[simp] theorem State.setCover_memory (n : LineNo) (c : Coverage) : (s.setCover n c).memory = s.memory := rfl
@[simp] theorem State.setCover_attention (n : LineNo) (c : Coverage) : (s.setCover n c).attention = s.attention := rfl
@[simp] theorem State.setCover_mask (n : LineNo) (c : Coverage) : (s.setCover n c).mask = s.mask := rfl
@[simp] theorem State.setCover_violations (n : LineNo) (c : Coverage) : (s.setCover n c).violations = s.violations := rfl
@[simp] theorem State.setCover_scrub (n : LineNo) (c : Coverage) : (s.setCover n c).scrub = s.scrub := rfl
@[simp] theorem State.setCover_badWords (n : LineNo) (c : Coverage) : (s.setCover n c).badWords = s.badWords := rfl
@[simp] theorem State.setCover_patrol (n : LineNo) (c : Coverage) : (s.setCover n c).patrol = s.patrol := rfl
@[simp] theorem State.setCover_reportHeads (n : LineNo) (c : Coverage) : (s.setCover n c).reportHeads = s.reportHeads := rfl
@[simp] theorem State.setCover_journal (n : LineNo) (c : Coverage) : (s.setCover n c).journal = s.journal := rfl
@[simp] theorem State.setCover_timing (n : LineNo) (c : Coverage) : (s.setCover n c).timing = s.timing := rfl
@[simp] theorem State.setCover_lines (n : LineNo) (c : Coverage) : (s.setCover n c).lines = s.lines := rfl
@[simp] theorem State.setCover_slots (n : LineNo) (c : Coverage) : (s.setCover n c).slots = s.slots := rfl
@[simp] theorem State.setCover_bankCounts (n : LineNo) (c : Coverage) : (s.setCover n c).bankCounts = s.bankCounts := rfl
@[simp] theorem State.setCover_monitorUnit (n : LineNo) (c : Coverage) : (s.setCover n c).monitorUnit = s.monitorUnit := rfl
@[simp] theorem State.setCover_highway (n : LineNo) (c : Coverage) : (s.setCover n c).highway = s.highway := rfl
@[simp] theorem State.setCover_pending (n : LineNo) (c : Coverage) : (s.setCover n c).pending = s.pending := rfl
@[simp] theorem State.setCover_line (n : LineNo) (c : Coverage) (k : LineNo) :
    (s.setCover n c).line k = s.line k := rfl
@[simp] theorem State.setCover_slot (n : LineNo) (c : Coverage) (d : Fin 9) (j : Nat) :
    (s.setCover n c).slot d j = s.slot d j := rfl
@[simp] theorem State.setCover_memWord (n : LineNo) (c : Coverage) (k : Nat) :
    (s.setCover n c).memWord k = s.memWord k := rfl
@[simp] theorem State.setCover_bank (n : LineNo) (c : Coverage) (d : Fin 9) :
    (s.setCover n c).bank d = s.bank d := rfl
@[simp] theorem State.setCover_monitor (n : LineNo) (c : Coverage) (j : MonitorNo) :
    (s.setCover n c).monitor j = s.monitor j := rfl
@[simp] theorem State.setCover_gathered (n : LineNo) (c : Coverage) (k : LineNo) :
    (s.setCover n c).gathered k = s.gathered k := rfl
@[simp] theorem State.setCover_head (n : LineNo) (c : Coverage) (q : Record) :
    (s.setCover n c).head q = s.head q := rfl
@[simp] theorem State.setCover_journalSlot (n : LineNo) (c : Coverage) (j : Fin 128) :
    (s.setCover n c).journalSlot j = s.journalSlot j := rfl

/-! ### setBank -/

@[simp] theorem State.setBank_phase (b : Fin 9) (c : BankCounts) : (s.setBank b c).phase = s.phase := rfl
@[simp] theorem State.setBank_holdreq (b : Fin 9) (c : BankCounts) : (s.setBank b c).holdreq = s.holdreq := rfl
@[simp] theorem State.setBank_port (b : Fin 9) (c : BankCounts) : (s.setBank b c).port = s.port := rfl
@[simp] theorem State.setBank_memory (b : Fin 9) (c : BankCounts) : (s.setBank b c).memory = s.memory := rfl
@[simp] theorem State.setBank_attention (b : Fin 9) (c : BankCounts) : (s.setBank b c).attention = s.attention := rfl
@[simp] theorem State.setBank_mask (b : Fin 9) (c : BankCounts) : (s.setBank b c).mask = s.mask := rfl
@[simp] theorem State.setBank_violations (b : Fin 9) (c : BankCounts) : (s.setBank b c).violations = s.violations := rfl
@[simp] theorem State.setBank_scrub (b : Fin 9) (c : BankCounts) : (s.setBank b c).scrub = s.scrub := rfl
@[simp] theorem State.setBank_badWords (b : Fin 9) (c : BankCounts) : (s.setBank b c).badWords = s.badWords := rfl
@[simp] theorem State.setBank_patrol (b : Fin 9) (c : BankCounts) : (s.setBank b c).patrol = s.patrol := rfl
@[simp] theorem State.setBank_reportHeads (b : Fin 9) (c : BankCounts) : (s.setBank b c).reportHeads = s.reportHeads := rfl
@[simp] theorem State.setBank_journal (b : Fin 9) (c : BankCounts) : (s.setBank b c).journal = s.journal := rfl
@[simp] theorem State.setBank_timing (b : Fin 9) (c : BankCounts) : (s.setBank b c).timing = s.timing := rfl
@[simp] theorem State.setBank_lines (b : Fin 9) (c : BankCounts) : (s.setBank b c).lines = s.lines := rfl
@[simp] theorem State.setBank_slots (b : Fin 9) (c : BankCounts) : (s.setBank b c).slots = s.slots := rfl
@[simp] theorem State.setBank_spare (b : Fin 9) (c : BankCounts) : (s.setBank b c).spare = s.spare := rfl
@[simp] theorem State.setBank_monitorUnit (b : Fin 9) (c : BankCounts) : (s.setBank b c).monitorUnit = s.monitorUnit := rfl
@[simp] theorem State.setBank_highway (b : Fin 9) (c : BankCounts) : (s.setBank b c).highway = s.highway := rfl
@[simp] theorem State.setBank_pending (b : Fin 9) (c : BankCounts) : (s.setBank b c).pending = s.pending := rfl
@[simp] theorem State.setBank_line (b : Fin 9) (c : BankCounts) (k : LineNo) :
    (s.setBank b c).line k = s.line k := rfl
@[simp] theorem State.setBank_slot (b : Fin 9) (c : BankCounts) (d : Fin 9) (j : Nat) :
    (s.setBank b c).slot d j = s.slot d j := rfl
@[simp] theorem State.setBank_memWord (b : Fin 9) (c : BankCounts) (k : Nat) :
    (s.setBank b c).memWord k = s.memWord k := rfl
@[simp] theorem State.setBank_cover (b : Fin 9) (c : BankCounts) (k : LineNo) :
    (s.setBank b c).cover k = s.cover k := rfl
@[simp] theorem State.setBank_monitor (b : Fin 9) (c : BankCounts) (j : MonitorNo) :
    (s.setBank b c).monitor j = s.monitor j := rfl
@[simp] theorem State.setBank_gathered (b : Fin 9) (c : BankCounts) (k : LineNo) :
    (s.setBank b c).gathered k = s.gathered k := rfl
@[simp] theorem State.setBank_head (b : Fin 9) (c : BankCounts) (q : Record) :
    (s.setBank b c).head q = s.head q := rfl
@[simp] theorem State.setBank_journalSlot (b : Fin 9) (c : BankCounts) (j : Fin 128) :
    (s.setBank b c).journalSlot j = s.journalSlot j := rfl

/-! ### setMonitor -/

@[simp] theorem State.setMonitor_phase (m : MonitorNo) (x : Monitor) : (s.setMonitor m x).phase = s.phase := rfl
@[simp] theorem State.setMonitor_holdreq (m : MonitorNo) (x : Monitor) : (s.setMonitor m x).holdreq = s.holdreq := rfl
@[simp] theorem State.setMonitor_port (m : MonitorNo) (x : Monitor) : (s.setMonitor m x).port = s.port := rfl
@[simp] theorem State.setMonitor_memory (m : MonitorNo) (x : Monitor) : (s.setMonitor m x).memory = s.memory := rfl
@[simp] theorem State.setMonitor_attention (m : MonitorNo) (x : Monitor) : (s.setMonitor m x).attention = s.attention := rfl
@[simp] theorem State.setMonitor_mask (m : MonitorNo) (x : Monitor) : (s.setMonitor m x).mask = s.mask := rfl
@[simp] theorem State.setMonitor_violations (m : MonitorNo) (x : Monitor) : (s.setMonitor m x).violations = s.violations := rfl
@[simp] theorem State.setMonitor_scrub (m : MonitorNo) (x : Monitor) : (s.setMonitor m x).scrub = s.scrub := rfl
@[simp] theorem State.setMonitor_badWords (m : MonitorNo) (x : Monitor) : (s.setMonitor m x).badWords = s.badWords := rfl
@[simp] theorem State.setMonitor_patrol (m : MonitorNo) (x : Monitor) : (s.setMonitor m x).patrol = s.patrol := rfl
@[simp] theorem State.setMonitor_reportHeads (m : MonitorNo) (x : Monitor) : (s.setMonitor m x).reportHeads = s.reportHeads := rfl
@[simp] theorem State.setMonitor_journal (m : MonitorNo) (x : Monitor) : (s.setMonitor m x).journal = s.journal := rfl
@[simp] theorem State.setMonitor_timing (m : MonitorNo) (x : Monitor) : (s.setMonitor m x).timing = s.timing := rfl
@[simp] theorem State.setMonitor_lines (m : MonitorNo) (x : Monitor) : (s.setMonitor m x).lines = s.lines := rfl
@[simp] theorem State.setMonitor_slots (m : MonitorNo) (x : Monitor) : (s.setMonitor m x).slots = s.slots := rfl
@[simp] theorem State.setMonitor_bankCounts (m : MonitorNo) (x : Monitor) : (s.setMonitor m x).bankCounts = s.bankCounts := rfl
@[simp] theorem State.setMonitor_spare (m : MonitorNo) (x : Monitor) : (s.setMonitor m x).spare = s.spare := rfl
@[simp] theorem State.setMonitor_highway (m : MonitorNo) (x : Monitor) : (s.setMonitor m x).highway = s.highway := rfl
@[simp] theorem State.setMonitor_pending (m : MonitorNo) (x : Monitor) : (s.setMonitor m x).pending = s.pending := rfl
@[simp] theorem State.setMonitor_line (m : MonitorNo) (x : Monitor) (k : LineNo) :
    (s.setMonitor m x).line k = s.line k := rfl
@[simp] theorem State.setMonitor_slot (m : MonitorNo) (x : Monitor) (d : Fin 9) (j : Nat) :
    (s.setMonitor m x).slot d j = s.slot d j := rfl
@[simp] theorem State.setMonitor_memWord (m : MonitorNo) (x : Monitor) (k : Nat) :
    (s.setMonitor m x).memWord k = s.memWord k := rfl
@[simp] theorem State.setMonitor_cover (m : MonitorNo) (x : Monitor) (k : LineNo) :
    (s.setMonitor m x).cover k = s.cover k := rfl
@[simp] theorem State.setMonitor_bank (m : MonitorNo) (x : Monitor) (d : Fin 9) :
    (s.setMonitor m x).bank d = s.bank d := rfl
@[simp] theorem State.setMonitor_head (m : MonitorNo) (x : Monitor) (q : Record) :
    (s.setMonitor m x).head q = s.head q := rfl
@[simp] theorem State.setMonitor_journalSlot (m : MonitorNo) (x : Monitor) (j : Fin 128) :
    (s.setMonitor m x).journalSlot j = s.journalSlot j := rfl

/-! ### setGathered -/

@[simp] theorem State.setGathered_phase (n : LineNo) (x : Gathered) : (s.setGathered n x).phase = s.phase := rfl
@[simp] theorem State.setGathered_holdreq (n : LineNo) (x : Gathered) : (s.setGathered n x).holdreq = s.holdreq := rfl
@[simp] theorem State.setGathered_port (n : LineNo) (x : Gathered) : (s.setGathered n x).port = s.port := rfl
@[simp] theorem State.setGathered_memory (n : LineNo) (x : Gathered) : (s.setGathered n x).memory = s.memory := rfl
@[simp] theorem State.setGathered_attention (n : LineNo) (x : Gathered) : (s.setGathered n x).attention = s.attention := rfl
@[simp] theorem State.setGathered_mask (n : LineNo) (x : Gathered) : (s.setGathered n x).mask = s.mask := rfl
@[simp] theorem State.setGathered_violations (n : LineNo) (x : Gathered) : (s.setGathered n x).violations = s.violations := rfl
@[simp] theorem State.setGathered_scrub (n : LineNo) (x : Gathered) : (s.setGathered n x).scrub = s.scrub := rfl
@[simp] theorem State.setGathered_badWords (n : LineNo) (x : Gathered) : (s.setGathered n x).badWords = s.badWords := rfl
@[simp] theorem State.setGathered_patrol (n : LineNo) (x : Gathered) : (s.setGathered n x).patrol = s.patrol := rfl
@[simp] theorem State.setGathered_reportHeads (n : LineNo) (x : Gathered) : (s.setGathered n x).reportHeads = s.reportHeads := rfl
@[simp] theorem State.setGathered_journal (n : LineNo) (x : Gathered) : (s.setGathered n x).journal = s.journal := rfl
@[simp] theorem State.setGathered_timing (n : LineNo) (x : Gathered) : (s.setGathered n x).timing = s.timing := rfl
@[simp] theorem State.setGathered_lines (n : LineNo) (x : Gathered) : (s.setGathered n x).lines = s.lines := rfl
@[simp] theorem State.setGathered_slots (n : LineNo) (x : Gathered) : (s.setGathered n x).slots = s.slots := rfl
@[simp] theorem State.setGathered_bankCounts (n : LineNo) (x : Gathered) : (s.setGathered n x).bankCounts = s.bankCounts := rfl
@[simp] theorem State.setGathered_spare (n : LineNo) (x : Gathered) : (s.setGathered n x).spare = s.spare := rfl
@[simp] theorem State.setGathered_highway (n : LineNo) (x : Gathered) : (s.setGathered n x).highway = s.highway := rfl
@[simp] theorem State.setGathered_pending (n : LineNo) (x : Gathered) : (s.setGathered n x).pending = s.pending := rfl
@[simp] theorem State.setGathered_line (n : LineNo) (x : Gathered) (k : LineNo) :
    (s.setGathered n x).line k = s.line k := rfl
@[simp] theorem State.setGathered_slot (n : LineNo) (x : Gathered) (d : Fin 9) (j : Nat) :
    (s.setGathered n x).slot d j = s.slot d j := rfl
@[simp] theorem State.setGathered_memWord (n : LineNo) (x : Gathered) (k : Nat) :
    (s.setGathered n x).memWord k = s.memWord k := rfl
@[simp] theorem State.setGathered_cover (n : LineNo) (x : Gathered) (k : LineNo) :
    (s.setGathered n x).cover k = s.cover k := rfl
@[simp] theorem State.setGathered_bank (n : LineNo) (x : Gathered) (d : Fin 9) :
    (s.setGathered n x).bank d = s.bank d := rfl
@[simp] theorem State.setGathered_head (n : LineNo) (x : Gathered) (q : Record) :
    (s.setGathered n x).head q = s.head q := rfl
@[simp] theorem State.setGathered_journalSlot (n : LineNo) (x : Gathered) (j : Fin 128) :
    (s.setGathered n x).journalSlot j = s.journalSlot j := rfl

/-! ### setHead -/

@[simp] theorem State.setHead_phase (r : Record) (x : ReportHead) : (s.setHead r x).phase = s.phase := rfl
@[simp] theorem State.setHead_holdreq (r : Record) (x : ReportHead) : (s.setHead r x).holdreq = s.holdreq := rfl
@[simp] theorem State.setHead_port (r : Record) (x : ReportHead) : (s.setHead r x).port = s.port := rfl
@[simp] theorem State.setHead_memory (r : Record) (x : ReportHead) : (s.setHead r x).memory = s.memory := rfl
@[simp] theorem State.setHead_attention (r : Record) (x : ReportHead) : (s.setHead r x).attention = s.attention := rfl
@[simp] theorem State.setHead_mask (r : Record) (x : ReportHead) : (s.setHead r x).mask = s.mask := rfl
@[simp] theorem State.setHead_violations (r : Record) (x : ReportHead) : (s.setHead r x).violations = s.violations := rfl
@[simp] theorem State.setHead_scrub (r : Record) (x : ReportHead) : (s.setHead r x).scrub = s.scrub := rfl
@[simp] theorem State.setHead_badWords (r : Record) (x : ReportHead) : (s.setHead r x).badWords = s.badWords := rfl
@[simp] theorem State.setHead_patrol (r : Record) (x : ReportHead) : (s.setHead r x).patrol = s.patrol := rfl
@[simp] theorem State.setHead_journal (r : Record) (x : ReportHead) : (s.setHead r x).journal = s.journal := rfl
@[simp] theorem State.setHead_timing (r : Record) (x : ReportHead) : (s.setHead r x).timing = s.timing := rfl
@[simp] theorem State.setHead_lines (r : Record) (x : ReportHead) : (s.setHead r x).lines = s.lines := rfl
@[simp] theorem State.setHead_slots (r : Record) (x : ReportHead) : (s.setHead r x).slots = s.slots := rfl
@[simp] theorem State.setHead_bankCounts (r : Record) (x : ReportHead) : (s.setHead r x).bankCounts = s.bankCounts := rfl
@[simp] theorem State.setHead_spare (r : Record) (x : ReportHead) : (s.setHead r x).spare = s.spare := rfl
@[simp] theorem State.setHead_monitorUnit (r : Record) (x : ReportHead) : (s.setHead r x).monitorUnit = s.monitorUnit := rfl
@[simp] theorem State.setHead_highway (r : Record) (x : ReportHead) : (s.setHead r x).highway = s.highway := rfl
@[simp] theorem State.setHead_pending (r : Record) (x : ReportHead) : (s.setHead r x).pending = s.pending := rfl
@[simp] theorem State.setHead_line (r : Record) (x : ReportHead) (k : LineNo) :
    (s.setHead r x).line k = s.line k := rfl
@[simp] theorem State.setHead_slot (r : Record) (x : ReportHead) (d : Fin 9) (j : Nat) :
    (s.setHead r x).slot d j = s.slot d j := rfl
@[simp] theorem State.setHead_memWord (r : Record) (x : ReportHead) (k : Nat) :
    (s.setHead r x).memWord k = s.memWord k := rfl
@[simp] theorem State.setHead_cover (r : Record) (x : ReportHead) (k : LineNo) :
    (s.setHead r x).cover k = s.cover k := rfl
@[simp] theorem State.setHead_bank (r : Record) (x : ReportHead) (d : Fin 9) :
    (s.setHead r x).bank d = s.bank d := rfl
@[simp] theorem State.setHead_monitor (r : Record) (x : ReportHead) (j : MonitorNo) :
    (s.setHead r x).monitor j = s.monitor j := rfl
@[simp] theorem State.setHead_gathered (r : Record) (x : ReportHead) (k : LineNo) :
    (s.setHead r x).gathered k = s.gathered k := rfl
@[simp] theorem State.setHead_journalSlot (r : Record) (x : ReportHead) (j : Fin 128) :
    (s.setHead r x).journalSlot j = s.journalSlot j := rfl

/-! ### setJournalSlot -/

@[simp] theorem State.setJournalSlot_phase (i : Fin 128) (x : JournalSlot) : (s.setJournalSlot i x).phase = s.phase := rfl
@[simp] theorem State.setJournalSlot_holdreq (i : Fin 128) (x : JournalSlot) : (s.setJournalSlot i x).holdreq = s.holdreq := rfl
@[simp] theorem State.setJournalSlot_port (i : Fin 128) (x : JournalSlot) : (s.setJournalSlot i x).port = s.port := rfl
@[simp] theorem State.setJournalSlot_memory (i : Fin 128) (x : JournalSlot) : (s.setJournalSlot i x).memory = s.memory := rfl
@[simp] theorem State.setJournalSlot_attention (i : Fin 128) (x : JournalSlot) : (s.setJournalSlot i x).attention = s.attention := rfl
@[simp] theorem State.setJournalSlot_mask (i : Fin 128) (x : JournalSlot) : (s.setJournalSlot i x).mask = s.mask := rfl
@[simp] theorem State.setJournalSlot_violations (i : Fin 128) (x : JournalSlot) : (s.setJournalSlot i x).violations = s.violations := rfl
@[simp] theorem State.setJournalSlot_scrub (i : Fin 128) (x : JournalSlot) : (s.setJournalSlot i x).scrub = s.scrub := rfl
@[simp] theorem State.setJournalSlot_badWords (i : Fin 128) (x : JournalSlot) : (s.setJournalSlot i x).badWords = s.badWords := rfl
@[simp] theorem State.setJournalSlot_patrol (i : Fin 128) (x : JournalSlot) : (s.setJournalSlot i x).patrol = s.patrol := rfl
@[simp] theorem State.setJournalSlot_reportHeads (i : Fin 128) (x : JournalSlot) : (s.setJournalSlot i x).reportHeads = s.reportHeads := rfl
@[simp] theorem State.setJournalSlot_timing (i : Fin 128) (x : JournalSlot) : (s.setJournalSlot i x).timing = s.timing := rfl
@[simp] theorem State.setJournalSlot_lines (i : Fin 128) (x : JournalSlot) : (s.setJournalSlot i x).lines = s.lines := rfl
@[simp] theorem State.setJournalSlot_slots (i : Fin 128) (x : JournalSlot) : (s.setJournalSlot i x).slots = s.slots := rfl
@[simp] theorem State.setJournalSlot_bankCounts (i : Fin 128) (x : JournalSlot) : (s.setJournalSlot i x).bankCounts = s.bankCounts := rfl
@[simp] theorem State.setJournalSlot_spare (i : Fin 128) (x : JournalSlot) : (s.setJournalSlot i x).spare = s.spare := rfl
@[simp] theorem State.setJournalSlot_monitorUnit (i : Fin 128) (x : JournalSlot) : (s.setJournalSlot i x).monitorUnit = s.monitorUnit := rfl
@[simp] theorem State.setJournalSlot_highway (i : Fin 128) (x : JournalSlot) : (s.setJournalSlot i x).highway = s.highway := rfl
@[simp] theorem State.setJournalSlot_pending (i : Fin 128) (x : JournalSlot) : (s.setJournalSlot i x).pending = s.pending := rfl
@[simp] theorem State.setJournalSlot_line (i : Fin 128) (x : JournalSlot) (k : LineNo) :
    (s.setJournalSlot i x).line k = s.line k := rfl
@[simp] theorem State.setJournalSlot_slot (i : Fin 128) (x : JournalSlot) (d : Fin 9) (j : Nat) :
    (s.setJournalSlot i x).slot d j = s.slot d j := rfl
@[simp] theorem State.setJournalSlot_memWord (i : Fin 128) (x : JournalSlot) (k : Nat) :
    (s.setJournalSlot i x).memWord k = s.memWord k := rfl
@[simp] theorem State.setJournalSlot_cover (i : Fin 128) (x : JournalSlot) (k : LineNo) :
    (s.setJournalSlot i x).cover k = s.cover k := rfl
@[simp] theorem State.setJournalSlot_bank (i : Fin 128) (x : JournalSlot) (d : Fin 9) :
    (s.setJournalSlot i x).bank d = s.bank d := rfl
@[simp] theorem State.setJournalSlot_monitor (i : Fin 128) (x : JournalSlot) (j : MonitorNo) :
    (s.setJournalSlot i x).monitor j = s.monitor j := rfl
@[simp] theorem State.setJournalSlot_gathered (i : Fin 128) (x : JournalSlot) (k : LineNo) :
    (s.setJournalSlot i x).gathered k = s.gathered k := rfl
@[simp] theorem State.setJournalSlot_head (i : Fin 128) (x : JournalSlot) (q : Record) :
    (s.setJournalSlot i x).head q = s.head q := rfl

/-! ### modTiming -/

@[simp] theorem State.modTiming_phase (f : Timing → Timing) : (s.modTiming f).phase = s.phase := rfl
@[simp] theorem State.modTiming_holdreq (f : Timing → Timing) : (s.modTiming f).holdreq = s.holdreq := rfl
@[simp] theorem State.modTiming_port (f : Timing → Timing) : (s.modTiming f).port = s.port := rfl
@[simp] theorem State.modTiming_memory (f : Timing → Timing) : (s.modTiming f).memory = s.memory := rfl
@[simp] theorem State.modTiming_attention (f : Timing → Timing) : (s.modTiming f).attention = s.attention := rfl
@[simp] theorem State.modTiming_mask (f : Timing → Timing) : (s.modTiming f).mask = s.mask := rfl
@[simp] theorem State.modTiming_violations (f : Timing → Timing) : (s.modTiming f).violations = s.violations := rfl
@[simp] theorem State.modTiming_scrub (f : Timing → Timing) : (s.modTiming f).scrub = s.scrub := rfl
@[simp] theorem State.modTiming_badWords (f : Timing → Timing) : (s.modTiming f).badWords = s.badWords := rfl
@[simp] theorem State.modTiming_patrol (f : Timing → Timing) : (s.modTiming f).patrol = s.patrol := rfl
@[simp] theorem State.modTiming_reportHeads (f : Timing → Timing) : (s.modTiming f).reportHeads = s.reportHeads := rfl
@[simp] theorem State.modTiming_journal (f : Timing → Timing) : (s.modTiming f).journal = s.journal := rfl
@[simp] theorem State.modTiming_lines (f : Timing → Timing) : (s.modTiming f).lines = s.lines := rfl
@[simp] theorem State.modTiming_slots (f : Timing → Timing) : (s.modTiming f).slots = s.slots := rfl
@[simp] theorem State.modTiming_bankCounts (f : Timing → Timing) : (s.modTiming f).bankCounts = s.bankCounts := rfl
@[simp] theorem State.modTiming_spare (f : Timing → Timing) : (s.modTiming f).spare = s.spare := rfl
@[simp] theorem State.modTiming_monitorUnit (f : Timing → Timing) : (s.modTiming f).monitorUnit = s.monitorUnit := rfl
@[simp] theorem State.modTiming_highway (f : Timing → Timing) : (s.modTiming f).highway = s.highway := rfl
@[simp] theorem State.modTiming_pending (f : Timing → Timing) : (s.modTiming f).pending = s.pending := rfl
@[simp] theorem State.modTiming_line (f : Timing → Timing) (k : LineNo) :
    (s.modTiming f).line k = s.line k := rfl
@[simp] theorem State.modTiming_slot (f : Timing → Timing) (d : Fin 9) (j : Nat) :
    (s.modTiming f).slot d j = s.slot d j := rfl
@[simp] theorem State.modTiming_memWord (f : Timing → Timing) (k : Nat) :
    (s.modTiming f).memWord k = s.memWord k := rfl
@[simp] theorem State.modTiming_cover (f : Timing → Timing) (k : LineNo) :
    (s.modTiming f).cover k = s.cover k := rfl
@[simp] theorem State.modTiming_bank (f : Timing → Timing) (d : Fin 9) :
    (s.modTiming f).bank d = s.bank d := rfl
@[simp] theorem State.modTiming_monitor (f : Timing → Timing) (j : MonitorNo) :
    (s.modTiming f).monitor j = s.monitor j := rfl
@[simp] theorem State.modTiming_gathered (f : Timing → Timing) (k : LineNo) :
    (s.modTiming f).gathered k = s.gathered k := rfl
@[simp] theorem State.modTiming_head (f : Timing → Timing) (q : Record) :
    (s.modTiming f).head q = s.head q := rfl
@[simp] theorem State.modTiming_journalSlot (f : Timing → Timing) (j : Fin 128) :
    (s.modTiming f).journalSlot j = s.journalSlot j := rfl

/-! ### modBus -/

@[simp] theorem State.modBus_phase (x : Bus) (f : BusMonitor → BusMonitor) : (s.modBus x f).phase = s.phase := rfl
@[simp] theorem State.modBus_holdreq (x : Bus) (f : BusMonitor → BusMonitor) : (s.modBus x f).holdreq = s.holdreq := rfl
@[simp] theorem State.modBus_port (x : Bus) (f : BusMonitor → BusMonitor) : (s.modBus x f).port = s.port := rfl
@[simp] theorem State.modBus_memory (x : Bus) (f : BusMonitor → BusMonitor) : (s.modBus x f).memory = s.memory := rfl
@[simp] theorem State.modBus_attention (x : Bus) (f : BusMonitor → BusMonitor) : (s.modBus x f).attention = s.attention := rfl
@[simp] theorem State.modBus_mask (x : Bus) (f : BusMonitor → BusMonitor) : (s.modBus x f).mask = s.mask := rfl
@[simp] theorem State.modBus_violations (x : Bus) (f : BusMonitor → BusMonitor) : (s.modBus x f).violations = s.violations := rfl
@[simp] theorem State.modBus_scrub (x : Bus) (f : BusMonitor → BusMonitor) : (s.modBus x f).scrub = s.scrub := rfl
@[simp] theorem State.modBus_badWords (x : Bus) (f : BusMonitor → BusMonitor) : (s.modBus x f).badWords = s.badWords := rfl
@[simp] theorem State.modBus_patrol (x : Bus) (f : BusMonitor → BusMonitor) : (s.modBus x f).patrol = s.patrol := rfl
@[simp] theorem State.modBus_reportHeads (x : Bus) (f : BusMonitor → BusMonitor) : (s.modBus x f).reportHeads = s.reportHeads := rfl
@[simp] theorem State.modBus_journal (x : Bus) (f : BusMonitor → BusMonitor) : (s.modBus x f).journal = s.journal := rfl
@[simp] theorem State.modBus_lines (x : Bus) (f : BusMonitor → BusMonitor) : (s.modBus x f).lines = s.lines := rfl
@[simp] theorem State.modBus_slots (x : Bus) (f : BusMonitor → BusMonitor) : (s.modBus x f).slots = s.slots := rfl
@[simp] theorem State.modBus_bankCounts (x : Bus) (f : BusMonitor → BusMonitor) : (s.modBus x f).bankCounts = s.bankCounts := rfl
@[simp] theorem State.modBus_spare (x : Bus) (f : BusMonitor → BusMonitor) : (s.modBus x f).spare = s.spare := rfl
@[simp] theorem State.modBus_monitorUnit (x : Bus) (f : BusMonitor → BusMonitor) : (s.modBus x f).monitorUnit = s.monitorUnit := rfl
@[simp] theorem State.modBus_highway (x : Bus) (f : BusMonitor → BusMonitor) : (s.modBus x f).highway = s.highway := rfl
@[simp] theorem State.modBus_pending (x : Bus) (f : BusMonitor → BusMonitor) : (s.modBus x f).pending = s.pending := rfl
@[simp] theorem State.modBus_line (x : Bus) (f : BusMonitor → BusMonitor) (k : LineNo) :
    (s.modBus x f).line k = s.line k := rfl
@[simp] theorem State.modBus_slot (x : Bus) (f : BusMonitor → BusMonitor) (d : Fin 9) (j : Nat) :
    (s.modBus x f).slot d j = s.slot d j := rfl
@[simp] theorem State.modBus_memWord (x : Bus) (f : BusMonitor → BusMonitor) (k : Nat) :
    (s.modBus x f).memWord k = s.memWord k := rfl
@[simp] theorem State.modBus_cover (x : Bus) (f : BusMonitor → BusMonitor) (k : LineNo) :
    (s.modBus x f).cover k = s.cover k := rfl
@[simp] theorem State.modBus_bank (x : Bus) (f : BusMonitor → BusMonitor) (d : Fin 9) :
    (s.modBus x f).bank d = s.bank d := rfl
@[simp] theorem State.modBus_monitor (x : Bus) (f : BusMonitor → BusMonitor) (j : MonitorNo) :
    (s.modBus x f).monitor j = s.monitor j := rfl
@[simp] theorem State.modBus_gathered (x : Bus) (f : BusMonitor → BusMonitor) (k : LineNo) :
    (s.modBus x f).gathered k = s.gathered k := rfl
@[simp] theorem State.modBus_head (x : Bus) (f : BusMonitor → BusMonitor) (q : Record) :
    (s.modBus x f).head q = s.head q := rfl
@[simp] theorem State.modBus_journalSlot (x : Bus) (f : BusMonitor → BusMonitor) (j : Fin 128) :
    (s.modBus x f).journalSlot j = s.journalSlot j := rfl

/-! ### setSlot -/

@[simp] theorem State.setSlot_phase (b : Fin 9) (i : Nat) (x : Slot) : (s.setSlot b i x).phase = s.phase := rfl
@[simp] theorem State.setSlot_holdreq (b : Fin 9) (i : Nat) (x : Slot) : (s.setSlot b i x).holdreq = s.holdreq := rfl
@[simp] theorem State.setSlot_port (b : Fin 9) (i : Nat) (x : Slot) : (s.setSlot b i x).port = s.port := rfl
@[simp] theorem State.setSlot_memory (b : Fin 9) (i : Nat) (x : Slot) : (s.setSlot b i x).memory = s.memory := rfl
@[simp] theorem State.setSlot_attention (b : Fin 9) (i : Nat) (x : Slot) : (s.setSlot b i x).attention = s.attention := rfl
@[simp] theorem State.setSlot_mask (b : Fin 9) (i : Nat) (x : Slot) : (s.setSlot b i x).mask = s.mask := rfl
@[simp] theorem State.setSlot_violations (b : Fin 9) (i : Nat) (x : Slot) : (s.setSlot b i x).violations = s.violations := rfl
@[simp] theorem State.setSlot_scrub (b : Fin 9) (i : Nat) (x : Slot) : (s.setSlot b i x).scrub = s.scrub := rfl
@[simp] theorem State.setSlot_badWords (b : Fin 9) (i : Nat) (x : Slot) : (s.setSlot b i x).badWords = s.badWords := rfl
@[simp] theorem State.setSlot_patrol (b : Fin 9) (i : Nat) (x : Slot) : (s.setSlot b i x).patrol = s.patrol := rfl
@[simp] theorem State.setSlot_reportHeads (b : Fin 9) (i : Nat) (x : Slot) : (s.setSlot b i x).reportHeads = s.reportHeads := rfl
@[simp] theorem State.setSlot_journal (b : Fin 9) (i : Nat) (x : Slot) : (s.setSlot b i x).journal = s.journal := rfl
@[simp] theorem State.setSlot_timing (b : Fin 9) (i : Nat) (x : Slot) : (s.setSlot b i x).timing = s.timing := rfl
@[simp] theorem State.setSlot_lines (b : Fin 9) (i : Nat) (x : Slot) : (s.setSlot b i x).lines = s.lines := rfl
@[simp] theorem State.setSlot_bankCounts (b : Fin 9) (i : Nat) (x : Slot) : (s.setSlot b i x).bankCounts = s.bankCounts := rfl
@[simp] theorem State.setSlot_spare (b : Fin 9) (i : Nat) (x : Slot) : (s.setSlot b i x).spare = s.spare := rfl
@[simp] theorem State.setSlot_monitorUnit (b : Fin 9) (i : Nat) (x : Slot) : (s.setSlot b i x).monitorUnit = s.monitorUnit := rfl
@[simp] theorem State.setSlot_highway (b : Fin 9) (i : Nat) (x : Slot) : (s.setSlot b i x).highway = s.highway := rfl
@[simp] theorem State.setSlot_pending (b : Fin 9) (i : Nat) (x : Slot) : (s.setSlot b i x).pending = s.pending := rfl
@[simp] theorem State.setSlot_line (b : Fin 9) (i : Nat) (x : Slot) (k : LineNo) :
    (s.setSlot b i x).line k = s.line k := rfl
@[simp] theorem State.setSlot_memWord (b : Fin 9) (i : Nat) (x : Slot) (k : Nat) :
    (s.setSlot b i x).memWord k = s.memWord k := rfl
@[simp] theorem State.setSlot_cover (b : Fin 9) (i : Nat) (x : Slot) (k : LineNo) :
    (s.setSlot b i x).cover k = s.cover k := rfl
@[simp] theorem State.setSlot_bank (b : Fin 9) (i : Nat) (x : Slot) (d : Fin 9) :
    (s.setSlot b i x).bank d = s.bank d := rfl
@[simp] theorem State.setSlot_monitor (b : Fin 9) (i : Nat) (x : Slot) (j : MonitorNo) :
    (s.setSlot b i x).monitor j = s.monitor j := rfl
@[simp] theorem State.setSlot_gathered (b : Fin 9) (i : Nat) (x : Slot) (k : LineNo) :
    (s.setSlot b i x).gathered k = s.gathered k := rfl
@[simp] theorem State.setSlot_head (b : Fin 9) (i : Nat) (x : Slot) (q : Record) :
    (s.setSlot b i x).head q = s.head q := rfl
@[simp] theorem State.setSlot_journalSlot (b : Fin 9) (i : Nat) (x : Slot) (j : Fin 128) :
    (s.setSlot b i x).journalSlot j = s.journalSlot j := rfl

/-! ### answerPort -/

@[simp] theorem State.answerPort_phase (x : PortResult) : (s.answerPort x).phase = s.phase := rfl
@[simp] theorem State.answerPort_holdreq (x : PortResult) : (s.answerPort x).holdreq = s.holdreq := rfl
@[simp] theorem State.answerPort_memory (x : PortResult) : (s.answerPort x).memory = s.memory := rfl
@[simp] theorem State.answerPort_attention (x : PortResult) : (s.answerPort x).attention = s.attention := rfl
@[simp] theorem State.answerPort_mask (x : PortResult) : (s.answerPort x).mask = s.mask := rfl
@[simp] theorem State.answerPort_violations (x : PortResult) : (s.answerPort x).violations = s.violations := rfl
@[simp] theorem State.answerPort_scrub (x : PortResult) : (s.answerPort x).scrub = s.scrub := rfl
@[simp] theorem State.answerPort_badWords (x : PortResult) : (s.answerPort x).badWords = s.badWords := rfl
@[simp] theorem State.answerPort_patrol (x : PortResult) : (s.answerPort x).patrol = s.patrol := rfl
@[simp] theorem State.answerPort_reportHeads (x : PortResult) : (s.answerPort x).reportHeads = s.reportHeads := rfl
@[simp] theorem State.answerPort_journal (x : PortResult) : (s.answerPort x).journal = s.journal := rfl
@[simp] theorem State.answerPort_timing (x : PortResult) : (s.answerPort x).timing = s.timing := rfl
@[simp] theorem State.answerPort_lines (x : PortResult) : (s.answerPort x).lines = s.lines := rfl
@[simp] theorem State.answerPort_slots (x : PortResult) : (s.answerPort x).slots = s.slots := rfl
@[simp] theorem State.answerPort_bankCounts (x : PortResult) : (s.answerPort x).bankCounts = s.bankCounts := rfl
@[simp] theorem State.answerPort_spare (x : PortResult) : (s.answerPort x).spare = s.spare := rfl
@[simp] theorem State.answerPort_monitorUnit (x : PortResult) : (s.answerPort x).monitorUnit = s.monitorUnit := rfl
@[simp] theorem State.answerPort_highway (x : PortResult) : (s.answerPort x).highway = s.highway := rfl
@[simp] theorem State.answerPort_pending (x : PortResult) : (s.answerPort x).pending = s.pending := rfl
@[simp] theorem State.answerPort_line (x : PortResult) (k : LineNo) :
    (s.answerPort x).line k = s.line k := rfl
@[simp] theorem State.answerPort_slot (x : PortResult) (d : Fin 9) (j : Nat) :
    (s.answerPort x).slot d j = s.slot d j := rfl
@[simp] theorem State.answerPort_memWord (x : PortResult) (k : Nat) :
    (s.answerPort x).memWord k = s.memWord k := rfl
@[simp] theorem State.answerPort_cover (x : PortResult) (k : LineNo) :
    (s.answerPort x).cover k = s.cover k := rfl
@[simp] theorem State.answerPort_bank (x : PortResult) (d : Fin 9) :
    (s.answerPort x).bank d = s.bank d := rfl
@[simp] theorem State.answerPort_monitor (x : PortResult) (j : MonitorNo) :
    (s.answerPort x).monitor j = s.monitor j := rfl
@[simp] theorem State.answerPort_gathered (x : PortResult) (k : LineNo) :
    (s.answerPort x).gathered k = s.gathered k := rfl
@[simp] theorem State.answerPort_head (x : PortResult) (q : Record) :
    (s.answerPort x).head q = s.head q := rfl
@[simp] theorem State.answerPort_journalSlot (x : PortResult) (j : Fin 128) :
    (s.answerPort x).journalSlot j = s.journalSlot j := rfl

/-! ### modJournal -/

@[simp] theorem State.modJournal_phase (f : Journal → Journal) : (s.modJournal f).phase = s.phase := rfl
@[simp] theorem State.modJournal_holdreq (f : Journal → Journal) : (s.modJournal f).holdreq = s.holdreq := rfl
@[simp] theorem State.modJournal_port (f : Journal → Journal) : (s.modJournal f).port = s.port := rfl
@[simp] theorem State.modJournal_memory (f : Journal → Journal) : (s.modJournal f).memory = s.memory := rfl
@[simp] theorem State.modJournal_attention (f : Journal → Journal) : (s.modJournal f).attention = s.attention := rfl
@[simp] theorem State.modJournal_mask (f : Journal → Journal) : (s.modJournal f).mask = s.mask := rfl
@[simp] theorem State.modJournal_violations (f : Journal → Journal) : (s.modJournal f).violations = s.violations := rfl
@[simp] theorem State.modJournal_scrub (f : Journal → Journal) : (s.modJournal f).scrub = s.scrub := rfl
@[simp] theorem State.modJournal_badWords (f : Journal → Journal) : (s.modJournal f).badWords = s.badWords := rfl
@[simp] theorem State.modJournal_patrol (f : Journal → Journal) : (s.modJournal f).patrol = s.patrol := rfl
@[simp] theorem State.modJournal_reportHeads (f : Journal → Journal) : (s.modJournal f).reportHeads = s.reportHeads := rfl
@[simp] theorem State.modJournal_timing (f : Journal → Journal) : (s.modJournal f).timing = s.timing := rfl
@[simp] theorem State.modJournal_lines (f : Journal → Journal) : (s.modJournal f).lines = s.lines := rfl
@[simp] theorem State.modJournal_slots (f : Journal → Journal) : (s.modJournal f).slots = s.slots := rfl
@[simp] theorem State.modJournal_bankCounts (f : Journal → Journal) : (s.modJournal f).bankCounts = s.bankCounts := rfl
@[simp] theorem State.modJournal_spare (f : Journal → Journal) : (s.modJournal f).spare = s.spare := rfl
@[simp] theorem State.modJournal_monitorUnit (f : Journal → Journal) : (s.modJournal f).monitorUnit = s.monitorUnit := rfl
@[simp] theorem State.modJournal_highway (f : Journal → Journal) : (s.modJournal f).highway = s.highway := rfl
@[simp] theorem State.modJournal_pending (f : Journal → Journal) : (s.modJournal f).pending = s.pending := rfl
@[simp] theorem State.modJournal_line (f : Journal → Journal) (k : LineNo) :
    (s.modJournal f).line k = s.line k := rfl
@[simp] theorem State.modJournal_slot (f : Journal → Journal) (d : Fin 9) (j : Nat) :
    (s.modJournal f).slot d j = s.slot d j := rfl
@[simp] theorem State.modJournal_memWord (f : Journal → Journal) (k : Nat) :
    (s.modJournal f).memWord k = s.memWord k := rfl
@[simp] theorem State.modJournal_cover (f : Journal → Journal) (k : LineNo) :
    (s.modJournal f).cover k = s.cover k := rfl
@[simp] theorem State.modJournal_bank (f : Journal → Journal) (d : Fin 9) :
    (s.modJournal f).bank d = s.bank d := rfl
@[simp] theorem State.modJournal_monitor (f : Journal → Journal) (j : MonitorNo) :
    (s.modJournal f).monitor j = s.monitor j := rfl
@[simp] theorem State.modJournal_gathered (f : Journal → Journal) (k : LineNo) :
    (s.modJournal f).gathered k = s.gathered k := rfl
@[simp] theorem State.modJournal_head (f : Journal → Journal) (q : Record) :
    (s.modJournal f).head q = s.head q := rfl

/-! ### modAttention -/

@[simp] theorem State.modAttention_phase (f : Attention → Attention) : (s.modAttention f).phase = s.phase := rfl
@[simp] theorem State.modAttention_holdreq (f : Attention → Attention) : (s.modAttention f).holdreq = s.holdreq := rfl
@[simp] theorem State.modAttention_port (f : Attention → Attention) : (s.modAttention f).port = s.port := rfl
@[simp] theorem State.modAttention_memory (f : Attention → Attention) : (s.modAttention f).memory = s.memory := rfl
@[simp] theorem State.modAttention_mask (f : Attention → Attention) : (s.modAttention f).mask = s.mask := rfl
@[simp] theorem State.modAttention_violations (f : Attention → Attention) : (s.modAttention f).violations = s.violations := rfl
@[simp] theorem State.modAttention_scrub (f : Attention → Attention) : (s.modAttention f).scrub = s.scrub := rfl
@[simp] theorem State.modAttention_badWords (f : Attention → Attention) : (s.modAttention f).badWords = s.badWords := rfl
@[simp] theorem State.modAttention_patrol (f : Attention → Attention) : (s.modAttention f).patrol = s.patrol := rfl
@[simp] theorem State.modAttention_reportHeads (f : Attention → Attention) : (s.modAttention f).reportHeads = s.reportHeads := rfl
@[simp] theorem State.modAttention_journal (f : Attention → Attention) : (s.modAttention f).journal = s.journal := rfl
@[simp] theorem State.modAttention_timing (f : Attention → Attention) : (s.modAttention f).timing = s.timing := rfl
@[simp] theorem State.modAttention_lines (f : Attention → Attention) : (s.modAttention f).lines = s.lines := rfl
@[simp] theorem State.modAttention_slots (f : Attention → Attention) : (s.modAttention f).slots = s.slots := rfl
@[simp] theorem State.modAttention_bankCounts (f : Attention → Attention) : (s.modAttention f).bankCounts = s.bankCounts := rfl
@[simp] theorem State.modAttention_spare (f : Attention → Attention) : (s.modAttention f).spare = s.spare := rfl
@[simp] theorem State.modAttention_monitorUnit (f : Attention → Attention) : (s.modAttention f).monitorUnit = s.monitorUnit := rfl
@[simp] theorem State.modAttention_highway (f : Attention → Attention) : (s.modAttention f).highway = s.highway := rfl
@[simp] theorem State.modAttention_pending (f : Attention → Attention) : (s.modAttention f).pending = s.pending := rfl
@[simp] theorem State.modAttention_line (f : Attention → Attention) (k : LineNo) :
    (s.modAttention f).line k = s.line k := rfl
@[simp] theorem State.modAttention_slot (f : Attention → Attention) (d : Fin 9) (j : Nat) :
    (s.modAttention f).slot d j = s.slot d j := rfl
@[simp] theorem State.modAttention_memWord (f : Attention → Attention) (k : Nat) :
    (s.modAttention f).memWord k = s.memWord k := rfl
@[simp] theorem State.modAttention_cover (f : Attention → Attention) (k : LineNo) :
    (s.modAttention f).cover k = s.cover k := rfl
@[simp] theorem State.modAttention_bank (f : Attention → Attention) (d : Fin 9) :
    (s.modAttention f).bank d = s.bank d := rfl
@[simp] theorem State.modAttention_monitor (f : Attention → Attention) (j : MonitorNo) :
    (s.modAttention f).monitor j = s.monitor j := rfl
@[simp] theorem State.modAttention_gathered (f : Attention → Attention) (k : LineNo) :
    (s.modAttention f).gathered k = s.gathered k := rfl
@[simp] theorem State.modAttention_head (f : Attention → Attention) (q : Record) :
    (s.modAttention f).head q = s.head q := rfl
@[simp] theorem State.modAttention_journalSlot (f : Attention → Attention) (j : Fin 128) :
    (s.modAttention f).journalSlot j = s.journalSlot j := rfl

/-! ### modSpare -/

@[simp] theorem State.modSpare_phase (f : Spare → Spare) : (s.modSpare f).phase = s.phase := rfl
@[simp] theorem State.modSpare_holdreq (f : Spare → Spare) : (s.modSpare f).holdreq = s.holdreq := rfl
@[simp] theorem State.modSpare_port (f : Spare → Spare) : (s.modSpare f).port = s.port := rfl
@[simp] theorem State.modSpare_memory (f : Spare → Spare) : (s.modSpare f).memory = s.memory := rfl
@[simp] theorem State.modSpare_attention (f : Spare → Spare) : (s.modSpare f).attention = s.attention := rfl
@[simp] theorem State.modSpare_mask (f : Spare → Spare) : (s.modSpare f).mask = s.mask := rfl
@[simp] theorem State.modSpare_violations (f : Spare → Spare) : (s.modSpare f).violations = s.violations := rfl
@[simp] theorem State.modSpare_scrub (f : Spare → Spare) : (s.modSpare f).scrub = s.scrub := rfl
@[simp] theorem State.modSpare_badWords (f : Spare → Spare) : (s.modSpare f).badWords = s.badWords := rfl
@[simp] theorem State.modSpare_patrol (f : Spare → Spare) : (s.modSpare f).patrol = s.patrol := rfl
@[simp] theorem State.modSpare_reportHeads (f : Spare → Spare) : (s.modSpare f).reportHeads = s.reportHeads := rfl
@[simp] theorem State.modSpare_journal (f : Spare → Spare) : (s.modSpare f).journal = s.journal := rfl
@[simp] theorem State.modSpare_timing (f : Spare → Spare) : (s.modSpare f).timing = s.timing := rfl
@[simp] theorem State.modSpare_lines (f : Spare → Spare) : (s.modSpare f).lines = s.lines := rfl
@[simp] theorem State.modSpare_slots (f : Spare → Spare) : (s.modSpare f).slots = s.slots := rfl
@[simp] theorem State.modSpare_bankCounts (f : Spare → Spare) : (s.modSpare f).bankCounts = s.bankCounts := rfl
@[simp] theorem State.modSpare_monitorUnit (f : Spare → Spare) : (s.modSpare f).monitorUnit = s.monitorUnit := rfl
@[simp] theorem State.modSpare_highway (f : Spare → Spare) : (s.modSpare f).highway = s.highway := rfl
@[simp] theorem State.modSpare_pending (f : Spare → Spare) : (s.modSpare f).pending = s.pending := rfl
@[simp] theorem State.modSpare_line (f : Spare → Spare) (k : LineNo) :
    (s.modSpare f).line k = s.line k := rfl
@[simp] theorem State.modSpare_slot (f : Spare → Spare) (d : Fin 9) (j : Nat) :
    (s.modSpare f).slot d j = s.slot d j := rfl
@[simp] theorem State.modSpare_memWord (f : Spare → Spare) (k : Nat) :
    (s.modSpare f).memWord k = s.memWord k := rfl
@[simp] theorem State.modSpare_bank (f : Spare → Spare) (d : Fin 9) :
    (s.modSpare f).bank d = s.bank d := rfl
@[simp] theorem State.modSpare_monitor (f : Spare → Spare) (j : MonitorNo) :
    (s.modSpare f).monitor j = s.monitor j := rfl
@[simp] theorem State.modSpare_gathered (f : Spare → Spare) (k : LineNo) :
    (s.modSpare f).gathered k = s.gathered k := rfl
@[simp] theorem State.modSpare_head (f : Spare → Spare) (q : Record) :
    (s.modSpare f).head q = s.head q := rfl
@[simp] theorem State.modSpare_journalSlot (f : Spare → Spare) (j : Fin 128) :
    (s.modSpare f).journalSlot j = s.journalSlot j := rfl

/-! ### modMonitorUnit -/

@[simp] theorem State.modMonitorUnit_phase (f : MonitorUnit → MonitorUnit) : (s.modMonitorUnit f).phase = s.phase := rfl
@[simp] theorem State.modMonitorUnit_holdreq (f : MonitorUnit → MonitorUnit) : (s.modMonitorUnit f).holdreq = s.holdreq := rfl
@[simp] theorem State.modMonitorUnit_port (f : MonitorUnit → MonitorUnit) : (s.modMonitorUnit f).port = s.port := rfl
@[simp] theorem State.modMonitorUnit_memory (f : MonitorUnit → MonitorUnit) : (s.modMonitorUnit f).memory = s.memory := rfl
@[simp] theorem State.modMonitorUnit_attention (f : MonitorUnit → MonitorUnit) : (s.modMonitorUnit f).attention = s.attention := rfl
@[simp] theorem State.modMonitorUnit_mask (f : MonitorUnit → MonitorUnit) : (s.modMonitorUnit f).mask = s.mask := rfl
@[simp] theorem State.modMonitorUnit_violations (f : MonitorUnit → MonitorUnit) : (s.modMonitorUnit f).violations = s.violations := rfl
@[simp] theorem State.modMonitorUnit_scrub (f : MonitorUnit → MonitorUnit) : (s.modMonitorUnit f).scrub = s.scrub := rfl
@[simp] theorem State.modMonitorUnit_badWords (f : MonitorUnit → MonitorUnit) : (s.modMonitorUnit f).badWords = s.badWords := rfl
@[simp] theorem State.modMonitorUnit_patrol (f : MonitorUnit → MonitorUnit) : (s.modMonitorUnit f).patrol = s.patrol := rfl
@[simp] theorem State.modMonitorUnit_reportHeads (f : MonitorUnit → MonitorUnit) : (s.modMonitorUnit f).reportHeads = s.reportHeads := rfl
@[simp] theorem State.modMonitorUnit_journal (f : MonitorUnit → MonitorUnit) : (s.modMonitorUnit f).journal = s.journal := rfl
@[simp] theorem State.modMonitorUnit_timing (f : MonitorUnit → MonitorUnit) : (s.modMonitorUnit f).timing = s.timing := rfl
@[simp] theorem State.modMonitorUnit_lines (f : MonitorUnit → MonitorUnit) : (s.modMonitorUnit f).lines = s.lines := rfl
@[simp] theorem State.modMonitorUnit_slots (f : MonitorUnit → MonitorUnit) : (s.modMonitorUnit f).slots = s.slots := rfl
@[simp] theorem State.modMonitorUnit_bankCounts (f : MonitorUnit → MonitorUnit) : (s.modMonitorUnit f).bankCounts = s.bankCounts := rfl
@[simp] theorem State.modMonitorUnit_spare (f : MonitorUnit → MonitorUnit) : (s.modMonitorUnit f).spare = s.spare := rfl
@[simp] theorem State.modMonitorUnit_highway (f : MonitorUnit → MonitorUnit) : (s.modMonitorUnit f).highway = s.highway := rfl
@[simp] theorem State.modMonitorUnit_pending (f : MonitorUnit → MonitorUnit) : (s.modMonitorUnit f).pending = s.pending := rfl
@[simp] theorem State.modMonitorUnit_line (f : MonitorUnit → MonitorUnit) (k : LineNo) :
    (s.modMonitorUnit f).line k = s.line k := rfl
@[simp] theorem State.modMonitorUnit_slot (f : MonitorUnit → MonitorUnit) (d : Fin 9) (j : Nat) :
    (s.modMonitorUnit f).slot d j = s.slot d j := rfl
@[simp] theorem State.modMonitorUnit_memWord (f : MonitorUnit → MonitorUnit) (k : Nat) :
    (s.modMonitorUnit f).memWord k = s.memWord k := rfl
@[simp] theorem State.modMonitorUnit_cover (f : MonitorUnit → MonitorUnit) (k : LineNo) :
    (s.modMonitorUnit f).cover k = s.cover k := rfl
@[simp] theorem State.modMonitorUnit_bank (f : MonitorUnit → MonitorUnit) (d : Fin 9) :
    (s.modMonitorUnit f).bank d = s.bank d := rfl
@[simp] theorem State.modMonitorUnit_head (f : MonitorUnit → MonitorUnit) (q : Record) :
    (s.modMonitorUnit f).head q = s.head q := rfl
@[simp] theorem State.modMonitorUnit_journalSlot (f : MonitorUnit → MonitorUnit) (j : Fin 128) :
    (s.modMonitorUnit f).journalSlot j = s.journalSlot j := rfl

/-! ### modHighway -/

@[simp] theorem State.modHighway_phase (f : Highway → Highway) : (s.modHighway f).phase = s.phase := rfl
@[simp] theorem State.modHighway_holdreq (f : Highway → Highway) : (s.modHighway f).holdreq = s.holdreq := rfl
@[simp] theorem State.modHighway_port (f : Highway → Highway) : (s.modHighway f).port = s.port := rfl
@[simp] theorem State.modHighway_memory (f : Highway → Highway) : (s.modHighway f).memory = s.memory := rfl
@[simp] theorem State.modHighway_attention (f : Highway → Highway) : (s.modHighway f).attention = s.attention := rfl
@[simp] theorem State.modHighway_mask (f : Highway → Highway) : (s.modHighway f).mask = s.mask := rfl
@[simp] theorem State.modHighway_violations (f : Highway → Highway) : (s.modHighway f).violations = s.violations := rfl
@[simp] theorem State.modHighway_scrub (f : Highway → Highway) : (s.modHighway f).scrub = s.scrub := rfl
@[simp] theorem State.modHighway_badWords (f : Highway → Highway) : (s.modHighway f).badWords = s.badWords := rfl
@[simp] theorem State.modHighway_patrol (f : Highway → Highway) : (s.modHighway f).patrol = s.patrol := rfl
@[simp] theorem State.modHighway_reportHeads (f : Highway → Highway) : (s.modHighway f).reportHeads = s.reportHeads := rfl
@[simp] theorem State.modHighway_journal (f : Highway → Highway) : (s.modHighway f).journal = s.journal := rfl
@[simp] theorem State.modHighway_timing (f : Highway → Highway) : (s.modHighway f).timing = s.timing := rfl
@[simp] theorem State.modHighway_lines (f : Highway → Highway) : (s.modHighway f).lines = s.lines := rfl
@[simp] theorem State.modHighway_slots (f : Highway → Highway) : (s.modHighway f).slots = s.slots := rfl
@[simp] theorem State.modHighway_bankCounts (f : Highway → Highway) : (s.modHighway f).bankCounts = s.bankCounts := rfl
@[simp] theorem State.modHighway_spare (f : Highway → Highway) : (s.modHighway f).spare = s.spare := rfl
@[simp] theorem State.modHighway_monitorUnit (f : Highway → Highway) : (s.modHighway f).monitorUnit = s.monitorUnit := rfl
@[simp] theorem State.modHighway_pending (f : Highway → Highway) : (s.modHighway f).pending = s.pending := rfl
@[simp] theorem State.modHighway_line (f : Highway → Highway) (k : LineNo) :
    (s.modHighway f).line k = s.line k := rfl
@[simp] theorem State.modHighway_slot (f : Highway → Highway) (d : Fin 9) (j : Nat) :
    (s.modHighway f).slot d j = s.slot d j := rfl
@[simp] theorem State.modHighway_memWord (f : Highway → Highway) (k : Nat) :
    (s.modHighway f).memWord k = s.memWord k := rfl
@[simp] theorem State.modHighway_cover (f : Highway → Highway) (k : LineNo) :
    (s.modHighway f).cover k = s.cover k := rfl
@[simp] theorem State.modHighway_bank (f : Highway → Highway) (d : Fin 9) :
    (s.modHighway f).bank d = s.bank d := rfl
@[simp] theorem State.modHighway_monitor (f : Highway → Highway) (j : MonitorNo) :
    (s.modHighway f).monitor j = s.monitor j := rfl
@[simp] theorem State.modHighway_gathered (f : Highway → Highway) (k : LineNo) :
    (s.modHighway f).gathered k = s.gathered k := rfl
@[simp] theorem State.modHighway_head (f : Highway → Highway) (q : Record) :
    (s.modHighway f).head q = s.head q := rfl
@[simp] theorem State.modHighway_journalSlot (f : Highway → Highway) (j : Fin 128) :
    (s.modHighway f).journalSlot j = s.journalSlot j := rfl

/-! ### modPatrol -/

@[simp] theorem State.modPatrol_phase (f : Patrol → Patrol) : (s.modPatrol f).phase = s.phase := rfl
@[simp] theorem State.modPatrol_holdreq (f : Patrol → Patrol) : (s.modPatrol f).holdreq = s.holdreq := rfl
@[simp] theorem State.modPatrol_port (f : Patrol → Patrol) : (s.modPatrol f).port = s.port := rfl
@[simp] theorem State.modPatrol_memory (f : Patrol → Patrol) : (s.modPatrol f).memory = s.memory := rfl
@[simp] theorem State.modPatrol_attention (f : Patrol → Patrol) : (s.modPatrol f).attention = s.attention := rfl
@[simp] theorem State.modPatrol_mask (f : Patrol → Patrol) : (s.modPatrol f).mask = s.mask := rfl
@[simp] theorem State.modPatrol_violations (f : Patrol → Patrol) : (s.modPatrol f).violations = s.violations := rfl
@[simp] theorem State.modPatrol_scrub (f : Patrol → Patrol) : (s.modPatrol f).scrub = s.scrub := rfl
@[simp] theorem State.modPatrol_badWords (f : Patrol → Patrol) : (s.modPatrol f).badWords = s.badWords := rfl
@[simp] theorem State.modPatrol_reportHeads (f : Patrol → Patrol) : (s.modPatrol f).reportHeads = s.reportHeads := rfl
@[simp] theorem State.modPatrol_journal (f : Patrol → Patrol) : (s.modPatrol f).journal = s.journal := rfl
@[simp] theorem State.modPatrol_timing (f : Patrol → Patrol) : (s.modPatrol f).timing = s.timing := rfl
@[simp] theorem State.modPatrol_lines (f : Patrol → Patrol) : (s.modPatrol f).lines = s.lines := rfl
@[simp] theorem State.modPatrol_slots (f : Patrol → Patrol) : (s.modPatrol f).slots = s.slots := rfl
@[simp] theorem State.modPatrol_bankCounts (f : Patrol → Patrol) : (s.modPatrol f).bankCounts = s.bankCounts := rfl
@[simp] theorem State.modPatrol_spare (f : Patrol → Patrol) : (s.modPatrol f).spare = s.spare := rfl
@[simp] theorem State.modPatrol_monitorUnit (f : Patrol → Patrol) : (s.modPatrol f).monitorUnit = s.monitorUnit := rfl
@[simp] theorem State.modPatrol_highway (f : Patrol → Patrol) : (s.modPatrol f).highway = s.highway := rfl
@[simp] theorem State.modPatrol_pending (f : Patrol → Patrol) : (s.modPatrol f).pending = s.pending := rfl
@[simp] theorem State.modPatrol_line (f : Patrol → Patrol) (k : LineNo) :
    (s.modPatrol f).line k = s.line k := rfl
@[simp] theorem State.modPatrol_slot (f : Patrol → Patrol) (d : Fin 9) (j : Nat) :
    (s.modPatrol f).slot d j = s.slot d j := rfl
@[simp] theorem State.modPatrol_memWord (f : Patrol → Patrol) (k : Nat) :
    (s.modPatrol f).memWord k = s.memWord k := rfl
@[simp] theorem State.modPatrol_cover (f : Patrol → Patrol) (k : LineNo) :
    (s.modPatrol f).cover k = s.cover k := rfl
@[simp] theorem State.modPatrol_bank (f : Patrol → Patrol) (d : Fin 9) :
    (s.modPatrol f).bank d = s.bank d := rfl
@[simp] theorem State.modPatrol_monitor (f : Patrol → Patrol) (j : MonitorNo) :
    (s.modPatrol f).monitor j = s.monitor j := rfl
@[simp] theorem State.modPatrol_gathered (f : Patrol → Patrol) (k : LineNo) :
    (s.modPatrol f).gathered k = s.gathered k := rfl
@[simp] theorem State.modPatrol_head (f : Patrol → Patrol) (q : Record) :
    (s.modPatrol f).head q = s.head q := rfl
@[simp] theorem State.modPatrol_journalSlot (f : Patrol → Patrol) (j : Fin 128) :
    (s.modPatrol f).journalSlot j = s.journalSlot j := rfl

/-! ### modScrub -/

@[simp] theorem State.modScrub_phase (f : Scrub → Scrub) : (s.modScrub f).phase = s.phase := rfl
@[simp] theorem State.modScrub_holdreq (f : Scrub → Scrub) : (s.modScrub f).holdreq = s.holdreq := rfl
@[simp] theorem State.modScrub_port (f : Scrub → Scrub) : (s.modScrub f).port = s.port := rfl
@[simp] theorem State.modScrub_memory (f : Scrub → Scrub) : (s.modScrub f).memory = s.memory := rfl
@[simp] theorem State.modScrub_attention (f : Scrub → Scrub) : (s.modScrub f).attention = s.attention := rfl
@[simp] theorem State.modScrub_mask (f : Scrub → Scrub) : (s.modScrub f).mask = s.mask := rfl
@[simp] theorem State.modScrub_violations (f : Scrub → Scrub) : (s.modScrub f).violations = s.violations := rfl
@[simp] theorem State.modScrub_badWords (f : Scrub → Scrub) : (s.modScrub f).badWords = s.badWords := rfl
@[simp] theorem State.modScrub_patrol (f : Scrub → Scrub) : (s.modScrub f).patrol = s.patrol := rfl
@[simp] theorem State.modScrub_reportHeads (f : Scrub → Scrub) : (s.modScrub f).reportHeads = s.reportHeads := rfl
@[simp] theorem State.modScrub_journal (f : Scrub → Scrub) : (s.modScrub f).journal = s.journal := rfl
@[simp] theorem State.modScrub_timing (f : Scrub → Scrub) : (s.modScrub f).timing = s.timing := rfl
@[simp] theorem State.modScrub_lines (f : Scrub → Scrub) : (s.modScrub f).lines = s.lines := rfl
@[simp] theorem State.modScrub_slots (f : Scrub → Scrub) : (s.modScrub f).slots = s.slots := rfl
@[simp] theorem State.modScrub_bankCounts (f : Scrub → Scrub) : (s.modScrub f).bankCounts = s.bankCounts := rfl
@[simp] theorem State.modScrub_spare (f : Scrub → Scrub) : (s.modScrub f).spare = s.spare := rfl
@[simp] theorem State.modScrub_monitorUnit (f : Scrub → Scrub) : (s.modScrub f).monitorUnit = s.monitorUnit := rfl
@[simp] theorem State.modScrub_highway (f : Scrub → Scrub) : (s.modScrub f).highway = s.highway := rfl
@[simp] theorem State.modScrub_pending (f : Scrub → Scrub) : (s.modScrub f).pending = s.pending := rfl
@[simp] theorem State.modScrub_line (f : Scrub → Scrub) (k : LineNo) :
    (s.modScrub f).line k = s.line k := rfl
@[simp] theorem State.modScrub_slot (f : Scrub → Scrub) (d : Fin 9) (j : Nat) :
    (s.modScrub f).slot d j = s.slot d j := rfl
@[simp] theorem State.modScrub_memWord (f : Scrub → Scrub) (k : Nat) :
    (s.modScrub f).memWord k = s.memWord k := rfl
@[simp] theorem State.modScrub_cover (f : Scrub → Scrub) (k : LineNo) :
    (s.modScrub f).cover k = s.cover k := rfl
@[simp] theorem State.modScrub_bank (f : Scrub → Scrub) (d : Fin 9) :
    (s.modScrub f).bank d = s.bank d := rfl
@[simp] theorem State.modScrub_monitor (f : Scrub → Scrub) (j : MonitorNo) :
    (s.modScrub f).monitor j = s.monitor j := rfl
@[simp] theorem State.modScrub_gathered (f : Scrub → Scrub) (k : LineNo) :
    (s.modScrub f).gathered k = s.gathered k := rfl
@[simp] theorem State.modScrub_head (f : Scrub → Scrub) (q : Record) :
    (s.modScrub f).head q = s.head q := rfl
@[simp] theorem State.modScrub_journalSlot (f : Scrub → Scrub) (j : Fin 128) :
    (s.modScrub f).journalSlot j = s.journalSlot j := rfl

/-! ### modBadWords -/

@[simp] theorem State.modBadWords_phase (f : BadWords → BadWords) : (s.modBadWords f).phase = s.phase := rfl
@[simp] theorem State.modBadWords_holdreq (f : BadWords → BadWords) : (s.modBadWords f).holdreq = s.holdreq := rfl
@[simp] theorem State.modBadWords_port (f : BadWords → BadWords) : (s.modBadWords f).port = s.port := rfl
@[simp] theorem State.modBadWords_memory (f : BadWords → BadWords) : (s.modBadWords f).memory = s.memory := rfl
@[simp] theorem State.modBadWords_attention (f : BadWords → BadWords) : (s.modBadWords f).attention = s.attention := rfl
@[simp] theorem State.modBadWords_mask (f : BadWords → BadWords) : (s.modBadWords f).mask = s.mask := rfl
@[simp] theorem State.modBadWords_violations (f : BadWords → BadWords) : (s.modBadWords f).violations = s.violations := rfl
@[simp] theorem State.modBadWords_scrub (f : BadWords → BadWords) : (s.modBadWords f).scrub = s.scrub := rfl
@[simp] theorem State.modBadWords_patrol (f : BadWords → BadWords) : (s.modBadWords f).patrol = s.patrol := rfl
@[simp] theorem State.modBadWords_reportHeads (f : BadWords → BadWords) : (s.modBadWords f).reportHeads = s.reportHeads := rfl
@[simp] theorem State.modBadWords_journal (f : BadWords → BadWords) : (s.modBadWords f).journal = s.journal := rfl
@[simp] theorem State.modBadWords_timing (f : BadWords → BadWords) : (s.modBadWords f).timing = s.timing := rfl
@[simp] theorem State.modBadWords_lines (f : BadWords → BadWords) : (s.modBadWords f).lines = s.lines := rfl
@[simp] theorem State.modBadWords_slots (f : BadWords → BadWords) : (s.modBadWords f).slots = s.slots := rfl
@[simp] theorem State.modBadWords_bankCounts (f : BadWords → BadWords) : (s.modBadWords f).bankCounts = s.bankCounts := rfl
@[simp] theorem State.modBadWords_spare (f : BadWords → BadWords) : (s.modBadWords f).spare = s.spare := rfl
@[simp] theorem State.modBadWords_monitorUnit (f : BadWords → BadWords) : (s.modBadWords f).monitorUnit = s.monitorUnit := rfl
@[simp] theorem State.modBadWords_highway (f : BadWords → BadWords) : (s.modBadWords f).highway = s.highway := rfl
@[simp] theorem State.modBadWords_pending (f : BadWords → BadWords) : (s.modBadWords f).pending = s.pending := rfl
@[simp] theorem State.modBadWords_line (f : BadWords → BadWords) (k : LineNo) :
    (s.modBadWords f).line k = s.line k := rfl
@[simp] theorem State.modBadWords_slot (f : BadWords → BadWords) (d : Fin 9) (j : Nat) :
    (s.modBadWords f).slot d j = s.slot d j := rfl
@[simp] theorem State.modBadWords_memWord (f : BadWords → BadWords) (k : Nat) :
    (s.modBadWords f).memWord k = s.memWord k := rfl
@[simp] theorem State.modBadWords_cover (f : BadWords → BadWords) (k : LineNo) :
    (s.modBadWords f).cover k = s.cover k := rfl
@[simp] theorem State.modBadWords_bank (f : BadWords → BadWords) (d : Fin 9) :
    (s.modBadWords f).bank d = s.bank d := rfl
@[simp] theorem State.modBadWords_monitor (f : BadWords → BadWords) (j : MonitorNo) :
    (s.modBadWords f).monitor j = s.monitor j := rfl
@[simp] theorem State.modBadWords_gathered (f : BadWords → BadWords) (k : LineNo) :
    (s.modBadWords f).gathered k = s.gathered k := rfl
@[simp] theorem State.modBadWords_head (f : BadWords → BadWords) (q : Record) :
    (s.modBadWords f).head q = s.head q := rfl
@[simp] theorem State.modBadWords_journalSlot (f : BadWords → BadWords) (j : Fin 128) :
    (s.modBadWords f).journalSlot j = s.journalSlot j := rfl

/-! ### setPhase -/

@[simp] theorem State.setPhase_holdreq (x : Phase) : (s.setPhase x).holdreq = s.holdreq := rfl
@[simp] theorem State.setPhase_port (x : Phase) : (s.setPhase x).port = s.port := rfl
@[simp] theorem State.setPhase_memory (x : Phase) : (s.setPhase x).memory = s.memory := rfl
@[simp] theorem State.setPhase_attention (x : Phase) : (s.setPhase x).attention = s.attention := rfl
@[simp] theorem State.setPhase_mask (x : Phase) : (s.setPhase x).mask = s.mask := rfl
@[simp] theorem State.setPhase_violations (x : Phase) : (s.setPhase x).violations = s.violations := rfl
@[simp] theorem State.setPhase_scrub (x : Phase) : (s.setPhase x).scrub = s.scrub := rfl
@[simp] theorem State.setPhase_badWords (x : Phase) : (s.setPhase x).badWords = s.badWords := rfl
@[simp] theorem State.setPhase_patrol (x : Phase) : (s.setPhase x).patrol = s.patrol := rfl
@[simp] theorem State.setPhase_reportHeads (x : Phase) : (s.setPhase x).reportHeads = s.reportHeads := rfl
@[simp] theorem State.setPhase_journal (x : Phase) : (s.setPhase x).journal = s.journal := rfl
@[simp] theorem State.setPhase_timing (x : Phase) : (s.setPhase x).timing = s.timing := rfl
@[simp] theorem State.setPhase_lines (x : Phase) : (s.setPhase x).lines = s.lines := rfl
@[simp] theorem State.setPhase_slots (x : Phase) : (s.setPhase x).slots = s.slots := rfl
@[simp] theorem State.setPhase_bankCounts (x : Phase) : (s.setPhase x).bankCounts = s.bankCounts := rfl
@[simp] theorem State.setPhase_spare (x : Phase) : (s.setPhase x).spare = s.spare := rfl
@[simp] theorem State.setPhase_monitorUnit (x : Phase) : (s.setPhase x).monitorUnit = s.monitorUnit := rfl
@[simp] theorem State.setPhase_highway (x : Phase) : (s.setPhase x).highway = s.highway := rfl
@[simp] theorem State.setPhase_pending (x : Phase) : (s.setPhase x).pending = s.pending := rfl
@[simp] theorem State.setPhase_line (x : Phase) (k : LineNo) :
    (s.setPhase x).line k = s.line k := rfl
@[simp] theorem State.setPhase_slot (x : Phase) (d : Fin 9) (j : Nat) :
    (s.setPhase x).slot d j = s.slot d j := rfl
@[simp] theorem State.setPhase_memWord (x : Phase) (k : Nat) :
    (s.setPhase x).memWord k = s.memWord k := rfl
@[simp] theorem State.setPhase_cover (x : Phase) (k : LineNo) :
    (s.setPhase x).cover k = s.cover k := rfl
@[simp] theorem State.setPhase_bank (x : Phase) (d : Fin 9) :
    (s.setPhase x).bank d = s.bank d := rfl
@[simp] theorem State.setPhase_monitor (x : Phase) (j : MonitorNo) :
    (s.setPhase x).monitor j = s.monitor j := rfl
@[simp] theorem State.setPhase_gathered (x : Phase) (k : LineNo) :
    (s.setPhase x).gathered k = s.gathered k := rfl
@[simp] theorem State.setPhase_head (x : Phase) (q : Record) :
    (s.setPhase x).head q = s.head q := rfl
@[simp] theorem State.setPhase_journalSlot (x : Phase) (j : Fin 128) :
    (s.setPhase x).journalSlot j = s.journalSlot j := rfl

/-! ### setHoldreq -/

@[simp] theorem State.setHoldreq_phase (x : Bool) : (s.setHoldreq x).phase = s.phase := rfl
@[simp] theorem State.setHoldreq_port (x : Bool) : (s.setHoldreq x).port = s.port := rfl
@[simp] theorem State.setHoldreq_memory (x : Bool) : (s.setHoldreq x).memory = s.memory := rfl
@[simp] theorem State.setHoldreq_attention (x : Bool) : (s.setHoldreq x).attention = s.attention := rfl
@[simp] theorem State.setHoldreq_mask (x : Bool) : (s.setHoldreq x).mask = s.mask := rfl
@[simp] theorem State.setHoldreq_violations (x : Bool) : (s.setHoldreq x).violations = s.violations := rfl
@[simp] theorem State.setHoldreq_scrub (x : Bool) : (s.setHoldreq x).scrub = s.scrub := rfl
@[simp] theorem State.setHoldreq_badWords (x : Bool) : (s.setHoldreq x).badWords = s.badWords := rfl
@[simp] theorem State.setHoldreq_patrol (x : Bool) : (s.setHoldreq x).patrol = s.patrol := rfl
@[simp] theorem State.setHoldreq_reportHeads (x : Bool) : (s.setHoldreq x).reportHeads = s.reportHeads := rfl
@[simp] theorem State.setHoldreq_journal (x : Bool) : (s.setHoldreq x).journal = s.journal := rfl
@[simp] theorem State.setHoldreq_timing (x : Bool) : (s.setHoldreq x).timing = s.timing := rfl
@[simp] theorem State.setHoldreq_lines (x : Bool) : (s.setHoldreq x).lines = s.lines := rfl
@[simp] theorem State.setHoldreq_slots (x : Bool) : (s.setHoldreq x).slots = s.slots := rfl
@[simp] theorem State.setHoldreq_bankCounts (x : Bool) : (s.setHoldreq x).bankCounts = s.bankCounts := rfl
@[simp] theorem State.setHoldreq_spare (x : Bool) : (s.setHoldreq x).spare = s.spare := rfl
@[simp] theorem State.setHoldreq_monitorUnit (x : Bool) : (s.setHoldreq x).monitorUnit = s.monitorUnit := rfl
@[simp] theorem State.setHoldreq_highway (x : Bool) : (s.setHoldreq x).highway = s.highway := rfl
@[simp] theorem State.setHoldreq_pending (x : Bool) : (s.setHoldreq x).pending = s.pending := rfl
@[simp] theorem State.setHoldreq_line (x : Bool) (k : LineNo) :
    (s.setHoldreq x).line k = s.line k := rfl
@[simp] theorem State.setHoldreq_slot (x : Bool) (d : Fin 9) (j : Nat) :
    (s.setHoldreq x).slot d j = s.slot d j := rfl
@[simp] theorem State.setHoldreq_memWord (x : Bool) (k : Nat) :
    (s.setHoldreq x).memWord k = s.memWord k := rfl
@[simp] theorem State.setHoldreq_cover (x : Bool) (k : LineNo) :
    (s.setHoldreq x).cover k = s.cover k := rfl
@[simp] theorem State.setHoldreq_bank (x : Bool) (d : Fin 9) :
    (s.setHoldreq x).bank d = s.bank d := rfl
@[simp] theorem State.setHoldreq_monitor (x : Bool) (j : MonitorNo) :
    (s.setHoldreq x).monitor j = s.monitor j := rfl
@[simp] theorem State.setHoldreq_gathered (x : Bool) (k : LineNo) :
    (s.setHoldreq x).gathered k = s.gathered k := rfl
@[simp] theorem State.setHoldreq_head (x : Bool) (q : Record) :
    (s.setHoldreq x).head q = s.head q := rfl
@[simp] theorem State.setHoldreq_journalSlot (x : Bool) (j : Fin 128) :
    (s.setHoldreq x).journalSlot j = s.journalSlot j := rfl

/-! ### Each setter on its own entry -/

@[simp] theorem State.setLine_line_same (n : LineNo) (l : Line) : (s.setLine n l).line n = l := by
  simp [State.setLine, State.line]

theorem State.setLine_line_ne {n m : LineNo} (h : m ≠ n) (l : Line) :
    (s.setLine n l).line m = s.line m := by
  have : n.val ≠ m.val := fun e => h (Fin.ext e.symm)
  simp [State.setLine, State.line, Vector.getElem_set_ne, this]

theorem State.setLine_line (n m : LineNo) (l : Line) :
    (s.setLine n l).line m = if m = n then l else s.line m := by
  split
  · next h => subst h; exact s.setLine_line_same m l
  · next h => exact s.setLine_line_ne h l

@[simp] theorem State.setLine_setLine (n : LineNo) (l k : Line) :
    (s.setLine n l).setLine n k = s.setLine n k := by
  simp [State.setLine]

@[simp] theorem State.setLine_line_self (n : LineNo) : s.setLine n (s.line n) = s := by
  simp [State.setLine, State.line]

@[simp] theorem State.modLine_line_same (n : LineNo) (f : Line → Line) :
    (s.modLine n f).line n = f (s.line n) := s.setLine_line_same n _

theorem State.modLine_line_ne {n m : LineNo} (h : m ≠ n) (f : Line → Line) :
    (s.modLine n f).line m = s.line m := s.setLine_line_ne h _

theorem State.modLine_line (n m : LineNo) (f : Line → Line) :
    (s.modLine n f).line m = if m = n then f (s.line n) else s.line m := s.setLine_line n m _

theorem State.modLine_modLine (n : LineNo) (f g : Line → Line) :
    (s.modLine n f).modLine n g = s.modLine n (fun l => g (f l)) := by
  simp [State.modLine]

@[simp] theorem State.setCover_cover_same (n : LineNo) (c : Coverage) :
    (s.setCover n c).cover n = c := by simp [State.setCover, State.cover]

theorem State.setCover_cover_ne {n m : LineNo} (h : m ≠ n) (c : Coverage) :
    (s.setCover n c).cover m = s.cover m := by
  have : n.val ≠ m.val := fun e => h (Fin.ext e.symm)
  simp [State.setCover, State.cover, Vector.getElem_set_ne, this]

@[simp] theorem State.setCover_spare_state (n : LineNo) (c : Coverage) :
    (s.setCover n c).spare.state = s.spare.state := rfl

@[simp] theorem State.setBank_bank_same (b : Fin 9) (c : BankCounts) : (s.setBank b c).bank b = c := by
  simp [State.setBank, State.bank]

theorem State.setBank_bank_ne {b d : Fin 9} (h : d ≠ b) (c : BankCounts) :
    (s.setBank b c).bank d = s.bank d := by
  have : b.val ≠ d.val := fun e => h (Fin.ext e.symm)
  simp [State.setBank, State.bank, Vector.getElem_set_ne, this]

@[simp] theorem State.setMonitor_monitor_same (i : MonitorNo) (x : Monitor) :
    (s.setMonitor i x).monitor i = x := by simp [State.setMonitor, State.monitor]

theorem State.setMonitor_monitor_ne {i j : MonitorNo} (h : j ≠ i) (x : Monitor) :
    (s.setMonitor i x).monitor j = s.monitor j := by
  have : i.val ≠ j.val := fun e => h (Fin.ext e.symm)
  simp [State.setMonitor, State.monitor, Vector.getElem_set_ne, this]

@[simp] theorem State.setMonitor_gathered (i : MonitorNo) (x : Monitor) (n : LineNo) :
    (s.setMonitor i x).gathered n = s.gathered n := rfl

@[simp] theorem State.setMonitor_freeze (i : MonitorNo) (x : Monitor) :
    (s.setMonitor i x).monitorUnit.freeze = s.monitorUnit.freeze := rfl

@[simp] theorem State.setMonitor_monitorUnit_gathered (i : MonitorNo) (x : Monitor) :
    (s.setMonitor i x).monitorUnit.gathered = s.monitorUnit.gathered := rfl

@[simp] theorem State.setGathered_gathered_same (n : LineNo) (x : Gathered) :
    (s.setGathered n x).gathered n = x := by simp [State.setGathered, State.gathered]

theorem State.setGathered_gathered_ne {n m : LineNo} (h : m ≠ n) (x : Gathered) :
    (s.setGathered n x).gathered m = s.gathered m := by
  have : n.val ≠ m.val := fun e => h (Fin.ext e.symm)
  simp [State.setGathered, State.gathered, Vector.getElem_set_ne, this]

@[simp] theorem State.setGathered_monitor (n : LineNo) (x : Gathered) (i : MonitorNo) :
    (s.setGathered n x).monitor i = s.monitor i := rfl

@[simp] theorem State.setGathered_freeze (n : LineNo) (x : Gathered) :
    (s.setGathered n x).monitorUnit.freeze = s.monitorUnit.freeze := rfl

@[simp] theorem State.setHead_head_same (r : Record) (x : ReportHead) : (s.setHead r x).head r = x := by
  simp [State.setHead, State.head]

@[simp] theorem State.setJournalSlot_journalSlot_same (i : Fin 128) (x : JournalSlot) :
    (s.setJournalSlot i x).journalSlot i = x := by simp [State.setJournalSlot, State.journalSlot]

theorem State.setJournalSlot_journalSlot_ne {i j : Fin 128} (h : j ≠ i) (x : JournalSlot) :
    (s.setJournalSlot i x).journalSlot j = s.journalSlot j := by
  have : i.val ≠ j.val := fun e => h (Fin.ext e.symm)
  simp [State.setJournalSlot, State.journalSlot, Vector.getElem_set_ne, this]

@[simp] theorem State.modTiming_timing (f : Timing → Timing) : (s.modTiming f).timing = f s.timing := rfl

@[simp] theorem State.modBus_timing (x : Bus) (f : BusMonitor → BusMonitor) :
    (s.modBus x f).timing = s.timing.setBus x (f (s.timing.bus x)) := rfl

@[simp] theorem State.answerPort_port (x : PortResult) : (s.answerPort x).port = x := rfl

@[simp] theorem State.modJournal_journal (f : Journal → Journal) : (s.modJournal f).journal = f s.journal := rfl
@[simp] theorem State.modAttention_attention (f : Attention → Attention) :
    (s.modAttention f).attention = f s.attention := rfl
@[simp] theorem State.modSpare_spare (f : Spare → Spare) : (s.modSpare f).spare = f s.spare := rfl
@[simp] theorem State.modMonitorUnit_monitorUnit (f : MonitorUnit → MonitorUnit) :
    (s.modMonitorUnit f).monitorUnit = f s.monitorUnit := rfl
@[simp] theorem State.modHighway_highway (f : Highway → Highway) : (s.modHighway f).highway = f s.highway := rfl
@[simp] theorem State.modPatrol_patrol (f : Patrol → Patrol) : (s.modPatrol f).patrol = f s.patrol := rfl
@[simp] theorem State.modScrub_scrub (f : Scrub → Scrub) : (s.modScrub f).scrub = f s.scrub := rfl
@[simp] theorem State.modBadWords_badWords (f : BadWords → BadWords) :
    (s.modBadWords f).badWords = f s.badWords := rfl
@[simp] theorem State.setPhase_phase (x : Phase) : (s.setPhase x).phase = x := rfl
@[simp] theorem State.setHoldreq_holdreq (x : Bool) : (s.setHoldreq x).holdreq = x := rfl

/-- A record's number names it. -/
theorem recordOf_number (r : Record) : recordOf r.number.val = some r := by
  cases r with
  | directory => rfl
  | timing => rfl
  | store => rfl
  | monitor m => revert m; decide
  | line n => revert n; decide

/-- Records have different numbers. -/
theorem Record.number_inj {q r : Record} (h : q.number = r.number) : q = r := by
  have hq := recordOf_number q
  rw [h, recordOf_number r] at hq
  exact (Option.some.inj hq).symm

theorem State.setHead_head_ne {q r : Record} (h : q ≠ r) (x : ReportHead) :
    (s.setHead r x).head q = s.head q := by
  have : r.number.val ≠ q.number.val := fun e => h (Record.number_inj (Fin.ext e.symm))
  simp [State.setHead, State.head, Vector.getElem_set_ne, this]

/-! ### The bus monitors inside the timing unit -/

@[simp] theorem Timing.setBus_bus_same (t : Timing) (x : Bus) (m : BusMonitor) :
    (t.setBus x m).bus x = m := by cases x <;> rfl

@[simp] theorem Timing.setBus_bus_other (t : Timing) (x : Bus) (m : BusMonitor) :
    (t.setBus x m).bus (otherBus x) = t.bus (otherBus x) := by cases x <;> rfl

theorem Timing.setBus_bus_ne (t : Timing) {x y : Bus} (h : y ≠ x) (m : BusMonitor) :
    (t.setBus x m).bus y = t.bus y := by
  cases x <;> cases y <;> first | rfl | exact absurd rfl h

@[simp] theorem Timing.setBus_settings (t : Timing) (x : Bus) (m : BusMonitor) :
    (t.setBus x m).settings = t.settings := by cases x <;> rfl

@[simp] theorem Timing.setBus_selector (t : Timing) (x : Bus) (m : BusMonitor) :
    (t.setBus x m).selector = t.selector := by cases x <;> rfl

@[simp] theorem Timing.setBus_revertCount (t : Timing) (x : Bus) (m : BusMonitor) :
    (t.setBus x m).revertCount = t.revertCount := by cases x <;> rfl

@[simp] theorem Timing.setBus_switchCount (t : Timing) (x : Bus) (m : BusMonitor) :
    (t.setBus x m).switchCount = t.switchCount := by cases x <;> rfl

@[simp] theorem Timing.setBus_holdLatch (t : Timing) (x : Bus) (m : BusMonitor) :
    (t.setBus x m).holdLatch = t.holdLatch := by cases x <;> rfl

@[simp] theorem Timing.setBus_phase (t : Timing) (x : Bus) (m : BusMonitor) :
    (t.setBus x m).phase = t.phase := by cases x <;> rfl

@[simp] theorem Timing.setBus_buildOut (t : Timing) (x : Bus) (m : BusMonitor) :
    (t.setBus x m).buildOut = t.buildOut := by cases x <;> rfl

@[simp] theorem Timing.setBus_realignPending (t : Timing) (x : Bus) (m : BusMonitor) :
    (t.setBus x m).realignPending = t.realignPending := by cases x <;> rfl

@[simp] theorem Timing.setBus_frameCounter (t : Timing) (x : Bus) (m : BusMonitor) :
    (t.setBus x m).frameCounter = t.frameCounter := by cases x <;> rfl

@[simp] theorem Timing.setBus_busTimed (t : Timing) (x : Bus) (m : BusMonitor) :
    (t.setBus x m).busTimed = t.busTimed := by cases x <;> rfl

@[simp] theorem Timing.setBus_history (t : Timing) (x : Bus) (m : BusMonitor) :
    (t.setBus x m).history = t.history := by cases x <;> rfl

@[simp] theorem Timing.setBus_hv (t : Timing) (x : Bus) (m : BusMonitor) :
    (t.setBus x m).hv = t.hv := by cases x <;> rfl

@[simp] theorem Timing.setBus_ncoStep (t : Timing) (x : Bus) (m : BusMonitor) :
    (t.setBus x m).ncoStep = t.ncoStep := by cases x <;> rfl

@[simp] theorem Timing.setBus_ncoAccumulator (t : Timing) (x : Bus) (m : BusMonitor) :
    (t.setBus x m).ncoAccumulator = t.ncoAccumulator := by cases x <;> rfl

@[simp] theorem Timing.setBus_stamp (t : Timing) (x : Bus) (m : BusMonitor) :
    (t.setBus x m).stamp = t.stamp := by cases x <;> rfl

end Sys2Proof.Machine
end

