-- ==== Sys2Proof/Laws/Memory.lean ====
section
/-!
SUPPORT. The laws of the canonical memories: a read after a write, every other place left alone, and
the canonical form kept by every write; for control memory and for the slip store.
-/
namespace Sys2Proof.Machine

variable {α : Type}

/-! ## Reading and writing cells -/

theorem cellGet_erase_same (d : α) (m : List (Nat × α)) (a : Nat) :
    cellGet d (cellErase m a) a = d := by
  induction m with
  | nil => rfl
  | cons p t ih =>
    obtain ⟨k, v⟩ := p
    unfold cellErase
    split
    · exact ih
    · next h => simp [cellGet, h, ih]

theorem cellGet_erase_ne (d : α) (m : List (Nat × α)) {a b : Nat} (h : b ≠ a) :
    cellGet d (cellErase m a) b = cellGet d m b := by
  induction m with
  | nil => rfl
  | cons p t ih =>
    obtain ⟨k, v⟩ := p
    unfold cellErase
    split
    · next hk =>
      have : k ≠ b := fun e => h (e ▸ hk)
      simp [cellGet, ih, this]
    · simp [cellGet, ih]

theorem cellGet_insert_same (d : α) (m : List (Nat × α)) (a : Nat) (x : α)
    (h : ∀ p ∈ m, p.1 ≠ a) : cellGet d (cellInsert m a x) a = x := by
  induction m with
  | nil => simp [cellInsert, cellGet]
  | cons p t ih =>
    obtain ⟨k, v⟩ := p
    unfold cellInsert
    split
    · simp [cellGet]
    · have hk : k ≠ a := h (k, v) (by simp)
      simp only [cellGet, hk, if_false]
      exact ih fun p hp => h p (by simp [hp])

theorem cellGet_insert_ne (d : α) (m : List (Nat × α)) {a b : Nat} (x : α) (h : b ≠ a) :
    cellGet d (cellInsert m a x) b = cellGet d m b := by
  have h' : a ≠ b := fun e => h e.symm
  induction m with
  | nil => simp [cellInsert, cellGet, h']
  | cons p t ih =>
    obtain ⟨k, v⟩ := p
    unfold cellInsert
    split
    · simp [cellGet, h']
    · simp [cellGet, ih]

theorem cellErase_ne (m : List (Nat × α)) (a : Nat) : ∀ p ∈ cellErase m a, p.1 ≠ a := by
  induction m with
  | nil => simp [cellErase]
  | cons q t ih =>
    obtain ⟨k, v⟩ := q
    unfold cellErase
    split
    · exact ih
    · next h =>
      intro p hp
      rcases List.mem_cons.mp hp with rfl | hp
      · exact h
      · exact ih p hp

section
variable [DecidableEq α]

/-- A read of the place written gives the value written. -/
@[simp] theorem cellGet_put_same (d : α) (m : List (Nat × α)) (a : Nat) (x : α) :
    cellGet d (cellPut d m a x) a = x := by
  unfold cellPut
  split
  · next h => rw [cellGet_erase_same, h]
  · exact cellGet_insert_same d _ a x (cellErase_ne m a)

/-- A write leaves every other place alone. -/
theorem cellGet_put_ne (d : α) (m : List (Nat × α)) {a b : Nat} (x : α) (h : b ≠ a) :
    cellGet d (cellPut d m a x) b = cellGet d m b := by
  unfold cellPut
  split
  · exact cellGet_erase_ne d m h
  · rw [cellGet_insert_ne d _ x h, cellGet_erase_ne d m h]

/-! ## The canonical form -/

omit [DecidableEq α] in
theorem cellErase_sublist (m : List (Nat × α)) (a : Nat) : (cellErase m a).Sublist m := by
  induction m with
  | nil => simp [cellErase]
  | cons p t ih =>
    obtain ⟨k, v⟩ := p
    unfold cellErase
    split
    · exact ih.cons _
    · exact ih.cons_cons _

omit [DecidableEq α] in
theorem cellInsert_mem {m : List (Nat × α)} {a : Nat} {x : α} {p : Nat × α}
    (h : p ∈ cellInsert m a x) : p = (a, x) ∨ p ∈ m := by
  induction m with
  | nil => simpa [cellInsert] using h
  | cons q t ih =>
    obtain ⟨k, v⟩ := q
    unfold cellInsert at h
    split at h
    · simpa using h
    · rcases List.mem_cons.mp h with rfl | h
      · exact .inr (by simp)
      · rcases ih h with h | h
        · exact .inl h
        · exact .inr (by simp [h])

omit [DecidableEq α] in
theorem cellInsert_rising {m : List (Nat × α)} (hm : m.Pairwise (fun p q => p.1 < q.1)) (a : Nat)
    (x : α) (ha : ∀ p ∈ m, p.1 ≠ a) : (cellInsert m a x).Pairwise (fun p q => p.1 < q.1) := by
  induction m with
  | nil => simp [cellInsert]
  | cons p t ih =>
    obtain ⟨k, v⟩ := p
    obtain ⟨hk, ht⟩ := List.pairwise_cons.mp hm
    unfold cellInsert
    split
    · next hlt =>
      refine List.pairwise_cons.mpr ⟨?_, hm⟩
      intro q hq
      rcases List.mem_cons.mp hq with rfl | hq
      · exact hlt
      · exact Nat.lt_trans hlt (hk q hq)
    · next hge =>
      refine List.pairwise_cons.mpr ⟨?_, ih ht fun q hq => ha q (by simp [hq])⟩
      intro q hq
      rcases cellInsert_mem hq with rfl | hq
      · have := ha (k, v) (by simp)
        simp only at this ⊢
        omega
      · exact hk q hq

theorem cellsWf_erase {d : α} {m : List (Nat × α)} (h : cellsWf d m) (a : Nat) :
    cellsWf d (cellErase m a) :=
  ⟨h.1.sublist (cellErase_sublist m a), fun p hp => h.2 p ((cellErase_sublist m a).subset hp)⟩

/-- A write keeps the canonical form. -/
theorem cellsWf_put {d : α} {m : List (Nat × α)} (h : cellsWf d m) (a : Nat) (x : α) :
    cellsWf d (cellPut d m a x) := by
  unfold cellPut
  split
  · exact cellsWf_erase h a
  · next hx =>
    have he := cellsWf_erase h a
    refine ⟨cellInsert_rising he.1 a x (cellErase_ne m a), fun p hp => ?_⟩
    rcases cellInsert_mem hp with rfl | hp
    · exact hx
    · exact he.2 p hp

/-- A part of a canonical memory is canonical. -/
theorem cellsWf_filter {d : α} {m : List (Nat × α)} (h : cellsWf d m) (f : Nat × α → Bool) :
    cellsWf d (m.filter f) :=
  ⟨h.1.sublist List.filter_sublist, fun p hp => h.2 p (List.filter_sublist.subset hp)⟩

omit [DecidableEq α] in
theorem cellGet_of_lt (d : α) {m : List (Nat × α)} {a : Nat} (h : ∀ p ∈ m, a < p.1) :
    cellGet d m a = d := by
  induction m with
  | nil => rfl
  | cons p t ih =>
    obtain ⟨k, v⟩ := p
    have hk : k ≠ a := by
      have := h (k, v) (by simp)
      simp only at this
      omega
    simp only [cellGet, hk, if_false]
    exact ih fun q hq => h q (by simp [hq])

omit [DecidableEq α] in
/-- What the part below an address holds. -/
theorem cellGet_filter_lt (d : α) (m : List (Nat × α)) (k a : Nat) :
    cellGet d (m.filter fun p => p.1 < k) a = if a < k then cellGet d m a else d := by
  induction m with
  | nil => simp [cellGet]
  | cons p t ih =>
    obtain ⟨j, v⟩ := p
    by_cases hj : j < k
    · rw [List.filter_cons_of_pos (by simpa using hj)]
      by_cases ha : j = a
      · subst ha; simp [cellGet, hj]
      · simp only [cellGet, ha, if_false]; exact ih
    · rw [List.filter_cons_of_neg (by simpa using hj)]
      by_cases ha : j = a
      · subst ha
        rw [ih]; simp [hj]
      · rw [ih]; simp only [cellGet, ha, if_false]

end

/-! ## Control memory -/

variable (s : State)

@[simp] theorem State.setMemWord_memWord_same (a : Nat) (w : MemWord) :
    (s.setMemWord a w).memWord a = w := cellGet_put_same _ _ _ _

theorem State.setMemWord_memWord_ne {a b : Nat} (h : b ≠ a) (w : MemWord) :
    (s.setMemWord a w).memWord b = s.memWord b := cellGet_put_ne _ _ _ h

@[simp] theorem State.memWrite_memWord_same (a : Nat) (x : Word) :
    (s.memWrite a x).memWord a = { raw := x } := s.setMemWord_memWord_same a _

theorem State.memWrite_memWord_ne {a b : Nat} (h : b ≠ a) (x : Word) :
    (s.memWrite a x).memWord b = s.memWord b := s.setMemWord_memWord_ne h _

/-- A write of control memory keeps its canonical form. -/
theorem State.setMemWord_wf (h : Memory.wf s.memory) (a : Nat) (w : MemWord) :
    Memory.wf (s.setMemWord a w).memory := cellsWf_put h a w

theorem State.memWrite_wf (h : Memory.wf s.memory) (a : Nat) (x : Word) :
    Memory.wf (s.memWrite a x).memory := cellsWf_put h a _

theorem State.memWriteAll_cons (p : Nat × Word) (l : List (Nat × Word)) :
    s.memWriteAll (p :: l) = (s.memWrite p.1 p.2).memWriteAll l := rfl

theorem State.memWriteAll_append (l k : List (Nat × Word)) :
    s.memWriteAll (l ++ k) = (s.memWriteAll l).memWriteAll k := by
  simp [State.memWriteAll]

/-- Several writes change control memory alone. -/
theorem State.memWriteAll_frame (l : List (Nat × Word)) :
    s.memWriteAll l = { s with memory := (s.memWriteAll l).memory } := by
  induction l generalizing s with
  | nil => rfl
  | cons p l ih => rw [s.memWriteAll_cons, ih (s.memWrite p.1 p.2)]; rfl

theorem State.memWriteAll_memWord_ne {l : List (Nat × Word)} {b : Nat} (h : ∀ p ∈ l, p.1 ≠ b) :
    (s.memWriteAll l).memWord b = s.memWord b := by
  induction l generalizing s with
  | nil => rfl
  | cons p l ih =>
    rw [s.memWriteAll_cons, ih _ fun q hq => h q (by simp [hq]),
      s.memWrite_memWord_ne fun e => h p (by simp) e.symm]

/-- Where several words are written at different addresses, each is there afterwards. -/
theorem State.memWriteAll_memWord_mem {l : List (Nat × Word)} (hn : (l.map (·.1)).Nodup)
    {p : Nat × Word} (hp : p ∈ l) : (s.memWriteAll l).memWord p.1 = { raw := p.2 } := by
  induction l generalizing s with
  | nil => exact absurd hp List.not_mem_nil
  | cons q l ih =>
    rw [s.memWriteAll_cons]
    rw [List.map_cons, List.nodup_cons] at hn
    rcases List.mem_cons.mp hp with rfl | hp
    · rw [State.memWriteAll_memWord_ne, s.memWrite_memWord_same]
      intro r hr e
      exact hn.1 (List.mem_map.mpr ⟨r, hr, e⟩)
    · exact ih _ hn.2 hp

theorem State.memWriteAll_wf (h : Memory.wf s.memory) (l : List (Nat × Word)) :
    Memory.wf (s.memWriteAll l).memory := by
  induction l generalizing s with
  | nil => exact h
  | cons p l ih => exact ih _ (s.memWrite_wf h p.1 p.2)

/-! ## The slip store -/

theorem slotKey_inj {b c : Fin 9} {i j : Nat} (hi : i < 256) (hj : j < 256)
    (h : slotKey b i = slotKey c j) : b = c ∧ i = j := by
  unfold slotKey at h
  exact ⟨Fin.ext (by omega), by omega⟩

@[simp] theorem State.setSlot_slot_same (b : Fin 9) (i : Nat) (x : Slot) :
    (s.setSlot b i x).slot b i = x := cellGet_put_same _ _ _ _

theorem State.setSlot_slot_ne {b c : Fin 9} {i j : Nat} (h : slotKey c j ≠ slotKey b i) (x : Slot) :
    (s.setSlot b i x).slot c j = s.slot c j := cellGet_put_ne _ _ _ h

/-- A write of a slot keeps the store's canonical form. -/
theorem State.setSlot_wf (h : SlotStore.wf s.slots) (b : Fin 9) (i : Nat) (x : Slot) :
    SlotStore.wf (s.setSlot b i x).slots := cellsWf_put h _ x

/-- Both memories are in canonical form after reset. -/
theorem State.reset_memory_wf : Memory.wf State.reset.memory := ⟨List.Pairwise.nil, by simp [State.reset]⟩

theorem State.reset_slots_wf : SlotStore.wf State.reset.slots := ⟨List.Pairwise.nil, by simp [State.reset]⟩

end Sys2Proof.Machine
end

