-- ==== Sys2Proof/Laws/Journal.lean ====
section
/-!
SUPPORT. What the journal writer can do (chapter 11): a post changes control memory, the journal and
ATTENTION alone, and depends on nothing else but the phase and the stamp.
-/
namespace Sys2Proof.Machine

/-- A state with control memory, the journal and ATTENTION of another. -/
def State.withJournalOf (t x : State) : State :=
  { t with memory := x.memory, journal := x.journal, attention := x.attention }

section
variable (t x : State)

@[simp] theorem State.withJournalOf_self : t.withJournalOf t = t := rfl

@[simp] theorem State.withJournalOf_memory : (t.withJournalOf x).memory = x.memory := rfl
@[simp] theorem State.withJournalOf_journal : (t.withJournalOf x).journal = x.journal := rfl
@[simp] theorem State.withJournalOf_attention : (t.withJournalOf x).attention = x.attention := rfl

theorem State.withJournalOf_withJournalOf (y : State) :
    t.withJournalOf (x.withJournalOf y) = t.withJournalOf y := rfl

/-! ## Each part of a post, moved into another state -/

theorem State.countUnposted_withJournalOf (k : Kind) :
    (t.withJournalOf x).countUnposted k = t.withJournalOf (x.countUnposted k) := rfl

theorem State.noRoom_withJournalOf (k : Kind) :
    (t.withJournalOf x).noRoom k = t.withJournalOf (x.noRoom k) := rfl

theorem State.haltJournal_withJournalOf :
    (t.withJournalOf x).haltJournal = t.withJournalOf x.haltJournal := rfl

theorem State.setMemWord_withJournalOf (a : Nat) (w : MemWord) :
    (t.withJournalOf x).setMemWord a w = t.withJournalOf (x.setMemWord a w) := rfl

theorem State.memWrite_withJournalOf (a : Nat) (w : Word) :
    (t.withJournalOf x).memWrite a w = t.withJournalOf (x.memWrite a w) := rfl

theorem State.memWriteAll_withJournalOf (l : List (Nat × Word)) :
    (t.withJournalOf x).memWriteAll l = t.withJournalOf (x.memWriteAll l) := by
  induction l generalizing x with
  | nil => rfl
  | cons p l ih => rw [State.memWriteAll_cons, State.memWriteAll_cons, ← ih]; rfl

theorem State.setJournalSlot_withJournalOf (i : Fin 128) (v : JournalSlot) :
    (t.withJournalOf x).setJournalSlot i v = t.withJournalOf (x.setJournalSlot i v) := rfl

theorem State.strikeFold_withJournalOf (i : Fin 128) (hits : List (Fin 16 × Nat)) :
    hits.foldl (fun s h => s.setMemWord (journalBase i + h.1.val)
        ((s.memWord (journalBase i + h.1.val)).struck h.2)) (t.withJournalOf x) =
      t.withJournalOf (hits.foldl (fun s h => s.setMemWord (journalBase i + h.1.val)
        ((s.memWord (journalBase i + h.1.val)).struck h.2)) x) := by
  induction hits generalizing x with
  | nil => rfl
  | cons h hits ih => rw [List.foldl_cons, List.foldl_cons, ← ih]; rfl

theorem State.strikeSlot_withJournalOf (i : Fin 128) (hits : List (Fin 16 × Nat)) :
    (t.withJournalOf x).strikeSlot i hits = t.withJournalOf (x.strikeSlot i hits) :=
  State.strikeFold_withJournalOf t x i hits

theorem State.mendSlot_withJournalOf (i : Fin 128) (copy : List (Nat × Word)) :
    (t.withJournalOf x).mendSlot i copy = t.withJournalOf (x.mendSlot i copy) := by
  unfold State.mendSlot
  induction copy generalizing x with
  | nil => rfl
  | cons p copy ih =>
    rw [List.foldl_cons, List.foldl_cons, ← ih]
    congr 1
    show (match (x.memWord (journalBase i + p.1)).condition with
      | .single _ => (t.withJournalOf x).memWrite (journalBase i + p.1) p.2
      | _ => t.withJournalOf x) = _
    cases (x.memWord (journalBase i + p.1)).condition <;> rfl

theorem State.modJournal_withJournalOf (f : Journal → Journal) :
    (t.withJournalOf x).modJournal f = t.withJournalOf (x.modJournal f) := rfl

theorem State.writeUpTo_withJournalOf (c : PostInProgress) (k : Nat) :
    (t.withJournalOf x).writeUpTo c k = t.withJournalOf (x.writeUpTo c k) := by
  unfold State.writeUpTo
  rw [State.memWriteAll_withJournalOf, State.modJournal_withJournalOf]

theorem State.readBack_withJournalOf (i : Fin 128) (r : Report) (serial : Long) :
    (t.withJournalOf x).readBack i r serial =
      (t.withJournalOf (x.readBack i r serial).1, (x.readBack i r serial).2) := by
  have hf : (t.withJournalOf x).slotFails i = x.slotFails i := rfl
  unfold State.readBack
  simp only [State.mendSlot_withJournalOf, State.setJournalSlot_withJournalOf, hf]
  split <;> rfl

theorem State.writeOn_withJournalOf (c : PostInProgress) :
    (t.withJournalOf x).writeOn c = (t.withJournalOf (x.writeOn c).1, (x.writeOn c).2) := by
  unfold State.writeOn
  split
  · simp only [State.writeUpTo_withJournalOf, State.modJournal_withJournalOf]
  · simp only [State.writeUpTo_withJournalOf, State.modJournal_withJournalOf,
      State.strikeSlot_withJournalOf, State.readBack_withJournalOf]

/-- The writing of a slot leaves the office timing alone. -/
@[simp] theorem State.writeOn_timing (c : PostInProgress) : (x.writeOn c).1.timing = x.timing :=
  congrArg (fun p => p.1.timing) (State.writeOn_withJournalOf x x c)

theorem State.place_withJournalOf (r : Report) (stage : PostStage) :
    (t.withJournalOf x).place r stage =
      (t.withJournalOf (x.place r stage).1, (x.place r stage).2) := by
  unfold State.place
  rw [State.withJournalOf_journal]
  cases x.journal.freeSlot with
  | none => rfl
  | some i =>
    simp only [State.setJournalSlot_withJournalOf, State.modJournal_withJournalOf,
      State.writeOn_withJournalOf]

theorem Report.afterRetry_withJournalOf (r : Report) (p : Placed) :
    r.afterRetry (t.withJournalOf x, p) = t.withJournalOf (r.afterRetry (x, p)) := by
  cases p <;> rfl

theorem State.retry_withJournalOf (r : Report) :
    (t.withJournalOf x).retry r = t.withJournalOf (x.retry r) := by
  unfold State.retry
  rw [State.place_withJournalOf, Report.afterRetry_withJournalOf]

theorem Report.afterSlotBad_withJournalOf (r : Report) (p : Placed) :
    r.afterSlotBad (t.withJournalOf x, p) = t.withJournalOf (r.afterSlotBad (x, p)) := by
  cases p with
  | noSlot =>
    simp only [Report.afterSlotBad, State.noRoom_withJournalOf, State.retry_withJournalOf]
  | waits => rfl
  | stands => simp only [Report.afterSlotBad, State.retry_withJournalOf]
  | failed _ _ => rfl

/-- The placing of a report leaves the office timing alone. -/
@[simp] theorem State.place_timing (r : Report) (stage : PostStage) :
    (x.place r stage).1.timing = x.timing :=
  congrArg (fun p => p.1.timing) (State.place_withJournalOf x x r stage)

/-- JOURNAL_SLOT_BAD is stamped with the state's stamp, so the two states agree on it. -/
theorem Report.afterFirst_withJournalOf (ht : t.timing.stamp = x.timing.stamp) (r : Report)
    (p : Placed) : r.afterFirst (t.withJournalOf x, p) = t.withJournalOf (r.afterFirst (x, p)) := by
  cases p with
  | noSlot => rfl
  | waits => rfl
  | stands => rfl
  | failed slot serial =>
    have ht' : (t.withJournalOf x).timing.stamp = x.timing.stamp := ht
    simp only [Report.afterFirst, State.withJournalOf_journal, ht', State.place_withJournalOf,
      Report.afterSlotBad_withJournalOf, State.retry_withJournalOf]
    split <;> rfl

theorem State.postUnmasked_withJournalOf (ht : t.timing.stamp = x.timing.stamp) (r : Report) :
    (t.withJournalOf x).postUnmasked r = t.withJournalOf (x.postUnmasked r) := by
  unfold State.postUnmasked
  rw [State.place_withJournalOf, Report.afterFirst_withJournalOf t _ (by rw [State.place_timing, ht])]

theorem State.handle_withJournalOf (ht : t.timing.stamp = x.timing.stamp) (r : Report) :
    (t.withJournalOf x).handle r = t.withJournalOf (x.handle r) := by
  simp only [State.handle, State.withJournalOf_journal, State.modJournal_withJournalOf,
    State.countUnposted_withJournalOf, State.postUnmasked_withJournalOf t x ht]
  split <;> [rfl; (split <;> rfl)]

/-- The handling of a report leaves the office timing alone. -/
@[simp] theorem State.handle_timing (r : Report) : (x.handle r).timing = x.timing :=
  congrArg (fun p => p.timing) (State.handle_withJournalOf x x rfl r)

theorem PostInProgress.after_withJournalOf (ht : t.timing.stamp = x.timing.stamp)
    (c : PostInProgress) (p : Placed) :
    c.after (t.withJournalOf x, p) = t.withJournalOf (c.after (x, p)) := by
  unfold PostInProgress.after
  split
  · exact Report.afterFirst_withJournalOf t x ht _ p
  · exact Report.afterSlotBad_withJournalOf t x _ p
  · exact Report.afterRetry_withJournalOf t x _ p

/-- What follows a placing leaves the office timing alone. -/
@[simp] theorem PostInProgress.after_timing (c : PostInProgress) (p : Placed) :
    (c.after (x, p)).timing = x.timing :=
  congrArg (fun p => p.timing) (PostInProgress.after_withJournalOf x x rfl c p)

end

/-- The writer's grants of a local cycle change control memory, the journal and ATTENTION alone, and
depend on nothing else but the stamp. -/
theorem State.goOn_withJournalOf (t x : State) (ht : t.timing.stamp = x.timing.stamp) :
    (t.withJournalOf x).goOn = t.withJournalOf x.goOn := by
  have hf : ∀ (l : List Report) (y : State), t.timing.stamp = y.timing.stamp →
      l.foldl State.handle (t.withJournalOf y) = t.withJournalOf (l.foldl State.handle y) := by
    intro l
    induction l with
    | nil => exact fun _ _ => rfl
    | cons r l ih =>
      intro y hy
      rw [List.foldl_cons, List.foldl_cons, State.handle_withJournalOf t y hy,
        ih _ (by rw [State.handle_timing, hy])]
  unfold State.goOn
  rw [State.withJournalOf_journal]
  cases x.journal.current with
  | none => rfl
  | some c =>
    have hw : t.timing.stamp = (x.writeOn c).1.timing.stamp := by rw [State.writeOn_timing, ht]
    simp only [State.writeOn_withJournalOf, PostInProgress.after_withJournalOf t _ hw,
      State.withJournalOf_journal, State.modJournal_withJournalOf]
    exact hf _ _ (by rw [State.modJournal_timing, PostInProgress.after_timing, hw])

/-- The completion of a post changes control memory, the journal and ATTENTION alone, and depends on
nothing else but the stamp. -/
theorem State.finishPost_withJournalOf (t x : State) (ht : t.timing.stamp = x.timing.stamp) :
    (t.withJournalOf x).finishPost = t.withJournalOf x.finishPost := by
  unfold State.finishPost
  rw [State.withJournalOf_journal]
  cases x.journal.current with
  | none => rfl
  | some c =>
    simp only [State.modJournal_withJournalOf, State.writeOn_withJournalOf]
    exact PostInProgress.after_withJournalOf t _ (by rw [State.writeOn_timing, State.modJournal_timing, ht])
      _ _

/-- The writer's grants change control memory, the journal and ATTENTION alone. -/
theorem State.goOn_frame (s : State) : s.goOn = s.withJournalOf s.goOn :=
  s.goOn_withJournalOf s rfl

/-- The completion of a post changes control memory, the journal and ATTENTION alone. -/
theorem State.finishPost_frame (s : State) : s.finishPost = s.withJournalOf s.finishPost :=
  s.finishPost_withJournalOf s rfl

/-- With no post in progress the writer's grants do nothing. -/
@[simp] theorem State.goOn_of_none {s : State} (h : s.journal.current = none) : s.goOn = s := by
  unfold State.goOn
  rw [h]

/-- With no post in progress there is none to complete. -/
@[simp] theorem State.finishPost_of_none {s : State} (h : s.journal.current = none) :
    s.finishPost = s := by
  unfold State.finishPost
  rw [h]

/-- A report taken with no post in progress (R165, R168). -/
theorem State.handle_of_none {s : State} (h : s.journal.current = none) (x : Report) :
    s.handle x = if s.journal.halted then s.countUnposted x.kind else s.postUnmasked x := by
  unfold State.handle
  rw [h]
  rfl

/-- A report that comes while a post is in progress waits (R165). -/
theorem State.handle_of_current {s : State} (h : s.journal.current ≠ none) (x : Report) :
    s.handle x = s.modJournal fun j => { j with waiting := j.waiting ++ [x] } := by
  unfold State.handle
  rw [if_pos (Option.isSome_iff_ne_none.mpr h)]

/-! ## A post by phase -/

section
variable {s : State} (k : Kind) (record : Nat) (detail : List Word)

/-- Reports made before READY first becomes 1 are discarded (R169). -/
theorem State.post_of_reset (h : s.phase = .inReset ∨ s.phase = .initialising) :
    s.post k record detail = s := by
  unfold State.post
  split
  · rfl
  · rfl
  · next hp => rw [hp] at h; simp at h
  · next hp => rw [hp] at h; simp at h

/-- A report made during an engine restart is counted in the restart drop count (R169). -/
theorem State.post_of_restarting (h : s.phase = .restarting) :
    s.post k record detail =
      s.modJournal fun j => { j with dropCount := satAdd 65535 j.dropCount 1 } := by
  unfold State.post
  split
  · next hp => rw [hp] at h; simp at h
  · next hp => rw [hp] at h; simp at h
  · rfl
  · next hp => rw [hp] at h; simp at h

/-- A report made in service (R165, R168). -/
theorem State.post_of_ready (h : s.phase = .ready) :
    s.post k record detail =
      if s.journal.lets k then
        s.handle { kind := k, record := record, stamp := s.timing.stamp, detail := detail }
      else s := by
  unfold State.post
  split
  · next hp => rw [hp] at h; simp at h
  · next hp => rw [hp] at h; simp at h
  · next hp => rw [hp] at h; simp at h
  · rfl

end

/-- A post depends on the phase, the stamp, control memory, the journal and ATTENTION alone, and
changes the last three alone. -/
theorem State.post_withJournalOf {t x : State} (hp : t.phase = x.phase)
    (ht : t.timing.stamp = x.timing.stamp) (k : Kind) (record : Nat) (detail : List Word) :
    (t.withJournalOf x).post k record detail = t.withJournalOf (x.post k record detail) := by
  have hp' : (t.withJournalOf x).phase = x.phase := hp
  cases h : x.phase with
  | inReset =>
    rw [State.post_of_reset k record detail (.inl h),
      State.post_of_reset k record detail (.inl (hp'.trans h))]
  | initialising =>
    rw [State.post_of_reset k record detail (.inr h),
      State.post_of_reset k record detail (.inr (hp'.trans h))]
  | restarting =>
    rw [State.post_of_restarting k record detail h,
      State.post_of_restarting k record detail (hp'.trans h)]
    rfl
  | ready =>
    have ht' : (t.withJournalOf x).timing.stamp = x.timing.stamp := ht
    rw [State.post_of_ready k record detail h, State.post_of_ready k record detail (hp'.trans h), ht',
      State.handle_withJournalOf t x ht, State.withJournalOf_journal]
    split <;> rfl

/-- A post changes control memory, the journal and ATTENTION alone. -/
theorem State.post_frame (s : State) (k : Kind) (record : Nat) (detail : List Word) :
    s.post k record detail = s.withJournalOf (s.post k record detail) :=
  State.post_withJournalOf (t := s) (x := s) rfl rfl k record detail

/-- A post made after changes elsewhere is the post made before them, and then the changes. -/
theorem State.post_of_agree {t s : State} (hp : t.phase = s.phase)
    (ht : t.timing.stamp = s.timing.stamp) (hm : t.memory = s.memory) (hj : t.journal = s.journal)
    (ha : t.attention = s.attention) (k : Kind) (record : Nat) (detail : List Word) :
    t.post k record detail = t.withJournalOf (s.post k record detail) := by
  have h : t = t.withJournalOf s := by
    unfold State.withJournalOf
    rw [← hm, ← hj, ← ha]
  conv => lhs; rw [h]
  exact State.post_withJournalOf hp ht k record detail

section
variable (s : State) (k : Kind) (record : Nat) (detail : List Word)

@[simp] theorem State.post_phase : (s.post k record detail).phase = s.phase := by
  rw [State.post_frame]; rfl

@[simp] theorem State.post_holdreq : (s.post k record detail).holdreq = s.holdreq := by
  rw [State.post_frame]; rfl

@[simp] theorem State.post_port : (s.post k record detail).port = s.port := by
  rw [State.post_frame]; rfl

@[simp] theorem State.post_mask : (s.post k record detail).mask = s.mask := by
  rw [State.post_frame]; rfl

@[simp] theorem State.post_violations : (s.post k record detail).violations = s.violations := by
  rw [State.post_frame]; rfl

@[simp] theorem State.post_scrub : (s.post k record detail).scrub = s.scrub := by
  rw [State.post_frame]; rfl

@[simp] theorem State.post_badWords : (s.post k record detail).badWords = s.badWords := by
  rw [State.post_frame]; rfl

@[simp] theorem State.post_patrol : (s.post k record detail).patrol = s.patrol := by
  rw [State.post_frame]; rfl

@[simp] theorem State.post_reportHeads : (s.post k record detail).reportHeads = s.reportHeads := by
  rw [State.post_frame]; rfl

@[simp] theorem State.post_timing : (s.post k record detail).timing = s.timing := by
  rw [State.post_frame]; rfl

@[simp] theorem State.post_lines : (s.post k record detail).lines = s.lines := by
  rw [State.post_frame]; rfl

@[simp] theorem State.post_slots : (s.post k record detail).slots = s.slots := by
  rw [State.post_frame]; rfl

@[simp] theorem State.post_bankCounts : (s.post k record detail).bankCounts = s.bankCounts := by
  rw [State.post_frame]; rfl

@[simp] theorem State.post_spare : (s.post k record detail).spare = s.spare := by
  rw [State.post_frame]; rfl

@[simp] theorem State.post_monitorUnit : (s.post k record detail).monitorUnit = s.monitorUnit := by
  rw [State.post_frame]; rfl

@[simp] theorem State.post_highway : (s.post k record detail).highway = s.highway := by
  rw [State.post_frame]; rfl

@[simp] theorem State.post_pending : (s.post k record detail).pending = s.pending := by
  rw [State.post_frame]; rfl

@[simp] theorem State.post_line (n : LineNo) : (s.post k record detail).line n = s.line n := by
  rw [State.post_frame]; rfl

@[simp] theorem State.post_slot (b : Fin 9) (i : Nat) : (s.post k record detail).slot b i = s.slot b i := by
  rw [State.post_frame]; rfl

@[simp] theorem State.post_cover (n : LineNo) : (s.post k record detail).cover n = s.cover n := by
  rw [State.post_frame]; rfl

@[simp] theorem State.post_bank (b : Fin 9) : (s.post k record detail).bank b = s.bank b := by
  rw [State.post_frame]; rfl

@[simp] theorem State.post_monitor (m : MonitorNo) : (s.post k record detail).monitor m = s.monitor m := by
  rw [State.post_frame]; rfl

@[simp] theorem State.post_gathered (n : LineNo) : (s.post k record detail).gathered n = s.gathered n := by
  rw [State.post_frame]; rfl

@[simp] theorem State.post_head (r : Record) : (s.post k record detail).head r = s.head r := by
  rw [State.post_frame]; rfl

/-- A post made on a changed line is the change made on the post. -/
theorem State.post_setLine (n : LineNo) (l : Line) :
    (s.setLine n l).post k record detail = (s.post k record detail).setLine n l := by
  rw [State.post_of_agree (t := s.setLine n l) (s := s) rfl rfl rfl rfl rfl, State.post_frame s]
  rfl

theorem State.post_modLine (n : LineNo) (f : Line → Line) :
    (s.modLine n f).post k record detail = (s.post k record detail).modLine n f := by
  rw [State.modLine, State.post_setLine, State.modLine, State.post_line]

end

/-! ## The canonical form -/

section
variable {s : State}

theorem State.strikeSlot_wf (h : Memory.wf s.memory) (i : Fin 128) (hits : List (Fin 16 × Nat)) :
    Memory.wf (s.strikeSlot i hits).memory := by
  unfold State.strikeSlot
  induction hits generalizing s with
  | nil => exact h
  | cons e hits ih => exact ih (s.setMemWord_wf h _ _)

theorem State.mendSlot_wf (h : Memory.wf s.memory) (i : Fin 128) (copy : List (Nat × Word)) :
    Memory.wf (s.mendSlot i copy).memory := by
  unfold State.mendSlot
  induction copy generalizing s with
  | nil => exact h
  | cons p copy ih =>
    rw [List.foldl_cons]
    apply ih
    split
    · exact s.memWrite_wf h _ _
    · exact h

theorem State.readBack_wf (h : Memory.wf s.memory) (i : Fin 128) (r : Report) (serial : Long) :
    Memory.wf (s.readBack i r serial).1.memory := by
  simp only [State.readBack, apply_ite Prod.fst, apply_ite State.memory,
    State.setJournalSlot_memory, ite_self]
  exact State.mendSlot_wf h i _

theorem State.writeOn_wf (h : Memory.wf s.memory) (c : PostInProgress) :
    Memory.wf (s.writeOn c).1.memory := by
  have hw k : Memory.wf (s.writeUpTo c k).memory := s.memWriteAll_wf h _
  unfold State.writeOn
  split
  · exact hw _
  · exact State.readBack_wf (State.strikeSlot_wf
      (s := (s.writeUpTo c 14).modJournal fun j => { j with current := none }) (hw 14) _ _) _ _ _

theorem State.place_wf (h : Memory.wf s.memory) (r : Report) (stage : PostStage) :
    Memory.wf (s.place r stage).1.memory := by
  unfold State.place
  split
  · exact h
  · next i _ =>
    exact State.writeOn_wf (s := (s.setJournalSlot i
      { state := .held, serial := s.journal.nextSerial, posting := true }).modJournal
        fun j => { j with plans := j.plans.tail }) h _

theorem Report.afterRetry_wf (h : Memory.wf s.memory) (r : Report) (p : Placed) :
    Memory.wf (r.afterRetry (s, p)).memory := by
  cases p <;> exact h

theorem State.retry_wf (h : Memory.wf s.memory) (r : Report) : Memory.wf (s.retry r).memory :=
  Report.afterRetry_wf (State.place_wf h r .retry) r _

theorem Report.afterSlotBad_wf (h : Memory.wf s.memory) (r : Report) (p : Placed) :
    Memory.wf (r.afterSlotBad (s, p)).memory := by
  cases p with
  | noSlot => exact State.retry_wf (s := s.noRoom .journalSlotBad) h r
  | waits => exact h
  | stands => exact State.retry_wf h r
  | failed _ _ => exact h

theorem Report.afterFirst_wf (h : Memory.wf s.memory) (r : Report) (p : Placed) :
    Memory.wf (r.afterFirst (s, p)).memory := by
  cases p with
  | noSlot => exact h
  | waits => exact h
  | stands => exact h
  | failed slot serial =>
    simp only [Report.afterFirst]
    split
    · exact Report.afterSlotBad_wf (State.place_wf h _ _) r _
    · exact State.retry_wf h r

theorem State.handle_wf (h : Memory.wf s.memory) (r : Report) : Memory.wf (s.handle r).memory := by
  unfold State.handle
  split
  · exact h
  · split
    · exact h
    · exact Report.afterFirst_wf (State.place_wf h r .first) r _

theorem PostInProgress.after_wf {x : State × Placed} (h : Memory.wf x.1.memory) (c : PostInProgress) :
    Memory.wf (c.after x).memory := by
  obtain ⟨s, p⟩ := x
  unfold PostInProgress.after
  split
  · exact Report.afterFirst_wf h _ p
  · exact Report.afterSlotBad_wf h _ p
  · exact Report.afterRetry_wf h _ p

/-- The writer's grants keep control memory's canonical form. -/
theorem State.goOn_wf (h : Memory.wf s.memory) : Memory.wf s.goOn.memory := by
  unfold State.goOn
  split
  · exact h
  · next c _ =>
    have hf : ∀ (l : List Report) (y : State), Memory.wf y.memory →
        Memory.wf (l.foldl State.handle y).memory := by
      intro l
      induction l with
      | nil => exact fun _ hy => hy
      | cons r l ih => exact fun y hy => ih _ (State.handle_wf hy r)
    exact hf _ _ (PostInProgress.after_wf (State.writeOn_wf h c) c)

/-- The completion of a post keeps control memory's canonical form. -/
theorem State.finishPost_wf (h : Memory.wf s.memory) : Memory.wf s.finishPost.memory := by
  unfold State.finishPost
  split
  · exact h
  · exact PostInProgress.after_wf (State.writeOn_wf
      (s := s.modJournal fun j => { j with plans := j.plans.map fun p => { p with stops := [] } })
      h _) _

/-- A post keeps control memory's canonical form. -/
theorem State.post_wf (h : Memory.wf s.memory) (k : Kind) (record : Nat) (detail : List Word) :
    Memory.wf (s.post k record detail).memory := by
  unfold State.post
  split
  · exact h
  · exact h
  · exact h
  · split
    · exact State.handle_wf h _
    · exact h

end

end Sys2Proof.Machine
end

