-- ==== Sys2Proof/Laws/Drain.lean ====
section
/-!
SUPPORT. The journal writer served before the patrol (R148): each turn passes a stop, so that it ends
with no post in progress.
-/
namespace Sys2Proof.Machine

/-- The stops of the slot writes to come. -/
def Journal.stopsAhead (j : Journal) : Nat := (j.plans.map fun p => p.stops.length).sum

theorem Journal.stopsLeft_of_none {j : Journal} (h : j.current = none) :
    j.stopsLeft = j.stopsAhead := by
  rw [Journal.stopsLeft, h, Nat.zero_add, Journal.stopsAhead]

theorem Journal.stopsLeft_of_some {j : Journal} {c : PostInProgress} (h : j.current = some c) :
    j.stopsLeft = c.plan.stops.length + j.stopsAhead := by
  rw [Journal.stopsLeft, h, Journal.stopsAhead]

/-- A state with at most `m` stops left, and fewer where a post is in progress. -/
def State.Spent (m : Nat) (s : State) : Prop :=
  (s.journal.current = none → s.journal.stopsAhead ≤ m) ∧
  (s.journal.current ≠ none → s.journal.stopsLeft < m)

/-- A placing that came to nothing more to write has no post in progress; one that waits has passed a
stop. -/
def Placed.Spent (m : Nat) (x : State × Placed) : Prop :=
  (x.2 = .waits → x.1.journal.stopsLeft < m) ∧
  (x.2 ≠ .waits → x.1.journal.current = none ∧ x.1.journal.stopsAhead ≤ m)

/-! ## Where the writing of a slot leaves the plans -/

theorem State.strikeSlot_journal (s : State) (i : Fin 128) (hits : List (Fin 16 × Nat)) :
    (s.strikeSlot i hits).journal = s.journal := by
  unfold State.strikeSlot
  induction hits generalizing s with
  | nil => rfl
  | cons h hits ih => rw [List.foldl_cons, ih]; rfl

theorem State.mendSlot_journal (s : State) (i : Fin 128) (copy : List (Nat × Word)) :
    (s.mendSlot i copy).journal = s.journal := by
  unfold State.mendSlot
  induction copy generalizing s with
  | nil => rfl
  | cons p copy ih =>
    rw [List.foldl_cons, ih]
    split <;> rfl

/-- The read-back leaves the post in progress and the plans alone, and does not wait. -/
theorem State.readBack_plans (s : State) (i : Fin 128) (x : Report) (serial : Long) :
    (s.readBack i x serial).1.journal.current = s.journal.current ∧
    (s.readBack i x serial).1.journal.plans = s.journal.plans ∧
    (s.readBack i x serial).2 ≠ .waits := by
  unfold State.readBack
  dsimp only
  split <;> simp [State.setJournalSlot, State.mendSlot_journal]

theorem State.writeUpTo_plans (s : State) (c : PostInProgress) (k : Nat) :
    (s.writeUpTo c k).journal.plans = s.journal.plans := by
  unfold State.writeUpTo
  rw [State.memWriteAll_frame]
  rfl

/-- The writing of a slot passes a stop, or ends the post. -/
theorem State.writeOn_spent (s : State) (c : PostInProgress) :
    Placed.Spent (c.plan.stops.length + s.journal.stopsAhead) (s.writeOn c) := by
  unfold State.writeOn
  split
  · next k rest h =>
    refine ⟨fun _ => ?_, fun hn => absurd rfl hn⟩
    rw [Journal.stopsLeft_of_some (c := { c with
      written := max c.written k, plan := { c.plan with stops := rest } }) rfl, h]
    simp [Journal.stopsAhead, State.modJournal, State.writeUpTo_plans]
  · next h =>
    obtain ⟨hc, hp, hw⟩ := State.readBack_plans
      (((s.writeUpTo c 14).modJournal fun j => { j with current := none }).strikeSlot c.slot
        c.plan.hits) c.slot c.report c.serial
    refine ⟨fun e => absurd e hw, fun _ => ⟨?_, ?_⟩⟩
    · rw [hc, State.strikeSlot_journal]; rfl
    · rw [Journal.stopsAhead, hp, State.strikeSlot_journal, h]
      simp [Journal.stopsAhead, State.modJournal, State.writeUpTo_plans]

section
variable {s : State} {m : Nat}

/-- The placing of a report takes the plan of the next slot write, and passes its first stop or ends. -/
theorem State.place_spent (hc : s.journal.current = none) (hm : s.journal.stopsAhead ≤ m) (x : Report)
    (stage : PostStage) : Placed.Spent m (s.place x stage) := by
  unfold State.place
  split
  · exact ⟨nofun, fun _ => ⟨hc, hm⟩⟩
  · next i _ =>
    have h := State.writeOn_spent
      ((s.setJournalSlot i { state := .held, serial := s.journal.nextSerial, posting := true }).modJournal
        fun j => { j with plans := j.plans.tail })
      { slot := i, serial := s.journal.nextSerial, report := x, stage := stage, written := 0
        plan := s.journal.plans.headD {} }
    have e : (s.journal.plans.headD {}).stops.length +
        Journal.stopsAhead { s.journal with plans := s.journal.plans.tail } = s.journal.stopsAhead := by
      unfold Journal.stopsAhead
      cases s.journal.plans <;> simp
    have hle := e.trans_le hm
    exact ⟨fun hw => (h.1 hw).trans_le hle, fun hw => ⟨(h.2 hw).1, (h.2 hw).2.trans hle⟩⟩

theorem State.Spent.of_none (hc : s.journal.current = none) (hm : s.journal.stopsAhead ≤ m) :
    s.Spent m := ⟨fun _ => hm, fun h => absurd hc h⟩

theorem State.Spent.of_lt (h : s.journal.stopsLeft < m) : s.Spent m := by
  refine ⟨fun hc => ?_, fun _ => h⟩
  rw [← Journal.stopsLeft_of_none hc]
  exact h.le

theorem Report.afterRetry_spent (x : Report) {y : State × Placed} (h : Placed.Spent m y) :
    (x.afterRetry y).Spent m := by
  obtain ⟨t, p⟩ := y
  cases p with
  | noSlot => exact .of_none (h.2 nofun).1 (h.2 nofun).2
  | waits => exact .of_lt (h.1 rfl)
  | stands => exact .of_none (h.2 nofun).1 (h.2 nofun).2
  | failed _ _ => exact .of_none (h.2 nofun).1 (h.2 nofun).2

theorem State.retry_spent (hc : s.journal.current = none) (hm : s.journal.stopsAhead ≤ m) (x : Report) :
    (s.retry x).Spent m := x.afterRetry_spent (State.place_spent hc hm x .retry)

theorem Report.afterSlotBad_spent (x : Report) {y : State × Placed} (h : Placed.Spent m y) :
    (x.afterSlotBad y).Spent m := by
  obtain ⟨t, p⟩ := y
  cases p with
  | noSlot => exact State.retry_spent (s := t.noRoom .journalSlotBad) (h.2 nofun).1 (h.2 nofun).2 x
  | waits => exact .of_lt (h.1 rfl)
  | stands => exact State.retry_spent (h.2 nofun).1 (h.2 nofun).2 x
  | failed _ _ => exact .of_none (h.2 nofun).1 (h.2 nofun).2

theorem Report.afterFirst_spent (x : Report) {y : State × Placed} (h : Placed.Spent m y) :
    (x.afterFirst y).Spent m := by
  obtain ⟨t, p⟩ := y
  cases p with
  | noSlot => exact .of_none (h.2 nofun).1 (h.2 nofun).2
  | waits => exact .of_lt (h.1 rfl)
  | stands => exact .of_none (h.2 nofun).1 (h.2 nofun).2
  | failed slot serial =>
    simp only [Report.afterFirst]
    split
    · exact x.afterSlotBad_spent (State.place_spent (h.2 nofun).1 (h.2 nofun).2 _ _)
    · exact State.retry_spent (h.2 nofun).1 (h.2 nofun).2 x

theorem State.handle_spent (h : s.Spent m) (x : Report) : (s.handle x).Spent m := by
  by_cases hc : s.journal.current = none
  · rw [State.handle_of_none hc]
    split
    · exact .of_none hc (h.1 hc)
    · exact x.afterFirst_spent (State.place_spent hc (h.1 hc) x .first)
  · rw [State.handle_of_current hc]
    exact .of_lt (s := s.modJournal fun j => { j with waiting := j.waiting ++ [x] }) (h.2 hc)

/-- The writer's grants pass a stop of a post in progress, or end it. -/
theorem State.goOn_spent (h : s.journal.current ≠ none) : s.goOn.Spent s.journal.stopsLeft := by
  have hf : ∀ (l : List Report) (y : State), y.Spent s.journal.stopsLeft →
      (l.foldl State.handle y).Spent s.journal.stopsLeft := by
    intro l
    induction l with
    | nil => exact fun _ hy => hy
    | cons r l ih => exact fun y hy => ih _ (State.handle_spent hy r)
  unfold State.goOn
  split
  · next hc => exact absurd hc h
  · next c hc =>
    refine hf _ _ ?_
    have hw : Placed.Spent s.journal.stopsLeft (s.writeOn c) := by
      rw [Journal.stopsLeft_of_some hc]
      exact s.writeOn_spent c
    show (c.after (s.writeOn c)).Spent _
    unfold PostInProgress.after
    split
    · exact Report.afterFirst_spent _ hw
    · exact Report.afterSlotBad_spent _ hw
    · exact Report.afterRetry_spent _ hw

end

/-! ## The writer served to the end -/

section
variable {s : State}

@[simp] theorem State.drainUpTo_of_none (h : s.journal.current = none) (n : Nat) :
    s.drainUpTo n = s := by
  cases n with
  | zero => rfl
  | succ n => rw [State.drainUpTo, h]; rfl

theorem State.drainUpTo_of_some (h : s.journal.current ≠ none) (n : Nat) :
    s.drainUpTo (n + 1) = s.goOn.drainUpTo n := by
  rw [State.drainUpTo, if_pos (Option.isSome_iff_ne_none.mpr h)]

/-- With no post in progress the writer wants no grant. -/
@[simp] theorem State.drainPosts_of_none (h : s.journal.current = none) : s.drainPosts = s :=
  State.drainUpTo_of_none h _

theorem State.drainUpTo_current {n : Nat} (h : s.journal.stopsLeft < n) :
    (s.drainUpTo n).journal.current = none := by
  induction n generalizing s with
  | zero => exact absurd h (Nat.not_lt_zero _)
  | succ n ih =>
    by_cases hc : s.journal.current = none
    · rw [State.drainUpTo_of_none hc, hc]
    · rw [State.drainUpTo_of_some hc]
      by_cases hg : s.goOn.journal.current = none
      · rw [State.drainUpTo_of_none hg, hg]
      · exact ih ((State.goOn_spent hc).2 hg |>.trans_le (Nat.le_of_lt_succ h))

/-- The patrol is granted a word only when no post is in progress (R148). -/
theorem State.drainPosts_current : s.drainPosts.journal.current = none :=
  State.drainUpTo_current (Nat.lt_succ_self _)

/-- The journal writer changes control memory, the journal and ATTENTION alone. -/
theorem State.drainUpTo_frame (s : State) (n : Nat) :
    s.drainUpTo n = s.withJournalOf (s.drainUpTo n) := by
  induction n generalizing s with
  | zero => rfl
  | succ n ih =>
    by_cases hc : s.journal.current = none
    · rw [State.drainUpTo_of_none hc]; rfl
    · rw [State.drainUpTo_of_some hc, ih, State.goOn_frame s]
      rfl

theorem State.drainPosts_frame (s : State) : s.drainPosts = s.withJournalOf s.drainPosts :=
  s.drainUpTo_frame _

/-- The journal writer keeps control memory's canonical form. -/
theorem State.drainPosts_wf (h : Memory.wf s.memory) : Memory.wf s.drainPosts.memory := by
  have hd : ∀ (n : Nat) (t : State), Memory.wf t.memory → Memory.wf (t.drainUpTo n).memory := by
    intro n
    induction n with
    | zero => exact fun _ ht => ht
    | succ n ih =>
      intro t ht
      by_cases hc : t.journal.current = none
      · rw [State.drainUpTo_of_none hc]; exact ht
      · rw [State.drainUpTo_of_some hc]; exact ih _ (State.goOn_wf ht)
  exact hd _ s h

end

end Sys2Proof.Machine
end

