-- ==== Sys2Proof/Laws/Frame.lean ====
section
/-!
SUPPORT. What the blocks on the frame path leave alone: the control plane, and all but the office
timing unit the office timing too.
-/
namespace Sys2Proof.Machine

theorem State.ControlKept.refl (s : State) : s.ControlKept s :=
  ⟨rfl, rfl, rfl, rfl, rfl, rfl, rfl, rfl, rfl, rfl⟩

theorem State.ControlKept.trans {s t u : State} (h : s.ControlKept t) (k : t.ControlKept u) :
    s.ControlKept u :=
  ⟨k.phase.trans h.phase,
    k.holdreq.trans h.holdreq,
    k.port.trans h.port,
    k.mask.trans h.mask,
    k.violations.trans h.violations,
    k.scrub.trans h.scrub,
    k.badWords.trans h.badWords,
    k.patrol.trans h.patrol,
    k.reportHeads.trans h.reportHeads,
    k.pending.trans h.pending⟩

theorem State.Quiet.refl (s : State) : s.Quiet s := ⟨.refl s, rfl⟩

theorem State.Quiet.trans {s t u : State} (h : s.Quiet t) (k : t.Quiet u) : s.Quiet u :=
  ⟨h.toControlKept.trans k.toControlKept, k.timing.trans h.timing⟩

/-- Steps that each leave them alone leave them alone together. -/
theorem State.Quiet.foldl {β : Type} (f : State → β → State) (h : ∀ (s : State) b, s.Quiet (f s b))
    (l : List β) (s : State) : s.Quiet (l.foldl f s) := by
  induction l generalizing s with
  | nil => exact .refl s
  | cons b l ih => exact (h s b).trans (ih _)

theorem State.Quiet.ite {s t u : State} (c : Prop) [Decidable c] (ht : s.Quiet t) (hu : s.Quiet u) :
    s.Quiet (if c then t else u) := by split <;> assumption

section
variable (s : State)


theorem State.setLine_quiet (n : LineNo) (l : Line) : s.Quiet (s.setLine n l) :=
  ⟨⟨rfl, rfl, rfl, rfl, rfl, rfl, rfl, rfl, rfl, rfl⟩, rfl⟩

theorem State.modLine_quiet (n : LineNo) (f : Line → Line) : s.Quiet (s.modLine n f) :=
  ⟨⟨rfl, rfl, rfl, rfl, rfl, rfl, rfl, rfl, rfl, rfl⟩, rfl⟩

theorem State.setCover_quiet (n : LineNo) (c : Coverage) : s.Quiet (s.setCover n c) :=
  ⟨⟨rfl, rfl, rfl, rfl, rfl, rfl, rfl, rfl, rfl, rfl⟩, rfl⟩

theorem State.setBank_quiet (b : Fin 9) (c : BankCounts) : s.Quiet (s.setBank b c) :=
  ⟨⟨rfl, rfl, rfl, rfl, rfl, rfl, rfl, rfl, rfl, rfl⟩, rfl⟩

theorem State.setMonitor_quiet (m : MonitorNo) (x : Monitor) : s.Quiet (s.setMonitor m x) :=
  ⟨⟨rfl, rfl, rfl, rfl, rfl, rfl, rfl, rfl, rfl, rfl⟩, rfl⟩

theorem State.setGathered_quiet (n : LineNo) (x : Gathered) : s.Quiet (s.setGathered n x) :=
  ⟨⟨rfl, rfl, rfl, rfl, rfl, rfl, rfl, rfl, rfl, rfl⟩, rfl⟩

theorem State.setSlot_quiet (b : Fin 9) (i : Nat) (x : Slot) : s.Quiet (s.setSlot b i x) :=
  ⟨⟨rfl, rfl, rfl, rfl, rfl, rfl, rfl, rfl, rfl, rfl⟩, rfl⟩

theorem State.modSpare_quiet (f : Spare → Spare) : s.Quiet (s.modSpare f) :=
  ⟨⟨rfl, rfl, rfl, rfl, rfl, rfl, rfl, rfl, rfl, rfl⟩, rfl⟩

theorem State.modMonitorUnit_quiet (f : MonitorUnit → MonitorUnit) : s.Quiet (s.modMonitorUnit f) :=
  ⟨⟨rfl, rfl, rfl, rfl, rfl, rfl, rfl, rfl, rfl, rfl⟩, rfl⟩

theorem State.modHighway_quiet (f : Highway → Highway) : s.Quiet (s.modHighway f) :=
  ⟨⟨rfl, rfl, rfl, rfl, rfl, rfl, rfl, rfl, rfl, rfl⟩, rfl⟩

theorem State.setMemWord_quiet (a : Nat) (w : MemWord) : s.Quiet (s.setMemWord a w) :=
  ⟨⟨rfl, rfl, rfl, rfl, rfl, rfl, rfl, rfl, rfl, rfl⟩, rfl⟩

theorem State.memWrite_quiet (a : Nat) (x : Word) : s.Quiet (s.memWrite a x) :=
  ⟨⟨rfl, rfl, rfl, rfl, rfl, rfl, rfl, rfl, rfl, rfl⟩, rfl⟩

theorem State.setJournalSlot_quiet (i : Fin 128) (x : JournalSlot) : s.Quiet (s.setJournalSlot i x) :=
  ⟨⟨rfl, rfl, rfl, rfl, rfl, rfl, rfl, rfl, rfl, rfl⟩, rfl⟩

theorem State.modJournal_quiet (f : Journal → Journal) : s.Quiet (s.modJournal f) :=
  ⟨⟨rfl, rfl, rfl, rfl, rfl, rfl, rfl, rfl, rfl, rfl⟩, rfl⟩

theorem State.modAttention_quiet (f : Attention → Attention) : s.Quiet (s.modAttention f) :=
  ⟨⟨rfl, rfl, rfl, rfl, rfl, rfl, rfl, rfl, rfl, rfl⟩, rfl⟩

theorem State.memWriteAll_quiet (l : List (Nat × Word)) : s.Quiet (s.memWriteAll l) :=
  State.Quiet.foldl (fun s (p : Nat × Word) => s.memWrite p.1 p.2) (fun s p => s.memWrite_quiet p.1 p.2) l s

theorem State.post_quiet (k : Kind) (record : Nat) (detail : List Word) :
    s.Quiet (s.post k record detail) := by
  constructor
  · constructor <;> simp
  · simp

theorem State.postLine_quiet (k : Kind) (n : LineNo) (detail : List Word) :
    s.Quiet (s.postLine k n detail) := s.post_quiet k _ detail

/-! ## Spare control and the store -/

theorem State.writeSlot_quiet (k : Fin 8) (i : Nat) (x : Slot) : s.Quiet (s.writeSlot k i x) :=
  State.Quiet.foldl (fun s b => s.setSlot b i x) (fun s b => s.setSlot_quiet b i x) _ s

theorem State.enterSpare_quiet (new : SpareState) (cause : SpareCause) (b : Fin 8) :
    s.Quiet (s.enterSpare new cause b) :=
  (s.modSpare_quiet _).trans (State.post_quiet _ _ _ _)

theorem State.settleSpare_quiet : s.Quiet s.settleSpare := by
  unfold State.settleSpare
  split
  · exact .refl s
  · exact .ite _ (s.enterSpare_quiet _ _ _) (.refl s)

theorem State.startSpare_quiet (new : SpareState) (cause : SpareCause) (b : Fin 8) :
    s.Quiet (s.startSpare new cause b) :=
  (s.enterSpare_quiet new cause b).trans (State.settleSpare_quiet _)

theorem State.coverLine_quiet (n : LineNo) : s.Quiet (s.coverLine n) := by
  unfold State.coverLine
  split
  · exact (s.setCover_quiet n _).trans (State.settleSpare_quiet _)
  · exact .refl s
  · exact .refl s

theorem State.countCoverage_quiet (n : LineNo) : s.Quiet (s.countCoverage n) := by
  unfold State.countCoverage
  split
  · exact .refl s
  · exact .ite _ (.ite _ ((s.setCover_quiet n _).trans (State.coverLine_quiet _ n))
      (s.setCover_quiet n _)) (.refl s)

theorem State.autoSwap_quiet (b : Fin 9) : s.Quiet (s.autoSwap b) := by
  unfold State.autoSwap
  split
  · exact .ite _ (s.startSpare_quiet _ _ _) (.refl s)
  · exact .refl s

theorem State.takeSwap_quiet (k : Fin 8) : s.Quiet (s.takeSwap k) := by
  unfold State.takeSwap
  split
  · exact s.startSpare_quiet _ _ _
  · exact .refl s
  · exact .refl s
  · exact .refl s

theorem State.takeReturn_quiet : s.Quiet s.takeReturn := by
  unfold State.takeReturn
  split
  · exact .refl s
  · exact .refl s
  · exact s.startSpare_quiet _ _ _
  · exact .refl s

theorem State.takeCancel_quiet : s.Quiet s.takeCancel := by
  unfold State.takeCancel
  split
  · exact .refl s
  · exact s.enterSpare_quiet _ _ _
  · exact .refl s
  · exact s.enterSpare_quiet _ _ _

theorem State.changeLine_quiet (n : LineNo) (new : LineState) (cause : LineCause) :
    s.Quiet (s.changeLine n new cause) :=
  (s.modLine_quiet n _).trans (State.postLine_quiet _ _ _ _)

theorem State.emptyRing_quiet (n : LineNo) : s.Quiet (s.emptyRing n) := s.modLine_quiet n _

theorem State.storeReset_quiet (n : LineNo) : s.Quiet (s.storeReset n) :=
  ((s.modLine_quiet n _).trans
    (State.Quiet.foldl (fun t j => t.writeSlot (s.line n).placement.bank
      ((s.line n).placement.slotAt j) {}) (fun t _ => t.writeSlot_quiet _ _ _) _ _)).trans (State.coverLine_quiet _ n)

theorem State.refill_quiet (n : LineNo) (cause : LineCause) : s.Quiet (s.refill n cause) :=
  (s.changeLine_quiet n _ cause).trans (State.storeReset_quiet _ n)

/-! ## The line front, the writer and the window unit -/

theorem State.writeFrame_quiet (n : LineNo) (payload : List Octet) (tag : GroupPos) :
    s.Quiet (s.writeFrame n payload tag) := by
  unfold State.writeFrame
  refine .ite _ (.ite _ ?_ ?_) (.refl s)
  · exact ((s.writeSlot_quiet _ _ _).trans (State.modLine_quiet _ n _)).trans
      (State.countCoverage_quiet _ n)
  · exact (s.modLine_quiet n _).trans (State.setGathered_quiet _ n _)

theorem State.reportLocked_quiet (n : LineNo) : s.Quiet (s.reportLocked n) := by
  unfold State.reportLocked
  split
  · exact s.refill_quiet n _
  all_goals exact .refl s

theorem State.reportLost_quiet (n : LineNo) : s.Quiet (s.reportLost n) := by
  unfold State.reportLost
  split
  · exact (s.emptyRing_quiet n).trans (State.changeLine_quiet _ n _ _)
  · exact (s.emptyRing_quiet n).trans (State.changeLine_quiet _ n _ _)
  all_goals exact .refl s

theorem State.setFramer_quiet (n : LineNo) (f : Framer) : s.Quiet (s.setFramer n f) :=
  s.modLine_quiet n _

theorem State.confirmCheck_quiet (n : LineNo) : s.Quiet (s.confirmCheck n) := by
  unfold State.confirmCheck
  exact .ite _ ((s.setFramer_quiet n _).trans (State.reportLocked_quiet _ n)) (s.setFramer_quiet n _)

theorem State.countAlignError_quiet (n : LineNo) : s.Quiet (s.countAlignError n) :=
  (s.modLine_quiet n _).trans (State.setGathered_quiet _ n _)

theorem State.lockedCheck_quiet (n : LineNo) : s.Quiet (s.lockedCheck n) := by
  unfold State.lockedCheck
  refine .ite _ (s.setFramer_quiet n _) (.ite _ ?_ ?_)
  · exact ((s.countAlignError_quiet n).trans (State.setFramer_quiet _ n _)).trans
      (State.reportLost_quiet _ n)
  · exact (s.countAlignError_quiet n).trans (State.setFramer_quiet _ n _)

theorem State.deliver_quiet (n : LineNo) : s.Quiet (s.deliver n) :=
  (s.setFramer_quiet n _).trans (State.writeFrame_quiet _ n _ _)

theorem State.framerStep_quiet (n : LineNo) : s.Quiet (s.framerStep n) := by
  unfold State.framerStep
  simp only
  split
  · exact s.setFramer_quiet n _
  · exact .ite _ (s.confirmCheck_quiet n) (.refl s)
  · exact .ite _ (s.lockedCheck_quiet n) (.ite _ (s.deliver_quiet n)
      (.ite _ (s.setFramer_quiet n _) (s.setFramer_quiet n _)))

theorem State.recordBit_quiet (n : LineNo) (b : Bool) : s.Quiet (s.recordBit n b) :=
  s.modLine_quiet n _

theorem State.takeBit_quiet (n : LineNo) (b : Bool) : s.Quiet (s.takeBit n b) := by
  unfold State.takeBit
  exact .ite _ (s.recordBit_quiet n b) ((s.recordBit_quiet n b).trans (State.framerStep_quiet _ n))

theorem State.recordOctet_quiet (n : LineNo) (o : Octet) : s.Quiet (s.recordOctet n o) :=
  State.Quiet.foldl (fun s b => s.recordBit n b) (fun s b => s.recordBit_quiet n b) _ s

theorem State.endWindow_quiet (n : LineNo) : s.Quiet (s.endWindow n) := by
  unfold State.endWindow
  refine State.Quiet.trans ?_ (State.modLine_quiet _ n _)
  refine State.Quiet.trans (t := if (s.line n).window.reportWindows then _ else _) ?_
    (.ite _ (State.postLine_quiet _ _ n _) (.refl _))
  exact .ite _ ((s.modLine_quiet n _).trans (State.postLine_quiet _ _ n _)) (s.modLine_quiet n _)

theorem State.closeWindowFrame_quiet (n : LineNo) (busTimed : Bool) :
    s.Quiet (s.closeWindowFrame n busTimed) := by
  unfold State.closeWindowFrame
  refine .ite _ (s.modLine_quiet n _) (.ite _ (.ite _ ?_ (s.modLine_quiet n _)) (.refl s))
  exact (s.modLine_quiet n _).trans (State.endWindow_quiet _ n)

/-! ## The reader -/

theorem State.enterDead_quiet (n : LineNo) : s.Quiet (s.enterDead n) :=
  ((s.modLine_quiet n _).trans (State.changeLine_quiet _ n _ _)).trans (State.coverLine_quiet _ n)

theorem State.deadStage_quiet (n : LineNo) : s.Quiet (s.deadStage n) := by
  unfold State.deadStage
  simp only
  split
  · exact .refl s
  · exact .ite _ (.refl s) ((s.modLine_quiet n _).trans (State.changeLine_quiet _ n _ _))
  all_goals exact .ite _ (.ite _ (s.enterDead_quiet n) (s.modLine_quiet n _)) (s.modLine_quiet n _)

theorem State.countRead_quiet (n : LineNo) (b : Fin 9) (x : SlotResult) :
    s.Quiet (s.countRead n b x) := by
  unfold State.countRead
  split
  · exact .refl s
  · exact (s.setBank_quiet b _).trans (State.modLine_quiet _ n _)
  · exact (s.setBank_quiet b _).trans (State.modLine_quiet _ n _)

theorem State.advanceRing_quiet (n : LineNo) (k : Nat) : s.Quiet (s.advanceRing n k) :=
  s.modLine_quiet n _

theorem State.tagMismatch_quiet (n : LineNo) : s.Quiet (s.tagMismatch n) :=
  (s.modLine_quiet n _).trans (State.refill_quiet _ n _)

theorem State.startLine_quiet (n : LineNo) (start : Bool) : s.Quiet (s.startLine n start) :=
  .ite _ (s.changeLine_quiet n _ _) (.refl s)

theorem State.normalRead_quiet (n : LineNo) (g : GroupPos) (d : Decision) (fill : Nat)
    (start : Bool) : s.Quiet (s.normalRead n g d fill start).state := by
  unfold State.normalRead
  simp only
  split
  · exact ((((s.countRead_quiet n _ _).trans (State.startLine_quiet _ n start)).trans
      (State.postLine_quiet _ _ n _)).trans (State.autoSwap_quiet _ _)).trans
      (State.advanceRing_quiet _ n 1)
  · split
    · exact (s.countRead_quiet n _ _).trans (State.tagMismatch_quiet _ n)
    · exact ((s.countRead_quiet n _ _).trans (State.startLine_quiet _ n start)).trans
        (State.advanceRing_quiet _ n 1)

theorem State.fillingAct_quiet (n : LineNo) (g : GroupPos) (fill : Nat) :
    s.Quiet (s.fillingAct n g fill).state := by
  unfold State.fillingAct
  simp only
  split
  · split
    · exact s.normalRead_quiet n g _ _ _
    · exact .refl s
  · split
    · exact .refl s
    · split
      · exact s.tagMismatch_quiet n
      · split
        · exact (s.advanceRing_quiet n _).trans (State.normalRead_quiet _ n g _ _ _)
        · exact .refl s

theorem Acted.countSlip_quiet {s : State} {a : Acted} (h : s.Quiet a.state) (n : LineNo) (l : Line)
    (direction fill : Nat) : s.Quiet (a.countSlip n l direction fill).state := by
  unfold Acted.countSlip
  simp only
  refine h.trans (.ite _ ?_ (State.modLine_quiet _ n _))
  exact (State.modLine_quiet _ n _).trans (State.postLine_quiet _ _ n _)

theorem State.slipAct_quiet (n : LineNo) (g : GroupPos) (fill : Nat) :
    s.Quiet (s.slipAct n g fill).state := by
  unfold State.slipAct
  simp only
  split
  · exact Acted.countSlip_quiet ((s.modLine_quiet n _).trans (State.normalRead_quiet _ n g _ _ _)) n _ _ _
  · split
    · exact Acted.countSlip_quiet ((s.advanceRing_quiet n _).trans (State.normalRead_quiet _ n g _ _ _)) n _ _ _
    · exact s.normalRead_quiet n g _ _ _

theorem State.underrun_quiet (n : LineNo) : s.Quiet (s.underrun n).state :=
  (s.modLine_quiet n _).trans (State.refill_quiet _ n _)

theorem State.runningAct_quiet (n : LineNo) (g : GroupPos) (fill : Nat) :
    s.Quiet (s.runningAct n g fill).state := by
  unfold State.runningAct
  simp only
  split
  · exact s.slipAct_quiet n g fill
  · split
    · exact s.slipAct_quiet n g fill
    · split
      · exact s.underrun_quiet n
      · exact s.normalRead_quiet n g _ _ _

theorem State.readerAct_quiet (n : LineNo) (g : GroupPos) (fill : Nat) :
    s.Quiet (s.readerAct n g fill).state := by
  unfold State.readerAct
  simp only
  refine (s.modLine_quiet n fun l => { l with reader := { l.reader with recentrePending := false } }).trans ?_
  split
  · exact .refl _
  · exact .refl _
  · exact .refl _
  · split
    · exact State.refill_quiet _ n _
    · exact State.fillingAct_quiet _ n g fill
  · split
    · exact State.refill_quiet _ n _
    · exact State.runningAct_quiet _ n g fill

theorem State.handOctets_quiet (n : LineNo) (octets : List Octet) : s.Quiet (s.handOctets n octets) := by
  unfold State.handOctets
  split
  · exact s.modHighway_quiet _
  · exact .refl s

theorem State.handOver_quiet {s : State} {a : Acted} (h : s.Quiet a.state) (n : LineNo) (fill : Nat) :
    s.Quiet (State.handOver n fill a) :=
  ((h.trans (State.modLine_quiet _ n _)).trans (State.setGathered_quiet _ n _)).trans
    (State.handOctets_quiet _ n _)

/-- A reader event leaves the control plane and the office timing alone. -/
theorem State.readerEvent_quiet (n : LineNo) (g : GroupPos) : s.Quiet (s.readerEvent n g) :=
  State.handOver_quiet (((s.deadStage_quiet n).trans (State.modLine_quiet _ n _)).trans
    (State.readerAct_quiet _ n g _)) n _

/-! ## Monitors and highways -/

theorem State.overflowMonitor_quiet (i : MonitorNo) : s.Quiet (s.overflowMonitor i) := by
  unfold State.overflowMonitor
  simp only
  have h : s.Quiet (if (s.monitor i).settings.overflowAction.freezes = true then
      (s.setMonitor i { s.monitor i with overflow := true }).modMonitorUnit
        fun u => { u with freeze := true }
      else s.setMonitor i { s.monitor i with overflow := true }) :=
    .ite _ ((s.setMonitor_quiet i _).trans (State.modMonitorUnit_quiet _ _)) (s.setMonitor_quiet i _)
  exact .ite _ (h.trans (State.post_quiet _ _ _ _)) h

theorem State.countMonitor_quiet (i : MonitorNo) : s.Quiet (s.countMonitor i) := by
  unfold State.countMonitor
  exact .ite _ ((s.setMonitor_quiet i _).trans (State.overflowMonitor_quiet _ i))
    (s.setMonitor_quiet i _)

theorem State.closeMonitor_quiet (frozen : Bool) (i : MonitorNo) :
    s.Quiet (s.closeMonitor frozen i) := by
  unfold State.closeMonitor
  refine .ite _ (State.Quiet.trans ?_ (State.setMonitor_quiet _ i _)) (.refl s)
  exact .ite _ (s.countMonitor_quiet i) (.refl s)

theorem State.closeMonitors_quiet : s.Quiet s.closeMonitors :=
  State.Quiet.foldl (fun t i => t.closeMonitor s.monitorUnit.freeze i)
    (fun t i => t.closeMonitor_quiet _ i) _ s

theorem State.loadPreset_quiet (i : MonitorNo) : s.Quiet (s.loadPreset i) := s.setMonitor_quiet i _

theorem State.clearOverflow_quiet (i : MonitorNo) : s.Quiet (s.clearOverflow i) :=
  s.setMonitor_quiet i _

theorem State.unfreeze_quiet : s.Quiet s.unfreeze :=
  (s.modMonitorUnit_quiet _).trans (State.Quiet.foldl
    (fun t i => t.setMonitor i { t.monitor i with armed := false, edgeHistory := false })
    (fun t i => t.setMonitor_quiet i _) _ _)

theorem State.sendOctets_quiet : s.Quiet s.sendOctets := by
  unfold State.sendOctets
  split
  · exact .refl s
  · exact s.modHighway_quiet _

theorem State.openFrame_quiet : s.Quiet s.openFrame := by
  unfold State.openFrame
  exact s.modHighway_quiet _

theorem State.tickLine_quiet (busTimed : Bool) (g : GroupPos) (n : LineNo) :
    s.Quiet (s.tickLine busTimed g n) :=
  (s.closeWindowFrame_quiet n busTimed).trans (State.readerEvent_quiet _ n g)

theorem State.forLines_quiet (f : LineNo → State → State) (h : ∀ n (s : State), s.Quiet (f n s)) :
    s.Quiet (s.forLines f) := State.Quiet.foldl (fun s n => f n s) (fun s n => h n s) _ s

/-- An office tick changes of the office timing what `Timing.tick` changes, and leaves the control
plane alone. -/
theorem State.tick_quiet : (s.modTiming Timing.tick).Quiet s.tick := by
  unfold State.tick
  exact (((State.closeMonitors_quiet _).trans (State.openFrame_quiet _)).trans
    (State.forLines_quiet _ _ fun n s => s.tickLine_quiet _ _ n)).trans (State.sendOctets_quiet _)

@[simp] theorem State.tick_timing : s.tick.timing = s.timing.tick := s.tick_quiet.timing

end

end Sys2Proof.Machine
end

