-- ==== Sys2Proof/WellFormed.lean ====
section
/-!
DEFINITION. Which commands are well-formed: the operands each row of the table can carry, where two
rows share a bus cycle (R144 to R149) and where an operand names a bit (R21, R144). `exec` gives an
ill-formed command a meaning as well; a sender has no reason to send one.
-/
namespace Sys2Proof

open Sys2Proof.Machine

/-- Why a command is ill-formed. -/
inductive IllFormed where
  /-- A register read names one of the eight register words (R149). -/
  | registerNumber
  /-- HOST_MEMORY_WRITE is a write of a host-owned word (R145). -/
  | wordNotOwned
  /-- A write of a TAKESER word is the row TAKESER (R167). -/
  | takeserHasItsRow
  /-- PROTECT is a write of a word the host does not own (R146). -/
  | wordOwned
  /-- A write of CONTROL with bit 0 set, ATTENTION, MASK or PROMPT has its own row (R149). -/
  | registerHasItsRow
  /-- A control memory word has 22 bits, a word of a slot 72 (R21, R144). -/
  | strikeBit
  /-- A post writes and reads back every word of a slot but TAKESER (R165, R166). -/
  | strikeWord
  /-- The stops of a slot's writing do not fall and are at most 14 (R148, R165). -/
  | stopOrder
  /-- The host cycles between the grants of a patrol step stand in the order of the grants (R148). -/
  | grantOrder
deriving DecidableEq, Repr

/-- A write of this register word with this value has no row of its own (R149). -/
def otherRegister (reg : Fin 8) (data : Word) : Bool :=
  match reg with
  | 0 => true
  | 1 => true
  | 2 => !data.getLsbD 0
  | 3 => false
  | 4 => false
  | 5 => false
  | 6 => true
  | 7 => true

/-- A strike names bits that exist (R21, R144). -/
def strikeBits (x : Strike) : Bool :=
  match x with
  | .control _ b => b < 22
  | .slot _ _ _ b => b < 72
  | .nextPost plan => plan.hits.all fun h => h.2 < 22
  | .host _ _ => true

/-- A strike on a post names words that the post writes (R165). -/
def strikeWords (x : Strike) : Bool :=
  match x with
  | .control _ _ => true
  | .slot _ _ _ _ => true
  | .nextPost plan => plan.hits.all fun h => h.1 != 2 && h.1 != 3
  | .host _ _ => true

/-- Numbers that do not fall, each at most 14: the words of a slot that a post writes (R165). -/
def stopsRise : List Nat → Bool
  | [] => true
  | [k] => k ≤ 14
  | k :: l :: rest => k ≤ l && stopsRise (l :: rest)

/-- The stops of a plan do not fall and stand at words that the post writes (R148, R165). -/
def strikeStops (x : Strike) : Bool :=
  match x with
  | .control _ _ => true
  | .slot _ _ _ _ => true
  | .nextPost plan => stopsRise plan.stops
  | .host _ _ => true

/-- The grants of the host cycles do not fall (R148). -/
def grantsRise : List (Nat × HostCycle) → Bool
  | [] => true
  | [_] => true
  | a :: b :: rest => a.1 ≤ b.1 && grantsRise (b :: rest)

/-- The check of a command: nothing, or the reason it is ill-formed. -/
def Instr.check (i : Instr) : Option IllFormed :=
  match i with
  | .fullReset => none
  | .resetRelease _ => none
  | .initialisationEnd => none
  | .hostMemoryRead select addr =>
    if select && 8 ≤ addr.toNat then some .registerNumber else none
  | .hostMemoryWrite addr _ =>
    if ownerOf addr.toNat != .host then some .wordNotOwned
    else if (takeserSlot addr.toNat).isSome then some .takeserHasItsRow
    else none
  | .takeser _ _ _ => none
  | .protect addr _ => if ownerOf addr.toNat == .host then some .wordOwned else none
  | .engineRestart => none
  | .engineRestartEnd => none
  | .attentionClear _ => none
  | .maskWrite _ => none
  | .prompt _ => none
  | .registerWriteOther reg data =>
    if otherRegister reg data then none else some .registerHasItsRow
  | .holdLatch => none
  | .busFrameJudged _ _ => none
  | .missingClock _ => none
  | .timingWindowEnd _ _ => none
  | .officeTick => none
  | .realignComplete => none
  | .dead _ => none
  | .windowEnd _ => none
  | .huntFind _ _ => none
  | .confirmCheck _ _ => none
  | .lockedCheck _ _ => none
  | .frameDelivery _ _ _ => none
  | .patrolStep between => if grantsRise between then none else some .grantOrder
  | .lineRequest _ _ => none
  | .serviceIn _ => none
  | .serviceOut _ => none
  | .recentre _ => none
  | .restartLine _ => none
  | .armWindow _ => none
  | .clearCounts _ => none
  | .timingRequest _ => none
  | .clearHistory => none
  | .clearHoldLatch => none
  | .realign => none
  | .storeRequest _ => none
  | .clearBankCounts => none
  | .swap _ => none
  | .returnBank => none
  | .cancel => none
  | .monitorRequest _ _ => none
  | .loadPreset _ => none
  | .clearOverflow _ => none
  | .directoryRequest _ => none
  | .clearViolations => none
  | .clearUnposted => none
  | .unfreeze => none
  | .lineBitTaken _ _ => none
  | .busClockEdge _ _ => none
  | .localOscillatorCycle _ strikes =>
    if !strikes.all strikeBits then some .strikeBit
    else if !strikes.all strikeWords then some .strikeWord
    else if !strikes.all strikeStops then some .stopOrder
    else if grantsRise (hostCycles strikes) then none else some .grantOrder

/-- A command is well-formed when its check finds nothing. -/
abbrev Instr.WellFormed (i : Instr) : Prop := i.check = none

/-- A cycle of the host port (R144): the register select line, the address and the data. -/
inductive PortCycle where
  | read (select : Bool) (addr : BitVec 13)
  | write (select : Bool) (addr : BitVec 13) (data : Word)
deriving DecidableEq, Repr

/-- The word address of a TAKESER word (section 9.8). -/
def takeserAddress (slot : Fin 128) (low : Bool) : BitVec 13 :=
  BitVec.ofNat 13 (journalBase slot + if low then 3 else 2)

/-- The port cycle a command stands for, if it is one (R144, R149). -/
def Instr.portCycle (i : Instr) : Option PortCycle :=
  match i with
  | .hostMemoryRead select addr => some (.read select addr)
  | .hostMemoryWrite addr data => some (.write false addr data)
  | .takeser slot low data => some (.write false (takeserAddress slot low) data)
  | .protect addr data => some (.write false addr data)
  | .engineRestart => some (.write true 2 1)
  | .attentionClear data => some (.write true 3 data)
  | .maskWrite data => some (.write true 4 data)
  | .prompt data => some (.write true 5 data)
  | .registerWriteOther reg data => some (.write true (BitVec.ofNat 13 reg.val) data)
  | .fullReset | .resetRelease _ | .initialisationEnd | .engineRestartEnd | .holdLatch
  | .busFrameJudged _ _ | .missingClock _ | .timingWindowEnd _ _ | .officeTick | .realignComplete
  | .dead _ | .windowEnd _ | .huntFind _ _ | .confirmCheck _ _ | .lockedCheck _ _
  | .frameDelivery _ _ _ | .patrolStep _ | .lineRequest _ _ | .serviceIn _ | .serviceOut _
  | .recentre _ | .restartLine _ | .armWindow _ | .clearCounts _ | .timingRequest _ | .clearHistory
  | .clearHoldLatch | .realign | .storeRequest _ | .clearBankCounts | .swap _ | .returnBank | .cancel
  | .monitorRequest _ _ | .loadPreset _ | .clearOverflow _ | .directoryRequest _ | .clearViolations
  | .clearUnposted | .unfreeze | .lineBitTaken _ _ | .busClockEdge _ _
  | .localOscillatorCycle _ _ => none

end Sys2Proof
end

