-- ==== Sys2Proof/Laws/Layout.lean ====
section
/-!
SUPPORT. Facts about the layout of control memory (section 9.8): where the TAKESER words lie and who
owns them.
-/
namespace Sys2Proof.Laws

open Sys2Proof.Machine

theorem journalBase_eq (slot : Fin 128) : journalBase slot = 6144 + 16 * slot.val := rfl
theorem journalStart_eq : journalStart = 6144 := rfl
theorem memoryWords_eq : Config.memoryWords = 8192 := rfl

theorem takeserAddress_toNat (slot : Fin 128) (low : Bool) :
    (takeserAddress slot low).toNat = journalBase slot + if low then 3 else 2 := by
  have := slot.isLt
  have := journalBase_eq slot
  unfold takeserAddress
  cases low <;> simp <;> omega

theorem takeserSlot_word (slot : Fin 128) (k : Nat) (hk : k = 2 ∨ k = 3) :
    takeserSlot (journalBase slot + k) = some slot := by
  have := slot.isLt
  have hb := journalBase_eq slot
  have hs := journalStart_eq
  have h : journalStart ≤ journalBase slot + k ∧ journalBase slot + k < 8192 := by omega
  have hm : ((journalBase slot + k - journalStart) % 16 = 2 ||
      (journalBase slot + k - journalStart) % 16 = 3) = true := by
    rw [Bool.or_eq_true, decide_eq_true_eq, decide_eq_true_eq]; omega
  unfold takeserSlot
  rw [dif_pos h, if_pos hm]
  refine congrArg some (Fin.ext ?_)
  show (journalBase slot + k - journalStart) / 16 = slot.val
  omega

theorem recordAt_journal {w : Nat} (h : journalStart ≤ w) : recordAt w = none := by
  have hs := journalStart_eq
  unfold recordAt
  rw [if_neg (by omega), if_neg (by omega), if_neg (by omega), dif_neg (by omega),
    if_neg (by omega), dif_neg (by omega)]

theorem ownerOf_takeser (slot : Fin 128) (k : Nat) (hk : k = 2 ∨ k = 3) :
    ownerOf (journalBase slot + k) = .host := by
  have := slot.isLt
  have hb := journalBase_eq slot
  have hs := journalStart_eq
  have hw := memoryWords_eq
  have h : journalStart ≤ journalBase slot + k := by omega
  have hm : ((journalBase slot + k - journalStart) % 16 = 2 ||
      (journalBase slot + k - journalStart) % 16 = 3) = true := by
    rw [Bool.or_eq_true, decide_eq_true_eq, decide_eq_true_eq]; omega
  have hr : (decide (journalStart ≤ journalBase slot + k) &&
      decide (journalBase slot + k < Config.memoryWords)) = true := by
    rw [Bool.and_eq_true, decide_eq_true_eq, decide_eq_true_eq]; omega
  simp only [ownerOf, recordAt_journal h]
  rw [if_pos hr, if_pos hm]
end Sys2Proof.Laws
end

