-- ==== Sys2Proof/Laws/Timing.lean ====
section
/-!
SUPPORT. The office timing unit (chapter 5): what each of its operations does to the state, case by
case, and that it leaves the control plane alone.
-/
namespace Sys2Proof.Machine

section
variable (s : State)

/-! ## The selector -/

/-- A change of selector state: the switch, the report, and the tick that closes a lengthened frame
(R97, R99, R100). -/
theorem State.changeSelector_eq (new : SelectorState) (cause : SelectorCause) :
    s.changeSelector new cause =
      if 320 ≤ s.timing.phase then
        ((s.modTiming fun t => t.switch new).post .selector 1
          [word s.timing.selector.code, word new.code, word cause.code,
            word (s.timing.switch new).buildOut, signedWord (s.timing.switch new).hv,
            word (s.timing.switch new).history.length]).tick
      else
        (s.modTiming fun t => t.switch new).post .selector 1
          [word s.timing.selector.code, word new.code, word cause.code,
            word (s.timing.switch new).buildOut, signedWord (s.timing.switch new).hv,
            word (s.timing.switch new).history.length] := rfl

/-- Where the next state is the present one nothing changes (R93). -/
theorem State.takeSelector_of_eq {cause : SelectorCause}
    (h : s.timing.nextSelector = s.timing.selector) : s.takeSelector cause = s := by
  unfold State.takeSelector
  rw [if_pos h]

theorem State.takeSelector_of_ne {cause : SelectorCause}
    (h : s.timing.nextSelector ≠ s.timing.selector) :
    s.takeSelector cause =
      s.changeSelector s.timing.nextSelector (s.timing.changeCause cause) := by
  unfold State.takeSelector
  rw [if_neg h]

/-- HOLDREQ found asserted with the latch clear (R96). -/
theorem State.latchHold_of_clear (h : s.timing.holdLatch = false) :
    s.latchHold =
      ((s.modTiming fun t => { t with holdLatch := true }).post .holdLatch 1
        [word s.timing.selector.code]).takeSelector .holdLatch := by
  unfold State.latchHold
  rw [if_neg (by simp [h])]

theorem State.latchHold_of_set (h : s.timing.holdLatch = true) : s.latchHold = s := by
  unfold State.latchHold
  rw [if_pos h]

/-! ## The control plane is left alone -/

theorem State.modTiming_kept (f : Timing → Timing) : s.ControlKept (s.modTiming f) :=
  ⟨rfl, rfl, rfl, rfl, rfl, rfl, rfl, rfl, rfl, rfl⟩

theorem State.modBus_kept (x : Bus) (f : BusMonitor → BusMonitor) : s.ControlKept (s.modBus x f) :=
  s.modTiming_kept _

theorem State.tick_kept : s.ControlKept s.tick :=
  (s.modTiming_kept Timing.tick).trans s.tick_quiet.toControlKept

theorem State.post_kept (k : Kind) (record : Nat) (detail : List Word) :
    s.ControlKept (s.post k record detail) := (s.post_quiet k record detail).toControlKept

theorem State.ControlKept.ite {s t u : State} (c : Prop) [Decidable c] (ht : s.ControlKept t)
    (hu : s.ControlKept u) : s.ControlKept (if c then t else u) := by split <;> assumption

theorem State.changeSelector_kept (new : SelectorState) (cause : SelectorCause) :
    s.ControlKept (s.changeSelector new cause) := by
  rw [s.changeSelector_eq]
  exact .ite _ (((s.modTiming_kept _).trans (State.post_kept _ _ _ _)).trans (State.tick_kept _))
    ((s.modTiming_kept _).trans (State.post_kept _ _ _ _))

theorem State.takeSelector_kept (cause : SelectorCause) : s.ControlKept (s.takeSelector cause) := by
  unfold State.takeSelector
  exact .ite _ (.refl s) (s.changeSelector_kept _ _)

theorem State.changeBus_kept (x : Bus) (new : MonitorState) (cause : BusCause) :
    s.ControlKept (s.changeBus x new cause) := by
  unfold State.changeBus
  refine State.ControlKept.trans ?_ (State.takeSelector_kept _ _)
  exact .ite _ (((s.modBus_kept x _).trans (State.post_kept _ _ _ _)).trans (State.modTiming_kept _ _))
    ((s.modBus_kept x _).trans (State.post_kept _ _ _ _))

theorem State.judgeFrame_kept (x : Bus) (good : Bool) : s.ControlKept (s.judgeFrame x good) := by
  unfold State.judgeFrame
  dsimp only
  split
  · exact .ite _ (s.modBus_kept x _) (.ite _ (s.changeBus_kept x _ _) (s.modBus_kept x _))
  all_goals
    exact .ite _ (.ite _ (s.changeBus_kept x _ _) (s.modBus_kept x _)) (s.modBus_kept x _)

theorem State.loseClock_kept (x : Bus) : s.ControlKept (s.loseClock x) := by
  unfold State.loseClock
  dsimp only
  split
  · exact s.modBus_kept x _
  all_goals exact (s.modBus_kept x _).trans (State.changeBus_kept _ x _ _)

theorem State.beginTimingWindow_kept (x : Bus) : s.ControlKept (s.beginTimingWindow x) := by
  unfold State.beginTimingWindow
  exact s.modBus_kept x _

theorem State.endTimingWindow_kept (x : Bus) (cycles : Nat) :
    s.ControlKept (s.endTimingWindow x cycles) := by
  unfold State.endTimingWindow
  refine State.ControlKept.trans ?_ (State.beginTimingWindow_kept _ x)
  dsimp only
  split
  · refine .ite _ (.ite _ ?_ ?_) ?_
    · exact ((s.modBus_kept x _).trans (State.modTiming_kept _ _)).trans
        (State.takeSelector_kept _ _)
    · exact (s.modBus_kept x _).trans (State.modTiming_kept _ _)
    · exact (s.modBus_kept x _).trans (State.changeBus_kept _ x _ _)
  all_goals
    refine .ite _ (.ite _ ?_ ?_) ?_
    · exact (s.modBus_kept x _).trans (State.changeBus_kept _ x _ _)
    · exact (s.modBus_kept x _).trans (State.modBus_kept _ x _)
    · exact (s.modBus_kept x _).trans (State.modBus_kept _ x _)

theorem State.wrapPhase_kept : s.ControlKept s.wrapPhase := by
  unfold State.wrapPhase
  exact .ite _ ((s.modTiming_kept _).trans (State.sendOctets_quiet _).toControlKept)
    ((s.modTiming_kept _).trans (State.tick_kept _))

theorem State.closeRealign_kept : s.ControlKept s.closeRealign :=
  (s.modTiming_kept _).trans (State.tick_kept _)

theorem State.busBit_kept (fly : Nat) : s.ControlKept (s.busBit fly) := by
  unfold State.busBit
  refine .ite _ (.ite _ s.closeRealign_kept ?_) (.ite _ s.wrapPhase_kept ?_)
  all_goals exact (s.modTiming_kept _).trans (State.sendOctets_quiet _).toControlKept

theorem State.ncoBit_kept : s.ControlKept s.ncoBit := by
  unfold State.ncoBit
  exact .ite _ s.wrapPhase_kept
    ((s.modTiming_kept _).trans (State.sendOctets_quiet _).toControlKept)

theorem State.countEdge_kept (x : Bus) : s.ControlKept (s.countEdge x) := by
  unfold State.countEdge
  split
  · exact s.beginTimingWindow_kept x
  · exact .ite _ (s.endTimingWindow_kept x _) (s.modBus_kept x _)

theorem State.busEdge_kept (x : Bus) (pulse : Bool) : s.ControlKept (s.busEdge x pulse) := by
  unfold State.busEdge
  refine State.ControlKept.trans ?_ (State.countEdge_kept _ x)
  have h : s.ControlKept (if s.timing.selector = .on x then
      (s.modBus x fun _ => ((s.timing.bus x).edge pulse).1).busBit
        (((s.timing.bus x).edge pulse).1.flywheel.getD 0)
      else s.modBus x fun _ => ((s.timing.bus x).edge pulse).1) :=
    .ite _ ((s.modBus_kept x _).trans (State.busBit_kept _ _)) (s.modBus_kept x _)
  split
  · exact h.trans (State.judgeFrame_kept _ x _)
  · exact h

theorem State.latchHold_kept : s.ControlKept s.latchHold := by
  unfold State.latchHold
  exact .ite _ (.refl s) (((s.modTiming_kept _).trans (State.post_kept _ _ _ _)).trans
    (State.takeSelector_kept _ _))

theorem State.cycleBus_kept (x : Bus) : s.ControlKept (s.cycleBus x) := by
  unfold State.cycleBus
  exact .ite _ ((s.modBus_kept x _).trans (State.loseClock_kept _ x)) (s.modBus_kept x _)

theorem State.cycleNco_kept : s.ControlKept s.cycleNco := by
  unfold State.cycleNco
  dsimp only
  split
  · exact .refl s
  all_goals exact .ite _ ((s.modTiming_kept _).trans (State.ncoBit_kept _)) (s.modTiming_kept _)

end

end Sys2Proof.Machine
end

