-- ==== Sys2Proof/Laws/Restart.lean ====
section
/-!
SUPPORT. What an engine restart does to each line, each monitor, each report and the journal area
(R19, R65, R85, R143, R155, R169).
-/
namespace Sys2Proof.Machine

open Sys2Proof.Laws

/-! ## Lines and monitors, one by one -/

/-- A change made to each line of a list without repeats changes those lines, each once, and nothing
else. -/
theorem State.foldl_modLine (f : Line → Line) {l : List LineNo} (hl : l.Nodup) (s : State) :
    (l.foldl (fun t n => t.modLine n f) s =
      { s with lines := (l.foldl (fun t n => t.modLine n f) s).lines }) ∧
    ∀ n, (l.foldl (fun t n => t.modLine n f) s).line n =
      if n ∈ l then f (s.line n) else s.line n := by
  induction l generalizing s with
  | nil => exact ⟨rfl, fun n => by simp⟩
  | cons a l ih =>
    obtain ⟨ha, hl⟩ := List.nodup_cons.mp hl
    obtain ⟨hf, hn⟩ := ih hl (s.modLine a f)
    refine ⟨by rw [List.foldl_cons, hf]; rfl, fun n => ?_⟩
    rw [List.foldl_cons, hn n]
    by_cases h : n = a
    · subst h
      simp [ha]
    · rw [State.modLine_line_ne _ h]
      simp [h]

/-- Every line changed by `f`, and nothing else. -/
theorem State.forLines_modLine (f : Line → Line) (s : State) :
    (s.forLines (fun n t => t.modLine n f) =
      { s with lines := (s.forLines fun n t => t.modLine n f).lines }) ∧
    ∀ n, (s.forLines fun n t => t.modLine n f).line n = f (s.line n) := by
  obtain ⟨hf, hn⟩ := State.foldl_modLine f (List.nodup_finRange 64) s
  exact ⟨hf, fun n => (hn n).trans (by simp)⟩

/-- A change made to each monitor of a list without repeats changes those monitors, each once, and
nothing else. -/
theorem State.foldl_setMonitor (f : Monitor → Monitor) {l : List MonitorNo} (hl : l.Nodup)
    (s : State) :
    (l.foldl (fun t i => t.setMonitor i (f (t.monitor i))) s =
      { s with monitorUnit := { s.monitorUnit with
        monitors := (l.foldl (fun t i => t.setMonitor i (f (t.monitor i))) s).monitorUnit.monitors } }) ∧
    ∀ i, (l.foldl (fun t i => t.setMonitor i (f (t.monitor i))) s).monitor i =
      if i ∈ l then f (s.monitor i) else s.monitor i := by
  induction l generalizing s with
  | nil => exact ⟨rfl, fun n => by simp⟩
  | cons a l ih =>
    obtain ⟨ha, hl⟩ := List.nodup_cons.mp hl
    obtain ⟨hf, hn⟩ := ih hl (s.setMonitor a (f (s.monitor a)))
    refine ⟨by rw [List.foldl_cons, hf]; rfl, fun n => ?_⟩
    rw [List.foldl_cons, hn n]
    by_cases h : n = a
    · subst h
      simp [ha]
    · rw [State.setMonitor_monitor_ne _ h]
      simp [h]

/-- Every monitor at its engine-restart values and the freeze clear (R143). -/
theorem State.restartMonitors_frame (s : State) :
    s.restartMonitors = { s with monitorUnit :=
      { s.restartMonitors.monitorUnit with freeze := false, gathered := s.monitorUnit.gathered } } :=
  (State.foldl_setMonitor Monitor.restarted (List.nodup_finRange 8)
    (s.modMonitorUnit fun u => { u with freeze := false })).1.trans (by rw [State.restartMonitors]; rfl)

theorem State.restartMonitors_monitor (s : State) (i : MonitorNo) :
    s.restartMonitors.monitor i = (s.monitor i).restarted :=
  ((State.foldl_setMonitor Monitor.restarted (List.nodup_finRange 8)
    (s.modMonitorUnit fun u => { u with freeze := false })).2 i).trans
    (by rw [if_pos (List.mem_finRange i)]; rfl)

/-! ## The report serials -/

theorem Record.base_add_ne {q r : Record} (h : q ≠ r) {j k : Nat} (hj : j < 32) (hk : k < 32) :
    q.base + j ≠ r.base + k := by
  intro e
  apply h
  cases q <;> cases r <;> simp only [Record.base] at e <;> first | rfl | omega | skip
  · next a b => exact congrArg Record.monitor (Fin.ext (by omega))
  · next a b => exact congrArg Record.line (Fin.ext (by omega))

theorem Record.base_lt_journal (r : Record) {k : Nat} (hk : k < 64) : r.base + k < journalStart := by
  have := journalStart_eq
  cases r <;> simp only [Record.base] <;> omega

theorem mem_allRecords (r : Record) : r ∈ allRecords := by
  cases r <;> simp [allRecords]

theorem allRecords_nodup : allRecords.Nodup := by decide +kernel

/-- The four writes that set the serials of a report to 0 (R155). -/
theorem reportWrites_serials (r : Record) (u : Word) :
    reportWrites r u [(17, 0), (18, 0)] =
      [(r.base + 16, u + 1), (r.base + 17, 0), (r.base + 18, 0), (r.base + 16, u + 2)] := rfl

/-- The serials of a record's report set to 0 under its UPDCNT, and nothing else (R155). -/
theorem State.clearSerials_frame (s : State) (r : Record) :
    s.clearSerials r = { s with
      memory := (s.clearSerials r).memory, reportHeads := (s.clearSerials r).reportHeads } := by
  unfold State.clearSerials State.advanceUpdcnt
  dsimp only
  rw [State.memWriteAll_frame]
  rfl

theorem State.clearSerials_head (s : State) (r : Record) :
    (s.clearSerials r).head r =
      { s.head r with updcnt := (s.head r).updcnt + 2, appser := 0, actser := 0 } := by
  unfold State.clearSerials State.advanceUpdcnt
  dsimp only
  rw [State.memWriteAll_frame]
  simp [State.head, State.setHead]

theorem State.clearSerials_head_ne (s : State) {q r : Record} (h : q ≠ r) :
    (s.clearSerials r).head q = s.head q := by
  unfold State.clearSerials State.advanceUpdcnt
  dsimp only
  rw [State.setHead_head_ne _ h, State.memWriteAll_frame]
  exact State.setHead_head_ne s h _

theorem State.clearSerials_memWord (s : State) (r : Record) (a : Nat) :
    (s.clearSerials r).memWord a =
      if a = r.base + 16 then { raw := (s.head r).updcnt + 2 }
      else if a = r.base + 17 ∨ a = r.base + 18 then {} else s.memWord a := by
  unfold State.clearSerials State.advanceUpdcnt
  dsimp only
  rw [reportWrites_serials]
  simp only [State.setHead_memWord, State.memWriteAll, List.foldl_cons, List.foldl_nil]
  have hu : ((s.setHead r { s.head r with appser := 0, actser := 0 }).head r).updcnt =
      (s.head r).updcnt := by simp
  rw [hu]
  generalize hx : s.setHead r { s.head r with appser := 0, actser := 0 } = x
  have hx' : ∀ a, x.memWord a = s.memWord a := fun a => by rw [← hx]; rfl
  by_cases h0 : a = r.base + 16
  · subst h0
    simp
  · rw [if_neg h0, State.memWrite_memWord_ne _ h0]
    by_cases h1 : a = r.base + 18
    · subst h1
      simp
    · rw [State.memWrite_memWord_ne _ h1]
      by_cases h2 : a = r.base + 17
      · subst h2
        simp
      · rw [State.memWrite_memWord_ne _ h2, State.memWrite_memWord_ne _ h0, if_neg (by tauto), hx']

/-- The serials of every report of a list without repeats set to 0 (R155). -/
theorem State.foldl_clearSerials {l : List Record} (hl : l.Nodup) (s : State) :
    (l.foldl State.clearSerials s = { s with
      memory := (l.foldl State.clearSerials s).memory
      reportHeads := (l.foldl State.clearSerials s).reportHeads }) ∧
    (∀ r, (l.foldl State.clearSerials s).head r = if r ∈ l then
      { s.head r with updcnt := (s.head r).updcnt + 2, appser := 0, actser := 0 }
      else s.head r) ∧
    (∀ r ∈ l, (l.foldl State.clearSerials s).memWord (r.base + 16) =
        { raw := (s.head r).updcnt + 2 } ∧
      (l.foldl State.clearSerials s).memWord (r.base + 17) = {} ∧
      (l.foldl State.clearSerials s).memWord (r.base + 18) = {}) ∧
    ∀ a, (∀ r ∈ l, ∀ k, 16 ≤ k → k ≤ 18 → a ≠ r.base + k) →
      (l.foldl State.clearSerials s).memWord a = s.memWord a := by
  induction l generalizing s with
  | nil => exact ⟨rfl, fun r => by simp, fun r hr => absurd hr List.not_mem_nil, fun a _ => rfl⟩
  | cons q l ih =>
    obtain ⟨hq, hl⟩ := List.nodup_cons.mp hl
    obtain ⟨h1, h2, h3, h4⟩ := ih hl (s.clearSerials q)
    simp only [List.foldl_cons]
    refine ⟨by rw [h1, s.clearSerials_frame q], fun r => ?_, fun r hr => ?_, fun a ha => ?_⟩
    · rw [h2 r]
      by_cases h : r = q
      · subst h
        simp [hq, s.clearSerials_head]
      · rw [s.clearSerials_head_ne h]
        simp [h]
    · rcases List.mem_cons.mp hr with rfl | hr
      · have hk : ∀ k, 16 ≤ k → k ≤ 18 → (l.foldl State.clearSerials (s.clearSerials r)).memWord
            (r.base + k) = (s.clearSerials r).memWord (r.base + k) := fun k _ hk =>
          h4 _ fun r' hr' j _ hj => Record.base_add_ne (fun e : r = r' => hq (e ▸ hr')) (by omega) (by omega)
        rw [hk 16 (by omega) (by omega), hk 17 (by omega) (by omega), hk 18 (by omega) (by omega)]
        simp [s.clearSerials_memWord r]
      · have hne : r ≠ q := fun e => hq (e ▸ hr)
        rw [← s.clearSerials_head_ne hne]
        exact h3 r hr
    · rw [h4 a fun r hr => ha r (List.mem_cons_of_mem _ hr), s.clearSerials_memWord q,
        if_neg (ha q (by simp) 16 (by omega) (by omega)), if_neg]
      rintro (h | h)
      · exact ha q (by simp) 17 (by omega) (by omega) h
      · exact ha q (by simp) 18 (by omega) (by omega) h

end Sys2Proof.Machine
end

