-- ==== Sys2Proof/Laws/HostCycles.lean ====
section
/-!
SUPPORT. Host cycles between the grants of a patrol step, the stages of a step, the restart that a host
cycle may ask for, and the bits in error of a stored word (R21, R147, R148, R155, R156).
-/
namespace Sys2Proof.Machine

/-! ## Bits in error -/

@[simp] theorem Condition.ofErrors_nil : Condition.ofErrors [] = .clean := rfl

@[simp] theorem Condition.ofErrors_singleton (b : Nat) : Condition.ofErrors [b] = .single b := rfl

@[simp] theorem Condition.ofErrors_cons_cons (a b : Nat) (l : List Nat) :
    Condition.ofErrors (a :: b :: l) = .uncorrectable := rfl

/-- A word with no bit in error is found clean (R147). -/
theorem MemWord.condition_of_nil {w : MemWord} (h : w.errors = []) : w.condition = .clean := by
  rw [MemWord.condition, h, Condition.ofErrors_nil]

/-- A word is found clean exactly when no bit of it is in error (R147). -/
theorem MemWord.condition_eq_clean {w : MemWord} : w.condition = .clean ↔ w.errors = [] := by
  refine ⟨fun h => ?_, MemWord.condition_of_nil⟩
  rw [MemWord.condition] at h
  revert h
  rcases w.errors with _ | ⟨a, _ | ⟨b, l⟩⟩ <;> simp

/-- A word with one bit in error is found to have it (R147). -/
theorem MemWord.condition_of_singleton {w : MemWord} {b : Nat} (h : w.errors = [b]) :
    w.condition = .single b := by
  rw [MemWord.condition, h, Condition.ofErrors_singleton]

/-! ## Host cycles -/

section
variable (s : State)

@[simp] theorem State.serveBefore_nil (k : Nat) : s.serveBefore [] k = s := rfl

@[simp] theorem State.serveAlone_nil (k : Nat) : s.serveAlone [] k = s := rfl

@[simp] theorem State.waitsAt_nil (k : Nat) : s.waitsAt [] k = false := by simp [State.waitsAt]

/-- A step completed under a restart does not wait (R155). -/
theorem State.waitsAt_of_not_ready (h : s.ready = false) (between : List (Nat × HostCycle)) (k : Nat) :
    s.waitsAt between k = false := by rw [State.waitsAt, h]; rfl

/-- With no post in progress a host cycle before a grant is the cycle alone (R148). -/
theorem State.hostBefore_of_none {s : State} (h : s.journal.current = none) (c : HostCycle) :
    s.hostBefore c = s.hostCycle c := by
  rw [State.hostBefore, h]
  rfl

/-- Between two words of a journal post the writer goes on after the host cycle (R148). -/
theorem State.hostBefore_of_some {s : State} (h : s.journal.current ≠ none) (c : HostCycle) :
    s.hostBefore c = (s.hostCycle c).goOn := by
  rw [State.hostBefore, if_pos (Option.isSome_iff_ne_none.mpr h)]

/-- Host cycles numbered otherwise do not fall before grant k (R148). -/
theorem State.serveBefore_of_ne {between : List (Nat × HostCycle)} {k : Nat}
    (h : ∀ c ∈ between, c.1 = k → c.2 = .wait) : s.serveBefore between k = s := by
  rw [State.serveBefore, List.filter_eq_nil_iff.mpr]
  · rfl
  · intro c hc
    simpa using h c hc

/-- Host cycles that fall before the last grant are not served after it (R148). -/
theorem State.serveAlone_of_lt {between : List (Nat × HostCycle)} {k : Nat}
    (h : ∀ c ∈ between, c.1 < k) : s.serveAlone between k = s := by
  rw [State.serveAlone, List.filter_eq_nil_iff.mpr (by simpa using h)]
  rfl

/-- Host cycles numbered alike are served in their order (R144, R148). -/
theorem State.serveBefore_cons_self (between : List (Nat × HostCycle)) (k : Nat) {c : HostCycle}
    (h : c ≠ .wait) :
    s.serveBefore ((k, c) :: between) k = (s.hostBefore c).serveBefore between k := by
  simp [State.serveBefore, h]

/-! ## The stages with no host cycle and no wait -/

section
variable (r : Record)

@[simp] theorem State.scrubStage_zero (between : List (Nat × HostCycle)) (k : Nat) :
    s.scrubStage between r 0 k = (s.advanceScrub, k) := rfl

theorem State.scrubStage_nil (left k : Nat) :
    s.scrubStage [] r (left + 1) k = (s.drainPosts.scrubWord
      ((s.scrub.pointer + (Config.scrubWords - (left + 1))) % Config.memoryWords)).scrubStage [] r left
        (k + 1) := by
  rw [State.scrubStage]
  simp

@[simp] theorem State.writeStage_done (between : List (Nat × HostCycle)) (k : Nat) :
    s.writeStage between r [] k = (s.advanceUpdcnt r).scrubStage between r Config.scrubWords k := rfl

theorem State.writeStage_nil (p : Nat × Word) (rest : List (Nat × Word)) (k : Nat) :
    s.writeStage [] r (p :: rest) k = (s.drainPosts.memWrite p.1 p.2).writeStage [] r rest (k + 1) := by
  rw [State.writeStage]
  simp

@[simp] theorem State.readStage_done (between : List (Nat × HostCycle)) (read : List (Option Word))
    (k : Nat) : s.readStage between r read [] k = s.judgeStage between r read k := rfl

theorem State.readStage_nil (read : List (Option Word)) (i : Nat) (rest : List Nat) (k : Nat) :
    s.readStage [] r read (i :: rest) k = (s.drainPosts.readRequest r i).1.readStage [] r
      (read ++ [(s.drainPosts.readRequest r i).2]) rest (k + 1) := by
  rw [State.readStage]
  simp

/-- The words of a report are control memory's alone, with no post in progress (R148, R161). -/
theorem State.writeStage_of_none {s : State} (h : s.journal.current = none) (l : List (Nat × Word))
    (k : Nat) : s.writeStage [] r l k =
      ((s.memWriteAll l).advanceUpdcnt r).scrubStage [] r Config.scrubWords (k + l.length) := by
  induction l generalizing s k with
  | nil => rfl
  | cons p l ih =>
    rw [State.writeStage_nil, State.drainPosts_of_none h, ih (s := s.memWrite p.1 p.2) h,
      State.memWriteAll_cons, List.length_cons]
    congr 1
    omega

end

/-- With no step in progress none goes on. -/
@[simp] theorem State.resumeStep_of_none {s : State} (h : s.patrol.step = none)
    (between : List (Nat × HostCycle)) (k : Nat) : s.resumeStep between k = (s, k) := by
  rw [State.resumeStep, h]

/-- With no step in progress there is none to complete. -/
@[simp] theorem State.finishStep_of_none {s : State} (h : s.patrol.step = none) : s.finishStep = s := by
  rw [State.finishStep, State.resumeStep_of_none h]

/-! ## A restart asked for by a host cycle -/

/-- All that the settling of a restart can do (R155): nothing, or a step in progress is completed and the
restart takes hold, where READY was 1 and a host cycle has asked for it. -/
theorem State.settleRestart_cases (t : State) :
    s.settleRestart t = t ∨
    s.ready = true ∧ t.phase = .restarting ∧ s.settleRestart t = t.finishStep.takeRestart := by
  unfold State.settleRestart
  split
  · next h =>
    obtain ⟨h, k⟩ := Bool.and_eq_true_iff.mp h
    exact .inr ⟨h, of_decide_eq_true k, rfl⟩
  · exact .inl rfl

/-- Where no restart has been asked for there is none to take hold. -/
theorem State.settleRestart_of_ne {t : State} (h : t.phase ≠ .restarting) : s.settleRestart t = t := by
  rcases s.settleRestart_cases t with e | ⟨_, k, _⟩
  · exact e
  · exact absurd k h

/-- With READY at 0 before, no restart takes hold. -/
theorem State.settleRestart_of_not_ready {t : State} (h : s.ready = false) : s.settleRestart t = t := by
  rcases s.settleRestart_cases t with e | ⟨k, _, _⟩
  · exact e
  · rw [h] at k
    cases k

/-- What a restart asked for does at once with no post in progress (R155, R169). -/
theorem State.askRestart_of_none {s : State} (h : s.journal.current = none) :
    s.askRestart = { s with
      phase := .restarting, patrol := { s.patrol with prompts := [], due := false }
      journal := { s.journal with
        waiting := [], dropCount := satAdd 65535 s.journal.dropCount s.journal.waiting.length
        heldBeforeRestart := s.journal.heldCount } } := by
  unfold State.askRestart
  rw [State.finishPost_of_none h]
  rfl

/-- What a restart asked for can change (R155): the phase, the prompts and a step that is due, control
memory, the journal and ATTENTION. -/
theorem State.askRestart_frame : s.askRestart = { s with
    phase := .restarting, patrol := { s.patrol with prompts := [], due := false }
    memory := s.finishPost.memory, journal := s.askRestart.journal
    attention := s.finishPost.attention } := by
  unfold State.askRestart
  rw [State.finishPost_frame]
  rfl

/-! ## The patrol's turn in a command -/

/-- With READY at 0 the patrol does nothing; the host cycles are served alone (R156). -/
theorem State.patrolTurn_of_not_ready (h : s.ready = false) (between : List (Nat × HostCycle)) :
    s.patrolTurn between = s.serveAlone between 0 := by
  unfold State.patrolTurn
  rw [h]
  rfl

/-- With READY at 1 the patrol works, and then what a host cycle asked for is done (R155, R156). -/
theorem State.patrolTurn_of_ready (h : s.ready = true) (between : List (Nat × HostCycle)) :
    s.patrolTurn between = (s.settleRestart (s.patrolWork between).1).serveAlone between
      (s.patrolWork between).2 := by
  unfold State.patrolTurn
  rw [h]
  rfl

/-- With no step in progress and none due, the patrol has no work (R156). -/
theorem State.patrolWork_of_idle {s : State} (h : s.patrol.step = none) (hd : s.patrol.due = false)
    (between : List (Nat × HostCycle)) : s.patrolWork between = (s, 0) := by
  unfold State.patrolWork
  rw [State.resumeStep_of_none h]
  simp [hd]

/-- With no step in progress the step that is due begins (R156). -/
theorem State.patrolWork_of_due {s : State} (hr : s.ready = true) (h : s.patrol.step = none)
    (hd : s.patrol.due = true) (between : List (Nat × HostCycle)) :
    s.patrolWork between = s.beginStep between 0 := by
  unfold State.patrolWork
  rw [State.resumeStep_of_none h]
  simp [hr, h, hd]

end

end Sys2Proof.Machine
end

