-- ==== Sys2Proof/Laws/PerInstr.lean ====
section
/-!
SUPPORT. The per-command family: a cycle of the host port is spelled by one well-formed command.
-/
namespace Sys2Proof.Laws

open Sys2Proof.Machine

namespace OneCommandPerCycle

/-- No other well-formed command stands for the port cycle this command stands for (R144 to R149,
R167). -/
def Statement (i : Instr) : Prop :=
  ∀ j : Instr, i.WellFormed → j.WellFormed → i.portCycle ≠ none → i.portCycle = j.portCycle → i = j

theorem of_no_cycle {i : Instr} (h : i.portCycle = none) : Statement i :=
  fun _ _ _ hc _ => absurd h hc

/-- No well-formed REGISTER_WRITE_OTHER is a write of a register that has its own row. -/
theorem other_cycle {reg : Fin 8} {d : Word} {a : BitVec 13}
    (h : (Instr.registerWriteOther reg d).WellFormed) (ha : BitVec.ofNat 13 reg.val = a) :
    ¬((a = 2 ∧ d = 1) ∨ a = 3 ∨ a = 4 ∨ a = 5) := by
  subst ha
  fin_cases reg <;> simp_all [Instr.WellFormed, Instr.check, otherRegister]
  rintro rfl
  simp at h

/-- A TAKESER address is the host's and has its slot. -/
theorem takeserAddress_facts (slot : Fin 128) (low : Bool) :
    ownerOf (takeserAddress slot low).toNat = .host ∧
      takeserSlot (takeserAddress slot low).toNat = some slot := by
  rw [takeserAddress_toNat]
  cases low
  · exact ⟨ownerOf_takeser slot 2 (.inl rfl), takeserSlot_word slot 2 (.inl rfl)⟩
  · exact ⟨ownerOf_takeser slot 3 (.inr rfl), takeserSlot_word slot 3 (.inr rfl)⟩

/-- The TAKESER words of the slots lie at different addresses. -/
theorem takeserAddress_inj {s s' : Fin 128} {l l' : Bool}
    (h : takeserAddress s l = takeserAddress s' l') : s = s' ∧ l = l' := by
  have h' := congrArg BitVec.toNat h
  rw [takeserAddress_toNat, takeserAddress_toNat, journalBase_eq, journalBase_eq] at h'
  have := s.isLt
  have := s'.isLt
  refine ⟨Fin.ext ?_, ?_⟩
  · cases l <;> cases l' <;> simp at h' <;> omega
  · cases l <;> cases l' <;> simp at h' ⊢ <;> omega

theorem fullReset : Statement .fullReset := of_no_cycle rfl

theorem resetRelease (holdreq : Bool) : Statement (.resetRelease holdreq) := of_no_cycle rfl

theorem initialisationEnd : Statement .initialisationEnd := of_no_cycle rfl

theorem hostMemoryRead (select : Bool) (addr : BitVec 13) : Statement (.hostMemoryRead select addr) := by
  intro j _ _ _ he
  cases j <;> simp_all [Instr.portCycle]

theorem hostMemoryWrite (addr : BitVec 13) (data : Word) : Statement (.hostMemoryWrite addr data) := by
  intro j hi hj _ he
  cases j with
  | hostMemoryWrite a d => simp_all [Instr.portCycle]
  | takeser slot low d =>
    have hf := takeserAddress_facts slot low
    simp only [Instr.portCycle, Option.some.injEq, PortCycle.write.injEq] at he
    obtain ⟨-, rfl, -⟩ := he
    simp [Instr.WellFormed, Instr.check, hf.1, hf.2] at hi
  | protect a d =>
    simp only [Instr.portCycle, Option.some.injEq, PortCycle.write.injEq] at he
    obtain ⟨-, rfl, -⟩ := he
    by_cases ho : ownerOf addr.toNat = .host <;> simp [Instr.WellFormed, Instr.check, ho] at hi hj
  | _ => simp [Instr.portCycle] at he

theorem takeser (slot : Fin 128) (low : Bool) (data : Word) : Statement (.takeser slot low data) := by
  intro j _ hj _ he
  have hf := takeserAddress_facts slot low
  cases j with
  | takeser slot' low' d =>
    simp only [Instr.portCycle, Option.some.injEq, PortCycle.write.injEq] at he
    obtain ⟨-, ha, rfl⟩ := he
    obtain ⟨rfl, rfl⟩ := takeserAddress_inj ha
    rfl
  | hostMemoryWrite a d =>
    simp only [Instr.portCycle, Option.some.injEq, PortCycle.write.injEq] at he
    obtain ⟨-, rfl, -⟩ := he
    simp [Instr.WellFormed, Instr.check, hf.1, hf.2] at hj
  | protect a d =>
    simp only [Instr.portCycle, Option.some.injEq, PortCycle.write.injEq] at he
    obtain ⟨-, rfl, -⟩ := he
    simp [Instr.WellFormed, Instr.check, hf.1] at hj
  | _ => simp [Instr.portCycle] at he

theorem protect (addr : BitVec 13) (data : Word) : Statement (.protect addr data) := by
  intro j hi hj _ he
  cases j with
  | protect a d => simp_all [Instr.portCycle]
  | takeser slot low d =>
    have hf := takeserAddress_facts slot low
    simp only [Instr.portCycle, Option.some.injEq, PortCycle.write.injEq] at he
    obtain ⟨-, rfl, -⟩ := he
    simp [Instr.WellFormed, Instr.check, hf.1] at hi
  | hostMemoryWrite a d =>
    simp only [Instr.portCycle, Option.some.injEq, PortCycle.write.injEq] at he
    obtain ⟨-, rfl, -⟩ := he
    by_cases ho : ownerOf addr.toNat = .host <;> simp [Instr.WellFormed, Instr.check, ho] at hi hj
  | _ => simp [Instr.portCycle] at he

theorem engineRestart : Statement .engineRestart := by
  intro j _ hj _ he
  cases j with
  | registerWriteOther reg d =>
    simp only [Instr.portCycle, Option.some.injEq, PortCycle.write.injEq] at he
    obtain ⟨-, hr, rfl⟩ := he
    exact (other_cycle hj hr.symm (by simp)).elim
  | _ => simp_all [Instr.portCycle]

theorem engineRestartEnd : Statement .engineRestartEnd := of_no_cycle rfl

theorem attentionClear (data : Word) : Statement (.attentionClear data) := by
  intro j _ hj _ he
  cases j with
  | registerWriteOther reg d =>
    simp only [Instr.portCycle, Option.some.injEq, PortCycle.write.injEq] at he
    obtain ⟨-, hr, rfl⟩ := he
    exact (other_cycle hj hr.symm (by simp)).elim
  | _ => simp_all [Instr.portCycle]

theorem maskWrite (data : Word) : Statement (.maskWrite data) := by
  intro j _ hj _ he
  cases j with
  | registerWriteOther reg d =>
    simp only [Instr.portCycle, Option.some.injEq, PortCycle.write.injEq] at he
    obtain ⟨-, hr, rfl⟩ := he
    exact (other_cycle hj hr.symm (by simp)).elim
  | _ => simp_all [Instr.portCycle]

theorem prompt (data : Word) : Statement (.prompt data) := by
  intro j _ hj _ he
  cases j with
  | registerWriteOther reg d =>
    simp only [Instr.portCycle, Option.some.injEq, PortCycle.write.injEq] at he
    obtain ⟨-, hr, rfl⟩ := he
    exact (other_cycle hj hr.symm (by simp)).elim
  | _ => simp_all [Instr.portCycle]

theorem registerWriteOther (reg : Fin 8) (data : Word) : Statement (.registerWriteOther reg data) := by
  intro j hi _ _ he
  cases j with
  | registerWriteOther reg' d =>
    simp only [Instr.portCycle, Option.some.injEq, PortCycle.write.injEq] at he
    obtain ⟨-, hr, rfl⟩ := he
    have h := congrArg BitVec.toNat hr
    simp only [BitVec.toNat_ofNat] at h
    have : reg = reg' := Fin.ext (by omega)
    rw [this]
  | engineRestart =>
    simp only [Instr.portCycle, Option.some.injEq, PortCycle.write.injEq] at he
    obtain ⟨-, hr, rfl⟩ := he
    exact (other_cycle hi hr (by simp)).elim
  | attentionClear d =>
    simp only [Instr.portCycle, Option.some.injEq, PortCycle.write.injEq] at he
    obtain ⟨-, hr, rfl⟩ := he
    exact (other_cycle hi hr (by simp)).elim
  | maskWrite d =>
    simp only [Instr.portCycle, Option.some.injEq, PortCycle.write.injEq] at he
    obtain ⟨-, hr, rfl⟩ := he
    exact (other_cycle hi hr (by simp)).elim
  | prompt d =>
    simp only [Instr.portCycle, Option.some.injEq, PortCycle.write.injEq] at he
    obtain ⟨-, hr, rfl⟩ := he
    exact (other_cycle hi hr (by simp)).elim
  | _ => simp_all [Instr.portCycle]

theorem holdLatch : Statement .holdLatch := of_no_cycle rfl

theorem busFrameJudged (bus : Bus) (good : Bool) : Statement (.busFrameJudged bus good) := of_no_cycle rfl

theorem missingClock (bus : Bus) : Statement (.missingClock bus) := of_no_cycle rfl

theorem timingWindowEnd (bus : Bus) (localCycles : Long) : Statement (.timingWindowEnd bus localCycles) := of_no_cycle rfl

theorem officeTick : Statement .officeTick := of_no_cycle rfl

theorem realignComplete : Statement .realignComplete := of_no_cycle rfl

theorem dead (n : LineNo) : Statement (.dead n) := of_no_cycle rfl

theorem windowEnd (n : LineNo) : Statement (.windowEnd n) := of_no_cycle rfl

theorem huntFind (n : LineNo) (octet : Octet) : Statement (.huntFind n octet) := of_no_cycle rfl

theorem confirmCheck (n : LineNo) (octet : Octet) : Statement (.confirmCheck n octet) := of_no_cycle rfl

theorem lockedCheck (n : LineNo) (octet : Octet) : Statement (.lockedCheck n octet) := of_no_cycle rfl

theorem frameDelivery (n : LineNo) (payload : Vector Octet 39) (tag : GroupPos) : Statement (.frameDelivery n payload tag) := of_no_cycle rfl

theorem patrolStep (between : List (Nat × HostCycle)) : Statement (.patrolStep between) := of_no_cycle rfl

theorem lineRequest (n : LineNo) (req : LineRequest) : Statement (.lineRequest n req) := of_no_cycle rfl

theorem serviceIn (n : LineNo) : Statement (.serviceIn n) := of_no_cycle rfl

theorem serviceOut (n : LineNo) : Statement (.serviceOut n) := of_no_cycle rfl

theorem recentre (n : LineNo) : Statement (.recentre n) := of_no_cycle rfl

theorem restartLine (n : LineNo) : Statement (.restartLine n) := of_no_cycle rfl

theorem armWindow (n : LineNo) : Statement (.armWindow n) := of_no_cycle rfl

theorem clearCounts (n : LineNo) : Statement (.clearCounts n) := of_no_cycle rfl

theorem timingRequest (req : TimingRequest) : Statement (.timingRequest req) := of_no_cycle rfl

theorem clearHistory : Statement .clearHistory := of_no_cycle rfl

theorem clearHoldLatch : Statement .clearHoldLatch := of_no_cycle rfl

theorem realign : Statement .realign := of_no_cycle rfl

theorem storeRequest (req : StoreRequest) : Statement (.storeRequest req) := of_no_cycle rfl

theorem clearBankCounts : Statement .clearBankCounts := of_no_cycle rfl

theorem swap (bank : Fin 8) : Statement (.swap bank) := of_no_cycle rfl

theorem returnBank : Statement .returnBank := of_no_cycle rfl

theorem cancel : Statement .cancel := of_no_cycle rfl

theorem monitorRequest (m : MonitorNo) (req : MonitorRequest) : Statement (.monitorRequest m req) := of_no_cycle rfl

theorem loadPreset (m : MonitorNo) : Statement (.loadPreset m) := of_no_cycle rfl

theorem clearOverflow (m : MonitorNo) : Statement (.clearOverflow m) := of_no_cycle rfl

theorem directoryRequest (req : DirectoryRequest) : Statement (.directoryRequest req) := of_no_cycle rfl

theorem clearViolations : Statement .clearViolations := of_no_cycle rfl

theorem clearUnposted : Statement .clearUnposted := of_no_cycle rfl

theorem unfreeze : Statement .unfreeze := of_no_cycle rfl

theorem lineBitTaken (n : LineNo) (bit : Bool) : Statement (.lineBitTaken n bit) := of_no_cycle rfl

theorem busClockEdge (bus : Bus) (pulse : Bool) : Statement (.busClockEdge bus pulse) := of_no_cycle rfl

theorem localOscillatorCycle (holdreq : Bool) (strikes : List Strike) : Statement (.localOscillatorCycle holdreq strikes) := of_no_cycle rfl

end OneCommandPerCycle

end Sys2Proof.Laws
end

