-- ==== Sys2Proof/Laws/Place.lean ====
section
/-!
SUPPORT. What placing a report in a journal slot does (R165, R166): where its words go, and what the
read-back makes of a slot that nothing has struck.
-/
namespace Sys2Proof.Machine

open Sys2Proof.Laws

section
variable (s : State) (x : Report) (i : Fin 128)

/-! ## The words of a post -/

/-- A posted word lies at one of the read-back offsets, and none twice (R165, R166). -/
theorem postedWords_offsets (serial : Long) :
    (postedWords x serial).map (·.1) = [4, 5, 6, 7, 8, 9, 10, 11, 12, 13, 14, 15, 0, 1] := rfl

/-- The writes a post makes, by word address. -/
def slotWrites (i : Fin 128) (x : Report) (serial : Long) : List (Nat × Word) :=
  (postedWords x serial).map fun p => (journalBase i + p.1, p.2)

theorem slotWrites_addresses (serial : Long) :
    (slotWrites i x serial).map (·.1) =
      [4, 5, 6, 7, 8, 9, 10, 11, 12, 13, 14, 15, 0, 1].map (journalBase i + ·) := by
  rw [← postedWords_offsets x serial]
  simp [slotWrites, Function.comp_def]

theorem slotWrites_nodup (serial : Long) : ((slotWrites i x serial).map (·.1)).Nodup := by
  rw [slotWrites_addresses]
  exact List.Nodup.map (fun a b h => by simpa using h) (by decide)

/-- A post's writes leave every word outside the slot, and the slot's TAKESER words, as they were. -/
theorem State.slotWrites_memWord_ne (serial : Long) {a : Nat}
    (h : ∀ k ∈ readBackWords, a ≠ journalBase i + k) :
    (s.memWriteAll (slotWrites i x serial)).memWord a = s.memWord a := by
  refine s.memWriteAll_memWord_ne fun p hp e => ?_
  have hm : p.1 ∈ (slotWrites i x serial).map (·.1) := List.mem_map_of_mem hp
  rw [slotWrites_addresses] at hm
  obtain ⟨k, hk, hk'⟩ := List.mem_map.mp hm
  refine h k ?_ (by omega)
  revert hk
  simp only [readBackWords, List.mem_cons, List.not_mem_nil, or_false]
  omega

/-- The words a post writes stand clean in the slot after its writes. -/
theorem State.slotWrites_memWord (serial : Long) {p : Nat × Word} (hp : p ∈ postedWords x serial) :
    (s.memWriteAll (slotWrites i x serial)).memWord (journalBase i + p.1) = { raw := p.2 } :=
  s.memWriteAll_memWord_mem (slotWrites_nodup x i serial)
    (p := (journalBase i + p.1, p.2)) (List.mem_map_of_mem (f := fun p => (journalBase i + p.1, p.2)) hp)

/-! ## The read-back -/

/-- The read-back changes nothing where no word of the copy has a single bit in error. -/
theorem State.mendSlot_of_clean {copy : List (Nat × Word)}
    (h : ∀ p ∈ copy, (s.memWord (journalBase i + p.1)).condition = .clean) : s.mendSlot i copy = s := by
  unfold State.mendSlot
  induction copy with
  | nil => rfl
  | cons p copy ih =>
    rw [List.foldl_cons, h p (by simp)]
    exact ih fun q hq => h q (by simp [hq])

theorem State.slotFails_of_clean
    (h : ∀ k ∈ readBackWords, (s.memWord (journalBase i + k)).condition = .clean) :
    s.slotFails i = false := by
  unfold State.slotFails
  rw [List.any_eq_false]
  intro k hk
  rw [h k hk]
  decide

/-- The read-back of a slot whose words all read clean changes no word, and the report stands (R166). -/
theorem State.readBack_of_clean (serial : Long)
    (h : ∀ k ∈ readBackWords, (s.memWord (journalBase i + k)).condition = .clean) :
    s.readBack i x serial = (s.setJournalSlot i { state := .held, serial := serial }, .stands) := by
  have hc : ∀ p ∈ postedWords x serial, (s.memWord (journalBase i + p.1)).condition = .clean := by
    intro p hp
    refine h _ ?_
    have : p.1 ∈ (postedWords x serial).map (·.1) := List.mem_map_of_mem hp
    rw [postedWords_offsets] at this
    revert this
    simp only [readBackWords, List.mem_cons, List.not_mem_nil, or_false]
    omega
  unfold State.readBack
  rw [State.mendSlot_of_clean s i hc, State.slotFails_of_clean s i h]
  rfl

/-- All fourteen words of a post written from the first on (R165). -/
theorem State.writeUpTo_all {c : PostInProgress} (hw : c.written = 0) :
    s.writeUpTo c 14 = (s.memWriteAll (slotWrites c.slot c.report c.serial)).modJournal
      fun j => { j with nextSerial := nextSerialAfter c.serial } := by
  unfold State.writeUpTo
  rw [hw]
  rfl

/-- A post that waits for no grant and that nothing strikes writes its fourteen words and stands (R165,
R166). -/
theorem State.writeOn_of_free {c : PostInProgress} (hw : c.written = 0) (hp : c.plan = {}) :
    s.writeOn c =
      ((((s.memWriteAll (slotWrites c.slot c.report c.serial)).modJournal fun j =>
        { j with nextSerial := nextSerialAfter c.serial, current := none }).setJournalSlot c.slot
          { state := .held, serial := c.serial }), .stands) := by
  have hr : ∀ y : State, (y.memory = (s.memWriteAll (slotWrites c.slot c.report c.serial)).memory) →
      ∀ k ∈ readBackWords, (y.memWord (journalBase c.slot + k)).condition = .clean := by
    intro y hy k hk
    have : k ∈ (postedWords c.report c.serial).map (·.1) := by
      rw [postedWords_offsets]
      revert hk
      simp only [readBackWords, List.mem_cons, List.not_mem_nil, or_false]
      omega
    obtain ⟨p, hp, rfl⟩ := List.mem_map.mp this
    have := State.slotWrites_memWord s c.report c.slot c.serial hp
    unfold State.memWord at this ⊢
    rw [hy, this]
    rfl
  unfold State.writeOn
  rw [hp]
  dsimp only
  rw [s.writeUpTo_all hw, State.strikeSlot, List.foldl_nil]
  generalize s.memWriteAll (slotWrites c.slot c.report c.serial) = y at hr
  exact State.readBack_of_clean _ _ _ _ (hr _ rfl)

/-- A report placed while no plan waits for the slot writes to come takes the lowest FREE slot and stands
(R165, R166). -/
theorem State.place_of_free (stage : PostStage) (hi : s.journal.freeSlot = some i)
    (hs : s.journal.plans = []) :
    s.place x stage =
      (((s.memWriteAll (slotWrites i x s.journal.nextSerial)).modJournal fun j =>
        { j with
          slots := j.slots.set i { state := .held, serial := s.journal.nextSerial }
          nextSerial := nextSerialAfter s.journal.nextSerial
          current := none }), .stands) := by
  have hm : ∀ (l : List (Nat × Word)) (a b : State), a.memory = b.memory →
      (a.memWriteAll l).memory = (b.memWriteAll l).memory := by
    intro l
    induction l with
    | nil => exact fun a b h => h
    | cons p l ih =>
      intro a b h
      exact ih _ _ (by simp only [State.memWrite, State.setMemWord, h])
  unfold State.place
  rw [hi]
  dsimp only
  rw [State.writeOn_of_free _ rfl (by rw [hs]; rfl), s.memWriteAll_frame, State.memWriteAll_frame]
  refine congrArg (·, Placed.stands) ?_
  unfold State.setJournalSlot State.modJournal
  dsimp only
  simp only [hs, List.tail_nil, Vector.set_set]
  congr 1

end

end Sys2Proof.Machine
end

