-- ==== Sys2Proof/Tests/Slice0.lean ====
section
/-!
SUPPORT. The model's own tests: the ill-formed commands that each check of WellFormed refuses, the
manual's worked examples, small tests of single commands, and a state and operands that meet the
hypotheses of each statement that has some.
-/
namespace Sys2Proof.Tests

open Sys2Proof Sys2Proof.Machine

-- The theorems are checked one after another: each evaluates a whole state, and side by side they
-- would take more memory than the check has.
set_option Elab.async false

/-! ## Helpers -/

/-- The part in service, with nothing done to it since reset. -/
def base : State := { State.reset with phase := .ready }

/-- The part in service with line 0 as given. -/
def withLine (l : Line) : State := base.setLine 0 l

/-- The part in service with its office timing as given. -/
def withTiming (t : Timing) : State := { base with timing := t }

/-- The next state a command answers, for commands that answer one. -/
def after (c : Instr) (s : State) : State :=
  match exec c s with
  | .next t => t
  | .fault _ => s
  | .refused _ => s

/-- Line 30 of the manual's frame-mode sequence (section 3.11), here line 0: bank 2, base 96, C = 8. -/
def frameLine (state : LineState) (r held p : Nat) : Line :=
  { state := state, bitCount := 320
    placement := { bank := 2, base := 96, capacity := 8, unit := .frame }
    framer := { state := .locked, held := false, framePosition := p }
    ring := { readIndex := r, held := held }
    reader := { tLow := 640, tHigh := 1600 } }

/-- Line 41 of the manual's group-mode sequence (section 3.12), here line 0: C = 16. -/
def groupLine (state : LineState) (r held p : Nat) : Line :=
  { state := state, bitCount := 320
    placement := { bank := 5, base := 0, capacity := 16, unit := .group }
    framer := { state := .locked, held := false, framePosition := p }
    ring := { readIndex := r, held := held }
    reader := { tLow := 1280, tHigh := 2560 } }

/-! ## Ill-formed commands -/

theorem test_wf_register_number :
    Instr.check (.hostMemoryRead true 8) = some .registerNumber := by decide

theorem test_wf_word_not_owned :
    Instr.check (.hostMemoryWrite 16 0) = some .wordNotOwned := by decide

theorem test_wf_takeser_has_its_row :
    Instr.check (.hostMemoryWrite 0x1802 0) = some .takeserHasItsRow := by decide

theorem test_wf_word_owned : Instr.check (.protect 0 0) = some .wordOwned := by decide

theorem test_wf_register_has_its_row :
    Instr.check (.registerWriteOther 3 0) = some .registerHasItsRow ∧
    Instr.check (.registerWriteOther 2 1) = some .registerHasItsRow := by decide

theorem test_wf_strike_bit :
    Instr.check (.localOscillatorCycle false [.control 0 22]) = some .strikeBit ∧
    Instr.check (.localOscillatorCycle false [.slot 0 0 0 72]) = some .strikeBit := by decide

theorem test_wf_strike_word :
    Instr.check (.localOscillatorCycle false [.nextPost { hits := [(2, 0)] }]) = some .strikeWord ∧
    Instr.check (.localOscillatorCycle false [.nextPost { hits := [(4, 22)] }]) = some .strikeBit := by
  decide

theorem test_wf_stop_order :
    Instr.check (.localOscillatorCycle false [.nextPost { stops := [9, 8] }]) = some .stopOrder ∧
    Instr.check (.localOscillatorCycle false [.nextPost { stops := [15] }]) = some .stopOrder := by
  decide

theorem test_wf_grant_order :
    Instr.check (.patrolStep [(1, .read 0), (0, .read 0)]) = some .grantOrder ∧
    Instr.check (.localOscillatorCycle false [.host 1 (.read 0), .host 0 (.registerRead 0)]) =
      some .grantOrder := by decide

/-- Well-formed neighbours of the terms above pass. -/
theorem test_wf_accepts :
    Instr.WellFormed (.hostMemoryRead true 7) ∧ Instr.WellFormed (.hostMemoryWrite 15 0) ∧
    Instr.WellFormed (.protect 16 0) ∧ Instr.WellFormed (.registerWriteOther 2 0) ∧
    Instr.WellFormed (.localOscillatorCycle false
      [.control 0 21, .nextPost { stops := [0, 0, 14], hits := [(4, 21)] }, .host 1 (.read 0)]) ∧
    Instr.WellFormed (.patrolStep [(0, .read 0), (1, .read 0)]) := by decide

/-- The table gives no row bits, so no word spells a command. -/
theorem test_no_word_spells_a_command : decodeTableWord 16 0x2480 = none := by decide

/-! ## The manual's calculations -/

/-- Section 4.6.1: offsets from W and B. -/
theorem test_window_offsets :
    [(2560051, 8000), (255997, 800), (320002, 1000), (319998, 1000), (2048000, 8000), (0, 800),
      (20480001, 64000)].map (fun x => windowOffset x.1 x.2) =
    [199, -117, 63, -63, -32768, -32768, 0] := by decide

/-- Section 4.7.1: horizons from q, the end fill and the end thresholds. -/
theorem test_horizons :
    [windowHorizon {} 199 600 320 800, windowHorizon {} 199 1590 640 1600,
      windowHorizon {} 199 1321 640 1600, windowHorizon {} (-117) 700 640 1600,
      windowHorizon {} 199 1604 640 1600, windowHorizon {} 0 1120 640 1600] =
    [some 31407, some 1570, some 43812, some 16025, some 0, none] := by decide

/-- Section 4.7.1: against L = 5, and the fourth row against L = 1 and L = 3. -/
theorem test_forecasts :
    [forecastDue (some 31407) 5, forecastDue (some 43812) 5, forecastDue (some 16025) 1,
      forecastDue (some 16025) 3] = [true, false, false, true] := by decide

/-- Section 5.2.1: bus offsets from L_c. -/
theorem test_bus_offsets :
    [20480408, 20479590, 20480001, 20481025, 20481026, 21504000].map busOffset =
    [199, -200, 0, 500, 501, 32767] := by decide

/-- Section 5.5.1: hv and S from the history. -/
theorem test_holdover_steps :
    [[], [199, 201, 198, 200], [201, 198, 200, 197], [-40, -41]].map
      (fun h => (meanOffset h, holdoverStep (meanOffset h))) =
    [(0, 536870912), (200, 536860175), (199, 536860228), (-41, 536873113)] := by decide

/-- Section 3.2.1: thresholds in force from those given, against the placement. -/
theorem test_thresholds :
    [(SlipUnit.frame, 4, 0, 0), (.frame, 4, 600, 700), (.frame, 4, 100, 0), (.frame, 8, 640, 1600),
      (.group, 12, 1000, 1500), (.group, 16, 1500, 3000), (.group, 12, 1500, 3000)].map (fun x =>
        let p : Placement := { unit := x.1, capacity := x.2.1 }
        let tLow := lowThreshold p x.2.2.1
        (tLow, highThreshold p tLow x.2.2.2)) =
    [(320, 800), (480, 800), (320, 800), (640, 1600), (1000, 2280), (1500, 3000), (1120, 2400)] := by
  decide

/-- Section 2.3.1, steps a to f: the checks of a line request and their order, on bank 1 with line 2
at 20..23 and line 6 at 24..35 in service and line 7 OUT at 36..43. -/
theorem test_placement_checks :
    let s := ((base.setLine 2
        { state := .running, placement := { bank := 1, base := 20, capacity := 4 } }).setLine 6
        { state := .running
          placement := { bank := 1, base := 24, capacity := 12, unit := .group } }).setLine 7
        { placement := { bank := 1, base := 36, capacity := 8 } }
    let q : LineRequest := { service := 1, confirmCount := 3, lossCount := 4, windowLength := 8000 }
    [s.checkLine 9 { q with slipUnit := 2, bank := 9 },
      s.checkLine 9 { q with bank := 8, capacity := 4 },
      s.checkLine 9 { q with slipUnit := 1, bank := 1, base := 100, capacity := 8 },
      s.checkLine 9 { q with bank := 1, base := 250, capacity := 8 },
      s.checkLine 9 { q with bank := 1, base := 16, capacity := 8 },
      s.checkLine 9 { q with bank := 1, base := 36, capacity := 8 }] =
    [.refused .badField 8, .refused .badBank 0, .refused .badCapacity 0, .refused .outOfBank 0,
      .refused .overlap 2, .accepted 0] := by decide +kernel

/-- Section 8.3.1: one sample sequence, four ways of counting. -/
theorem test_four_ways_of_counting :
    let count := fun c : MonitorSettings =>
      ([0, 0, 2, 3, 3, 0, 1, 0].foldl (fun (x : Monitor × Nat) s =>
        ({ x.1 with edgeHistory := x.1.nextHistory s }, x.2 + x.1.increment s))
        ({ settings := c }, 0)).2
    [count {}, count { threshold := 1 }, count { threshold := 1, edge := true },
      count { threshold := 1, less := true, edge := true }] = [9, 4, 2, 3] := by decide

/-- Section 3.11, tick n + 4: a delete at fill 1604 steps over slot 1 and reads slot 2. -/
theorem test_frame_delete :
    let t := (withLine (frameLine .running 1 5 4)).readerEvent 0 0
    ((t.line 0).ring, (t.line 0).counters.deletes, (t.line 0).reader.lastDecision) =
      ({ readIndex := 3, held := 3 }, 1, .deleteUnit) := by decide +kernel

/-- Section 3.11, tick n + 3: at fill 1600 = T_high the read is normal. -/
theorem test_frame_normal_at_threshold :
    let t := (withLine (frameLine .running 0 5 0)).readerEvent 0 0
    ((t.line 0).ring, (t.line 0).reader.lastDecision) =
      ({ readIndex := 1, held := 4 }, .normal) := by decide +kernel

/-- Section 3.11, tick m + 4: a repeat at fill 637 reads slot 6 again. -/
theorem test_frame_repeat :
    let t := (withLine (frameLine .running 7 1 317)).readerEvent 0 0
    ((t.line 0).ring, (t.line 0).counters.repeats, (t.line 0).reader.lastDecision) =
      ({ readIndex := 7, held := 1 }, 1, .repeatUnit) := by decide +kernel

/-- Section 3.11, tick 4: the start at fill 1168, over the centre 1120. -/
theorem test_frame_start :
    let t := (withLine (frameLine .filling 1 3 208)).readerEvent 0 0
    ((t.line 0).state, (t.line 0).ring, (t.line 0).reader.lastDecision) =
      (.running, { readIndex := 2, held := 2 }, .start) := by decide +kernel

/-- Section 3.12, tick 7: the start at g = 0 with tag 2 at r trims two frames and reads slot 6. -/
theorem test_group_start :
    let s := (List.range 8).foldl (fun s i => s.setSlot 5 (4 + i)
      { payload := List.replicate 39 0x11, position := Fin.ofNat 4 (i + 2), filler := false })
      (withLine (groupLine .filling 4 8 1))
    let t := s.readerEvent 0 0
    ((t.line 0).state, (t.line 0).ring, (t.line 0).reader.lastDecision) =
      (.running, { readIndex := 7, held := 5 }, .start) := by decide +kernel

/-- Section 3.12, tick q: a repeat of a whole group at fill 1260. -/
theorem test_group_repeat :
    let s := (withLine (groupLine .running 8 3 300)).setSlot 5 4
      { payload := List.replicate 39 0x22, position := 0, filler := false }
    let t := s.readerEvent 0 0
    ((t.line 0).ring, (t.line 0).counters.repeats) = ({ readIndex := 5, held := 6 }, 1) := by
  decide +kernel

/-- Section 3.12, line 42 at tick 2: an underrun within a group. -/
theorem test_group_underrun :
    let l : Line := { groupLine .running 6 0 100 with
      bitCount := 0, deadCount := 1, placement := { bank := 5, capacity := 12, unit := .group } }
    let t := (withLine l).readerEvent 0 2
    ((t.line 0).state, (t.line 0).ring, (t.line 0).reader.lastDecision, (t.line 0).deadCount) =
      (.filling, { readIndex := 4, held := 0 }, .underrun, 2) := by decide +kernel

/-- Section 11.6.1: a bad slot. Slots 0 to 4 are HELD, the next serial is 40, and the first slot
written is struck in word 9. -/
theorem test_bad_slot :
    let j : Journal :=
      { nextSerial := 40, plans := [{ hits := [(9, 0), (9, 1)] }]
        slots := Vector.ofFn fun i => if i.val < 5 then { state := .held, serial := 35 } else {} }
    let t := ({ base with journal := j } : State).post .slip 46 [1]
    ([t.journalSlot 5, t.journalSlot 6, t.journalSlot 7], t.journal.nextSerial,
      [t.memWord 0x1864, t.memWord 0x1867, t.memWord 0x1868, t.memWord 0x1869, t.memWord 0x186A,
        t.memWord 0x1874].map MemWord.raw) =
    ([{ state := .bad, serial := 40 }, { state := .held, serial := 41 },
      { state := .held, serial := 42 }], 43, [0x0E00, 5, 0, 40, 1, 0x012E]) := by decide +kernel

/-! ## Commands -/

/-- A HOLDREQ asserted at release takes the selector from FREE to HOLDOVER (R96). -/
theorem test_reset_release_with_holdreq :
    let t := after (.resetRelease true) State.reset
    (t.phase, t.timing.selector, t.timing.switchCount, t.journal.nextSerial) =
      (.initialising, .holdover, 1, 1) := by decide +kernel

/-- IDENT is served while RESETn is asserted; a memory read is not (R144). -/
theorem test_reads_in_reset :
    ((after (.hostMemoryRead true 0) State.reset).port,
      (after (.hostMemoryRead false 0) State.reset).port) =
      (.readDone 0x2480 false, .readDone 0 true) := by decide +kernel

/-- The directory's identity words after initialisation (section 9.8): 64 lines, 128 slots. -/
theorem test_identity_words :
    let t := after .initialisationEnd (after (.resetRelease false) State.reset)
    ((after (.hostMemoryRead false 122) t).port, (after (.hostMemoryRead false 123) t).port) =
      (.readDone 64 false, .readDone 128 false) := by decide +kernel

/-- A write to a report word is refused and posts PROTECT (kind 8) with its byte offset (R146). -/
theorem test_protect :
    let t := after (.protect 17 0xFFFF) base
    (t.port, t.memWord 17, t.violations, t.attention.protect,
      [t.memWord 0x1804, t.memWord 0x1807, t.memWord 0x1808].map MemWord.raw) =
      (.writeDone true, {}, { count := 1, address := 34 }, true, [0x0800, 34, 1]) := by
  decide +kernel

/-- The host takes an entry: POSTSER copied into TAKESER, more significant word first (R167). -/
theorem test_takeser :
    let s := base.post .slip 46 []
    let t := after (.takeser 0 false 0) s
    let u := after (.takeser 0 true 1) t
    ((t.journalSlot 0).state, (u.journalSlot 0).state) = (.held, .free) := by decide +kernel

/-- An engine restart takes every line OUT and keeps its counters (R19, R65). -/
theorem test_engine_restart :
    let t := after .engineRestart (withLine { state := .running, counters := { repeats := 7 } })
    (t.phase, (t.line 0).state, (t.line 0).counters.repeats) = (.restarting, .out, 7) := by
  decide +kernel

/-- The end of an engine restart empties the journal but for RESTART, serial 1 (R169). -/
theorem test_engine_restart_end :
    let t := after .engineRestartEnd { base with phase := .restarting, journal := { nextSerial := 9 } }
    (t.phase, t.journal.nextSerial, t.journalSlot 0) = (.ready, 2, { state := .held, serial := 1 }) := by
  decide +kernel

/-- A 1 written to CRITICAL while the journal is halted leaves it set (R150). -/
theorem test_attention_clear :
    let s : State := { base with
      attention := { lost := true, critical := true }, journal := { halted := true } }
    (after (.attentionClear 0xFFFF) s).attention = { critical := true } := by decide +kernel

/-- A prompt waits once, and one that names no record is lost (R157). -/
theorem test_prompt :
    let t := after (.prompt 46) (after (.prompt 46) base)
    let u := after (.prompt 12) t
    (t.patrol.prompts, t.attention.promptLost, u.patrol.prompts, u.attention.promptLost) =
      ([.line 30], false, [.line 30], true) := by decide +kernel

/-- Section 5.4.2: with a REALIGN pending on ON_B, Bo = 211, the edge to flywheel 211 makes no tick. -/
theorem test_realign_lengthens :
    let s := withTiming
      { selector := .on .b, buildOut := 211, phase := 319, realignPending := true
        frameCounter := 2000000, busB := { state := .good, flywheel := some 210 } }
    let t := after (.busClockEdge .b false) s
    (t.timing.phase, t.timing.frameCounter, t.timing.realignPending) = (320, 2000000, true) := by
  decide +kernel

/-- Section 5.4.2: the flywheel wrap at φ 428 closes the lengthened frame with Bo 0. -/
theorem test_realign_completes :
    let s := withTiming
      { selector := .on .b, buildOut := 211, phase := 428, realignPending := true
        frameCounter := 2000000, busB := { state := .good, flywheel := some 319 } }
    let t := after (.busClockEdge .b true) s
    (t.timing.phase, t.timing.buildOut, t.timing.frameCounter, t.timing.realignPending) =
      (0, 0, 2000001, false) := by decide +kernel

/-- Section 6.4.1: at counter 2,000,002 group position 2 is sent behind 0xB4, and line 0, OUT with
idle code 0x5A, sends it in octet 8 of highway 0 while an unused HUNTING line 1 sends 0xFF. -/
theorem test_highway_octets :
    let s := (withTiming { frameCounter := 2000001 }).setLine 1 { state := .hunting, bitCount := 320 }
    let t := after .officeTick s
    (t.timing.position, t.highway.sent, t.highway.inHand.map fun f =>
        [f.highwayOctet 0 1, f.highwayOctet 0 8, f.highwayOctet 0 9, f.highwayOctet 0 320]) =
      (2, some (Vector.replicate 8 0xB4), some [0xB4, 0x5A, 0xFF, 0xFF]) := by decide +kernel

/-- Section 1.6.1, tick 8: the eighth silent office frame makes the line DEAD. -/
theorem test_office_tick_dead :
    let t := after .officeTick
      (withLine { frameLine .running 1 2 0 with bitCount := 0, deadCount := 7 })
    ((t.line 0).state, (t.line 0).ring.held, (t.line 0).framer.held, (t.line 0).deadCount) =
      (.dead, 0, true, 8) := by decide +kernel

/-- Section 1.3.1: a find of 0xB4 expects position 3, and 0x4C at the check goes back to HUNT. -/
theorem test_false_find :
    let s := after (.huntFind 0 0xB4) (withLine { state := .hunting, framer := { held := false } })
    let t := after (.confirmCheck 0 0x4C) s
    ((s.line 0).framer.state, (s.line 0).framer.expected, (t.line 0).framer.state) =
      (.confirm, 3, .hunt) := by decide +kernel

/-- Section 1.3.1: the third match, of 0x1E, locks the framer; the line enters FILLING with r = 1. -/
theorem test_lock :
    let t := after (.confirmCheck 0 0x1E) (withLine
      { state := .hunting, framer := { held := false, state := .confirm, matchCount := 2 } })
    ((t.line 0).framer.state, (t.line 0).framer.expected, (t.line 0).state, (t.line 0).ring) =
      (.locked, 0, .filling, { readIndex := 1, held := 0 }) := by decide +kernel

/-- The fourth mismatch in a row is LOST with N_l = 4 (R6, R7, R13). -/
theorem test_lost :
    let t := after (.lockedCheck 0 0x00) (withLine
      { frameLine .running 1 2 0 with framer := { held := false, state := .locked, errorCount := 3 } })
    ((t.line 0).state, (t.line 0).framer.state, (t.line 0).counters.alignErrors, (t.line 0).ring.held) =
      (.hunting, .hunt, 1, 0) := by decide +kernel

/-- Section 2.4.1: at H = H_max = 3 a frame is discarded and OVERRUNS gains 1. -/
theorem test_overrun :
    let l : Line := { state := .running, placement := { bank := 3, base := 64, capacity := 4 }
                      ring := { readIndex := 2, held := 3 } }
    let t := after (.frameDelivery 0 (Vector.replicate 39 6) 0) (withLine l)
    ((t.line 0).ring, (t.line 0).counters.overruns, t.slots) =
      ({ readIndex := 2, held := 3 }, 1, []) := by decide +kernel

/-- Section 2.4.1: f5 is written at relative slot 0, physical slot 64 of bank 3. -/
theorem test_frame_written :
    let l : Line := { state := .running, placement := { bank := 3, base := 64, capacity := 4 }
                      ring := { readIndex := 2, held := 2 } }
    let t := after (.frameDelivery 0 (Vector.replicate 39 5) 1) (withLine l)
    ((t.line 0).ring, t.slot 3 64) =
      ({ readIndex := 2, held := 3 },
        { payload := List.replicate 39 5, position := 1, filler := false }) := by decide +kernel

/-- A window of one bus at 20,480,408 local cycles: x = 199 joins the history (R90, R102). -/
theorem test_timing_window_end :
    let s := withTiming { selector := .on .a, busA := { state := .good, activeThroughout := true } }
    let t := after (.timingWindowEnd .a 20480408) s
    (t.timing.busA.lastX, t.timing.history, t.timing.revertCount) = (199, [199], 1) := by
  decide +kernel

/-- Section 10.4.1: SERVICE = OUT with RESTART_LINE is refused with CONFLICT, DETAIL 4. -/
theorem test_patrol_conflict :
    let s : State := { base with
      memory := [(3968, { raw := 9 }), (3972, { raw := 0x025A }), (3975, { raw := 4 })]
      patrol := { prompts := [.line 30] } }
    let t := after (.patrolStep []) s
    (t.patrol.prompts, [3984, 3985, 3986, 3987, 3988].map (fun a => (t.memWord a).raw)) =
      ([], [2, 9, 0, 0x0306, 4]) := by decide +kernel

/-- Section 10.4.1, step t: the host changes REQSER between the two readings; the visit is torn. -/
theorem test_patrol_torn :
    let s : State := { base with
      memory := [(3968, { raw := 9 })], patrol := { pointer := .line 30 } }
    let t := after (.patrolStep [(1, .write 3968 10)]) s
    (t.patrol.pointer, (t.memWord 3984).raw, (t.head (.line 30)).appser) = (.line 31, 0, 0) := by
  decide +kernel

/-- Section 7.8: MIRROR(3) by SWAP leaves RUNNING and HUNTING lines of the bank PENDING and an OUT one
COVERED. -/
theorem test_swap :
    let p := fun k => ({ bank := 3, base := k } : Placement)
    let s := (((base.setLine 20 { state := .running, placement := p 64 }).setLine 22
      { state := .hunting, placement := p 80 }).setLine 23 { placement := p 88 })
    let t := after (.swap 3) s
    (t.spare.state, [20, 22, 23, 0].map (fun n => (t.cover n).mark), t.spare.outstanding) =
      (.mirror 3, [.pending, .pending, .covered, .notConcerned], 2) := by decide +kernel

/-- Section 8.4.1: the tick that closes frame b wraps monitor 0, sets the freeze and posts. -/
theorem test_monitor_overflow :
    let s := base.setMonitor 0
      { settings := { enabled := true, overflowAction := .journalFreeze, preset := 0xFFFFFFFE }
        armed := true, count := 0xFFFFFFFF }
    let t := after .officeTick s
    ((t.monitor 0).count, (t.monitor 0).overflow, t.monitorUnit.freeze,
      [t.memWord 0x1804, t.memWord 0x180D].map MemWord.raw) = (0, true, true, [0x0C03, 1]) := by
  decide +kernel

/-- Section 8.4.1: UNFREEZE is refused with OVERFLOW_PENDING while monitor 0 holds the freeze. -/
theorem test_unfreeze_refused :
    let s := base.setMonitor 0 { settings := { overflowAction := .journalFreeze }, overflow := true }
    let t := after (.directoryRequest { serial := 1, kindMask := 0x7FFF, unfreeze := 1 }) s
    ((t.head .directory).result, (t.head .directory).reason) = (.refused, .overflowPending) := by
  decide +kernel

/-- Bits i, j, i struck leave the one bit j in error, which a read returns corrected; j again leaves
none (R21, R147). -/
theorem test_bits_struck_again :
    let s := fun l : List Nat => after (.hostMemoryRead false 0) (after (.localOscillatorCycle false
      (l.map fun b => .control 0 b)) (base.setMemWord 0 { raw := 7 }))
    [(s [0, 1]).port, (s [0, 1, 0]).port, (s [0, 1, 0, 1]).port] =
      [.readDone 4 true, .readDone 7 false, .readDone 7 false] ∧
    ((s [0, 1, 0]).memWord 0).errors = [1] := by decide +kernel

/-- Section 5.1 and R107: before the first edge of a bus no missing clock is taken. -/
theorem test_no_missing_clock_before_an_edge :
    ((after (.missingClock .a) base).timing.busA.state,
      (after (.missingClock .a) (withTiming { busA := { silence := 0 } })).timing.busA.state) =
      (.unqualified, .failed) := by decide +kernel

/-- A host read made while a post waits for its grants finds the word already written and the word not
yet written; the next local cycle completes the post (R148, R165). -/
theorem test_host_read_within_a_post :
    let s := ({ base with journal := { plans := [{ stops := [1] }] } } : State).post .slip 16 [5]
    let t := after (.localOscillatorCycle false []) s
    ([(after (.hostMemoryRead false 0x1804) s).port, (after (.hostMemoryRead false 0x1807) s).port,
        (after (.hostMemoryRead false 0x1807) t).port], (s.journalSlot 0).posting,
      (t.journalSlot 0).posting, t.journal.nextSerial) =
    ([.readDone 0x0110 false, .readDone 0 false, .readDone 5 false], true, false, 2) := by
  decide +kernel

/-- A restart asked for between the grants of a patrol step: the step completes its report and its
scrub, and READY is 0 with the prompts gone (R155). -/
theorem test_restart_within_a_step :
    let s : State := { base with patrol := { prompts := [.store, .line 3] } }
    let t := after (.patrolStep [(1, .registerWrite 2 1)]) s
    (t.phase, t.patrol.prompts, t.scrub.pointer, (t.head .store).updcnt) =
      (.restarting, [], 8, 4) := by decide +kernel

/-- A patrol step that waits among its report writes shows an odd UPDCNT at the pins; the next local
cycle ends it, with UPDCNT even and the scrub done (R151, R156). -/
theorem test_step_waits :
    let s := after (.patrolStep [(12, .wait)]) base
    let t := after (.localOscillatorCycle false []) s
    ([(s.memWord 16).raw, (t.memWord 16).raw], s.patrol.step.map (·.record), t.patrol.step,
      t.scrub.pointer) = ([1, 2], some .directory, none, 8) := by decide +kernel

/-- A step that falls due behind one in progress begins when that ends (R156): the directory's step
waits at its first grant, and with the timing record's step due the next local cycle serves both, and the
interval begins again with the second. -/
theorem test_late_step :
    let s := after (.patrolStep [(0, .wait)]) (after (.patrolStep [(0, .wait)]) base)
    let t := after (.localOscillatorCycle false []) s
    ((s.patrol.step.map (·.record), s.patrol.due, s.patrol.pointer), t.patrol.step, t.patrol.due,
      t.patrol.timer,
      (t.head .directory).updcnt, (t.head .timing).updcnt, t.scrub.pointer) =
      ((some .directory, true, .timing), none, false, 0, 2, 2, 16) := by decide +kernel

/-- An engine restart completes a step that waits: its report is written before the restart sets UPDCNT
two on, and its scrub is done (R155). -/
theorem test_restart_completes_a_step :
    let t := after .engineRestart (after (.patrolStep [(12, .wait)]) base)
    (t.phase, t.patrol.step, (t.head .directory).updcnt, t.scrub.pointer) =
      (.restarting, none, 4, 8) := by decide +kernel

/-- The journal writer comes before the patrol (R148): a post that waits ends before the step's next
grant, and its entry stands when the step waits at its second. -/
theorem test_post_before_the_patrol :
    let s := ({ base with journal := { plans := [{ stops := [1] }] } } : State).post .slip 16 [5]
    let t := after (.patrolStep [(1, .wait)]) s
    ((s.journalSlot 0).posting, (t.journalSlot 0).posting, (t.memWord 0x1807).raw,
      t.patrol.step.isSome) = (true, false, 5, true) := by decide +kernel

/-- No frame is judged while the flywheel is unaligned (R87): the 800th good frame makes the bus GOOD
with it aligned, and nothing without. -/
theorem test_no_judgement_while_unaligned :
    let s := fun f => withTiming { busA := { flywheel := f, goodCount := 799, windowPassed := true } }
    [none, some 0].map (fun f => (after (.busFrameJudged .a true) (s f)).timing.busA.state) =
      [.unqualified, .good] := by decide +kernel

/-! ## States and operands that meet the statements' hypotheses -/

/-- The part while an engine restart runs. -/
def restarting : State := { base with phase := .restarting }

/-- The part while it initialises. -/
def initialising : State := { base with phase := .initialising }

theorem witness_StepRunsTheFrontCommand :
    ({ base with pending := [.fullReset, .cancel] } : State).pending = .fullReset :: [.cancel] ∧
    base.pending = [] := by decide

theorem witness_InitialisationRunsFromReleaseToReady :
    (State.reset.phase = .inReset ∧ State.reset.timing = {}) ∧
    initialising.phase = .initialising ∧ initialising.mask = 0 := by decide

theorem witness_EngineRestartBegins :
    base.ready = true ∧ base.journal.current = none ∧ base.patrol.step = none := by decide

theorem witness_EngineRestartEndPostsRestart :
    restarting.phase = .restarting ∧ restarting.timing.phase < 320 ∧
    restarting.journal.plans = [] := by decide

theorem witness_HostReadsAnswer :
    base.phase = .ready ∧ restarting.phase = .restarting ∧ State.reset.phase = .inReset ∧
    initialising.phase = .initialising := by decide

theorem witness_HostWritesStoreOrAreRefused :
    base.phase = .ready ∧ restarting.phase = .restarting ∧
    (∀ a ∈ [0, 15, 2048 + 64 * 63 + 15],
      ownerOf (BitVec.ofNat 13 a).toNat = .host ∧ takeserSlot (BitVec.ofNat 13 a).toNat = none) ∧
    ∀ a ∈ [16, 768, 8191], ownerOf (BitVec.ofNat 13 a).toNat ≠ .host := by
  decide +kernel

theorem witness_TakeserFreesAMatchingSlot :
    base.phase = .ready ∧ (0 < 16 ∧ 0 ≠ 2 ∧ 0 ≠ 3) ∧ (15 < 16 ∧ 15 ≠ 2 ∧ 15 ≠ 3) := by decide

/-- 11 to 15 and 80 and above number no record. -/
theorem record_number_ne (k : Nat) (h : 10 < k) (h' : k < 16 ∨ 79 < k) (r : Record) :
    r.number.val ≠ k := by
  cases r with
  | directory => show 0 ≠ k; omega
  | timing => show 1 ≠ k; omega
  | store => show 2 ≠ k; omega
  | monitor m => show 3 + m.val ≠ k; omega
  | line n => show 16 + n.val ≠ k; omega

theorem witness_RegisterWritesActAsTheTableSays :
    base.phase = .ready ∧ (Record.line 63).number.val = (79 : Word).toNat ∧
    (Record.monitor 7).number.val = (10 : Word).toNat ∧
    ((80 : Word).toNat = 80 ∧ ∀ r : Record, r.number.val ≠ 80) ∧
    ((11 : Word).toNat = 11 ∧ ∀ r : Record, r.number.val ≠ 11) ∧ restarting.phase = .restarting ∧
    (∀ x ∈ ([0, 1, 2, 6, 7] : List (Fin 8)), x ≠ 3 ∧ x ≠ 4 ∧ x ≠ 5) ∧
    (2 : Word).getLsbD 0 = false := by
  exact ⟨by decide, by decide, by decide, ⟨by decide, record_number_ne 80 (by omega) (by omega)⟩,
    ⟨by decide, record_number_ne 11 (by omega) (by omega)⟩, by decide, by decide, by decide⟩

/-- A post of SLIP for line 0 in slot 0, of which this many words are written. -/
def posting (written : Nat) (plan : WritePlan) : PostInProgress :=
  { slot := 0, serial := 1, report := { kind := .slip, record := 16, stamp := 0, detail := [1] }
    stage := .first, written := written, plan := plan }

/-- The part in service with a post in progress. -/
def posted (c : PostInProgress) : State :=
  { base with journal :=
    { current := some c, slots := (Vector.replicate 128 {}).set 0 { state := .held, posting := true } } }

theorem witness_ReportsArePostedOrCounted :
    let held : Journal := { slots := Vector.replicate 128 { state := .held } }
    let full : State := { base with journal := held }
    let last : State := { base with journal := { held with slots := held.slots.set 127 {} } }
    let lets := fun s : State => s.journal.kindMask.getLsbD (Kind.restart.code - 1)
    initialising.phase = .initialising ∧ restarting.phase = .restarting ∧
    lets { base with journal := { kindMask := 0x3FFF } } = false ∧
    (base.phase = .ready ∧ lets base = true) ∧ (posted (posting 0 {})).journal.current ≠ none ∧
    (base.journal.current = none ∧
      ({ base with journal := { halted := true } } : State).journal.halted = true) ∧
    (full.phase = .ready ∧ full.journal.halted = false ∧ ∀ i, (full.journalSlot i).state ≠ .free) ∧
    (last.phase = .ready ∧ lets last = true ∧ last.journal.current = none ∧
      last.journal.halted = false ∧ last.journal.plans = [] ∧ (last.journalSlot 127).state = .free ∧
      ∀ j, j < 127 → (last.journalSlot j).state ≠ .free) := by
  decide +kernel

theorem witness_ReadBackMendsRetriesOrHalts :
    let struck := fun x => ({ base with journal := { plans := x } } : State)
    (∀ x, (struck x).phase = .ready ∧ (struck x).journal.halted = false ∧
      (struck x).journal.current = none ∧ (struck x).journal.plans = x ∧
      (struck x).journal.kindMask = 0x7FFF ∧ (∀ i, ((struck x).journalSlot i).state = .free)) ∧
    (∀ k : Kind, (0x7FFF : BitVec 15).getLsbD (k.code - 1) = true) ∧
    (0 : Fin 16) ≠ 2 ∧ (0 : Fin 16) ≠ 3 ∧ (15 : Fin 16) ≠ 2 ∧ (15 : Fin 16) ≠ 3 ∧ 0 ≠ 21 ∧
    Kind.slip ≠ .journalSlotBad ∧ (∀ j : Fin 128, ¬j < 0) := by
  refine ⟨fun x => ⟨rfl, rfl, rfl, rfl, rfl, fun i => ?_⟩, fun k => by cases k <;> decide, by decide,
    by decide, by decide, by decide, by decide, by decide, by simp⟩
  simp [State.journalSlot]

theorem witness_PostInProgressGoesOn :
    let s : State := { base with journal := { plans := [{ stops := [0, 14] }, {}] } }
    let words := fun c : PostInProgress => (postedWords c.report c.serial).take c.written
    let clean := fun c : PostInProgress =>
      ∀ p ∈ words c, ((posted c).memWord (0x1800 + 16 * c.slot.val + p.1)).errors = []
    (s.phase = .ready ∧ s.journal.kindMask.getLsbD (Kind.slip.code - 1) = true ∧
      s.journal.current = none ∧ s.journal.halted = false ∧
      s.journal.plans = { stops := 0 :: [14], hits := [] } :: [{}] ∧
      (s.journalSlot 0).state = .free ∧ ∀ j : Fin 128, ¬j < 0) ∧
    ((posted (posting 9 { stops := [14] })).journal.current = some (posting 9 { stops := [14] }) ∧
      9 ≤ 14) ∧
    (∀ k ∈ [0, 14], (posted (posting k {})).journal.current = some (posting k {}) ∧
      (posted (posting k {})).journal.plans = [] ∧ (posted (posting k {})).journal.halted = false ∧
      k ≤ 14 ∧ clean (posting k {}) ∧ (posted (posting k {})).phase = .ready) ∧
    clean { posting 14 {} with
      stage := .slotBad { kind := .slip, record := 16, stamp := 0, detail := [] } } := by
  decide +kernel

theorem witness_ReportsLeaveTheRestAlone :
    let j : Journal :=
      { slots := (Vector.replicate 128 {}).set 5 { state := .held }, plans := [{ hits := [(15, 0), (0, 3)] }] }
    let s : State := { base with journal := j }
    (∀ plan ∈ s.journal.plans, ∀ h ∈ plan.hits, h.1 ≠ 2 ∧ h.1 ≠ 3) ∧
    (s.journalSlot 5).state ≠ .free ∧ 15 < 16 := by
  decide +kernel

/-- A half lies between two integers, and the clause on it is met. -/
theorem witness_RoundingIsToNearestHalfAwayFromZero :
    0 < 2 ∧ 2 * (roundHalfAway (-3) 2 * 2 - (-3)).natAbs = 2 := by decide

/-- Each of the eleven rules of R93 is met by some state of the timing unit. -/
theorem witness_SelectorTakesItsNextState :
    let up : BusMonitor := { state := .good }
    let forced := fun f : Force => ({ force := f } : TimingSettings)
    let a1 : Timing := { holdLatch := true }
    let a2 : Timing := { settings := forced .holdover }
    let a3 : Timing := { settings := forced (.bus .b), busB := up }
    let a4 : Timing := { settings := forced (.bus .b) }
    let a5 : Timing := { settings := forced (.bus .b), selector := .on .a }
    let a6 : Timing := { selector := .on .b, busA := up, busB := up, revertCount := 10 }
    let a7 : Timing := { selector := .on .a, busB := up }
    let a8 : Timing := { selector := .on .a }
    let a9 : Timing := { busA := up }
    let a10 : Timing := { selector := .holdover, busB := up }
    let free := fun t : Timing => t.settings.force = .none ∧ t.holdLatch = false
    a1.holdLatch = true ∧ a2.settings.force = .holdover ∧
    (a3.holdLatch = false ∧ a3.settings.force = .bus .b ∧ (a3.bus .b).state = .good) ∧
    (a4.settings.force = .bus .b ∧ (a4.bus .b).state ≠ .good ∧ a4.selector = .free) ∧
    (a5.settings.force = .bus .b ∧ (a5.bus .b).state ≠ .good ∧ a5.selector ≠ .free) ∧
    (free a6 ∧ a6.selector = .on .b ∧ (a6.bus .b).state = .good) ∧
    (free a7 ∧ a7.selector = .on .a ∧ (a7.bus .a).state ≠ .good ∧ (a7.bus .b).state = .good) ∧
    (free a8 ∧ a8.selector = .on .a ∧ (a8.bus .a).state ≠ .good ∧ (a8.bus .b).state ≠ .good) ∧
    (free a9 ∧ a9.selector = .free ∧ (a9.bus a9.settings.preferred).state = .good) ∧
    (free a10 ∧ a10.selector = .holdover ∧ (a10.bus .a).state ≠ .good ∧
      (a10.bus .b).state = .good) ∧
    (free {} ∧ ({} : Timing).selector = .free ∧ (({} : Timing).bus .a).state ≠ .good ∧
      (({} : Timing).bus .b).state ≠ .good) := by
  decide

theorem witness_StateChangesOfBusAndSelectorAreReported :
    base.timing.nextSelector = base.timing.selector ∧
    ({ holdLatch := true, phase := 320 } : Timing).nextSelector ≠
      ({ holdLatch := true, phase := 320 } : Timing).selector := by decide

theorem witness_HoldreqLatchesTheSelectorInHoldover :
    base.phase ≠ .inReset ∧ base.timing.holdLatch = false ∧
    (withTiming { holdLatch := true }).timing.holdLatch = true ∧
    (base.journal.current = none ∧ base.journal.plans = [] ∧ ∃ u, exec .holdLatch base = .next u) ∧
    State.reset.phase = .inReset :=
  ⟨by decide, rfl, rfl, ⟨rfl, rfl, _, rfl⟩, rfl⟩

theorem witness_BusFramesAndMissingClocksAreCounted :
    base.phase ≠ .inReset ∧ ((withTiming { busA := { flywheel := some 0 } }).timing.bus .a).flywheel ≠ none ∧
    (base.timing.bus .a).flywheel = none ∧ (base.timing.bus .a).silence = 32 ∧
    ((withTiming { busA := { silence := 31 } }).timing.bus .a).silence < 32 := by decide

theorem witness_TimingWindowEndJudgesTheBus : base.phase ≠ .inReset := by decide

theorem witness_OfficeTickOpensAFrame :
    let long := withTiming { phase := 320, selector := .on .a }
    let due := withTiming { phase := 319, realignPending := true, selector := .on .a, buildOut := 1 }
    base.phase ≠ .inReset ∧
    (base.timing.phase < 320 ∧ ¬(base.timing.realignPending = true ∧
      (∃ x, base.timing.selector = .on x) ∧ base.timing.buildOut ≠ 0)) ∧
    (320 ≤ long.timing.phase ∧ ∃ x, long.timing.selector = .on x) ∧
    ((base.line 63).state = .out ∧ (base.line 63).window.startPending = false ∧
      (base.line 63).window.counting = false) ∧
    (due.timing.phase < 320 ∧ due.timing.realignPending = true ∧
      due.timing.selector = .on .a ∧ due.timing.buildOut ≠ 0) := by
  refine ⟨by decide, ⟨by decide, ?_⟩, ⟨by decide, .a, rfl⟩, by decide, by decide⟩
  rintro ⟨h, _⟩
  cases h

theorem witness_BusClockEdgeDrivesFlywheelAndPhase :
    let bus := fun (f : Option Nat) (x : MonitorState) =>
      withTiming { busA := { flywheel := f, state := x } }
    let followed := fun (f phase bo : Nat) => withTiming
      { selector := .on .a, phase := phase, buildOut := bo, busA := { state := .good, flywheel := some f } }
    let next := fun f : Nat => if f % 320 = 319 then 0 else f % 320 + 1
    let windowed := fun (e : Nat) =>
      withTiming { busA := { window := some { edges := e, cycles := 2 ^ 32 - 1 } } }
    (∀ x ∈ [bus none .good, bus (some 319) .good, bus (some 0) .good, bus (some 318) .failed],
      x.phase ≠ .inReset ∧ x.timing.selector ≠ .on .a ∧ (x.timing.bus .a).window = none) ∧
    ((followed 319 428 211).timing.selector = .on .a ∧ 320 ≤ (followed 319 428 211).timing.phase ∧
      next 319 = 0) ∧
    (320 ≤ (followed 211 320 211).timing.phase ∧ next 211 ≠ 0) ∧
    ((followed 319 319 0).timing.phase < 320 ∧ (next 319 + 320 - 0) % 320 = 0) ∧
    ((followed 318 318 0).timing.phase < 320 ∧ (next 318 + 320 - 0) % 320 ≠ 0) ∧
    ((windowed 2559998).timing.bus .a).window = some { edges := 2559998, cycles := 2 ^ 32 - 1 } ∧
    2559998 + 1 < 2560000 ∧ ¬2559999 + 1 < 2560000 ∧ 2 ^ 32 - 1 < 2 ^ 32 := by
  decide

/-- A patrol step of the store record with its scrub still to do. -/
def waiting : StepInProgress := { record := .store, work := .scrubbing 8 }

theorem witness_LocalCycleAdvancesTheCounters :
    let s := fun (phase a b timer : Nat) (acc : Long) => ({ base with
      patrol := { timer := timer }
      timing := { phase := phase, ncoAccumulator := acc, holdLatch := true
                  busA := { silence := a }, busB := { silence := b } } } : State)
    (∀ x ∈ [s 0 30 32 0 0, s 0 31 0 2558 0, s 0 0 31 2559 0, s 318 0 0 0 0xE0000000,
        s 319 0 0 0 0xE0000000],
      x.phase ≠ .inReset ∧ (true = true → x.timing.holdLatch = true) ∧ x.timing.selector = .free ∧
      x.timing.phase < 320) ∧
    ((s 0 31 0 0 0).timing.busA.silence = 31 ∧ (s 0 0 31 0 0).timing.busB.silence = 31) ∧
    (s 0 0 0 0 0).timing.ncoAccumulator.toNat + (s 0 0 0 0 0).timing.ncoStep.toNat < 2 ^ 32 ∧
    2 ^ 32 ≤ (s 318 0 0 0 0xE0000000).timing.ncoAccumulator.toNat +
      (s 318 0 0 0 0xE0000000).timing.ncoStep.toNat ∧
    ((s 318 0 0 0 0).timing.phase < 319 ∧ (s 319 0 0 0 0).timing.phase = 319) ∧
    ((s 0 0 0 2558 0).patrol.timer + 1 < 2560 ∧ 2560 ≤ (s 0 0 0 2559 0).patrol.timer + 1) ∧
    ((s 0 0 0 2559 0).patrol.step = none ∧ (s 0 0 0 2559 0).patrol.due = false) ∧
    ({ base with patrol := { due := true, step := some waiting } } : State).patrol.due = true ∧
    ([3, 7] : List Nat).Pairwise (· < ·) := by
  decide

theorem witness_DeadLineIsEmptiedAndHeld :
    ∀ x ∈ [LineState.hunting, .filling, .running], base.phase ≠ .inReset ∧
      (((withLine { state := x }).line 0).state = .hunting ∨
        ((withLine { state := x }).line 0).state = .filling ∨
        ((withLine { state := x }).line 0).state = .running) := by
  decide +kernel

/-- Line 0 with a framer in the given state, its line in the state that suits it. -/
def framing (line : LineState) (f : Framer) : State :=
  withLine { state := line, framer := { f with held := false } }

theorem witness_SearchAndConfirmationOfAlignment :
    let h := framing .hunting {}
    let c := framing .hunting { state := .confirm, expected := 2, matchCount := 1 }
    let d := framing .hunting { state := .confirm, expected := 2, matchCount := 2 }
    (h.phase ≠ .inReset ∧ (h.line 0).framer.held = false ∧ (h.line 0).framer.state = .hunt) ∧
    (0xD9 : Octet) = alignmentCode 3 ∧ (∀ m, (0x00 : Octet) ≠ alignmentCode m) ∧
    ((c.line 0).framer.held = false ∧ (c.line 0).framer.state = .confirm) ∧
    (0xB4 : Octet) = alignmentCode (c.line 0).framer.expected ∧
    (c.line 0).framer.matchCount + 1 < (c.line 0).confirmCount ∧
    (d.line 0).confirmCount ≤ (d.line 0).framer.matchCount + 1 ∧
    (0x63 : Octet) ≠ alignmentCode (c.line 0).framer.expected := by
  decide +kernel

theorem witness_ResumedSearchTakesTheFirstSurvivor :
    (bitsOf 0x63).length ≤ 5120 ∧ (resumeSearch (true :: bitsOf 0x63)).isSome = true ∧
    resumeSearch (List.replicate 9 true) = none ∧ 0 + 8 ≤ (List.replicate 9 true).length := by
  decide

theorem witness_LockedCheckCountsErrors :
    let s := fun e => framing .running { state := .locked, expected := 1, errorCount := e }
    (s 0).phase ≠ .inReset ∧ ((s 0).line 0).framer.held = false ∧
    ((s 0).line 0).framer.state = .locked ∧
    (0x63 : Octet) = alignmentCode ((s 0).line 0).framer.expected ∧
    (0xB4 : Octet) ≠ alignmentCode ((s 0).line 0).framer.expected ∧
    ((s 2).line 0).framer.errorCount + 1 < ((s 2).line 0).lossCount ∧
    ((s 3).line 0).lossCount ≤ ((s 3).line 0).framer.errorCount + 1 ∧
    ((s 3).line 0).state = .running := by
  decide +kernel

theorem witness_DeliveredFrameIsWrittenOrDiscarded :
    let s := fun h => withLine (frameLine .running 1 h 0)
    ((base.line 0).state ≠ .filling ∧ (base.line 0).state ≠ .running ∧ base.phase ≠ .inReset) ∧
    (((s 6).line 0).state = .running ∧ ((s 6).line 0).placement.legal ∧
      ((s 6).line 0).ring.held <
        ((s 6).line 0).placement.capacity - ((s 6).line 0).placement.unit.slots) ∧
    ((s 7).line 0).placement.capacity - ((s 7).line 0).placement.unit.slots ≤
      ((s 7).line 0).ring.held := by
  decide +kernel

theorem witness_LineBitIsCountedAndOffered :
    let h := fun x : List Bool => framing .hunting { history := x }
    let k := fun p : Nat => framing .running
      { state := .locked, framePosition := p, payload := List.replicate 38 0 }
    let c := fun a : Nat => framing .hunting { state := .confirm, boundaryAge := a }
    (base.line 0).framer.held = true ∧
    (((h []).line 0).framer.held = false ∧ ((h []).line 0).framer.state = .hunt ∧
      ((h []).line 0).framer.history.length < 7) ∧
    (((h (List.replicate 7 true)).line 0).framer.history.length = 7 ∧
      ∀ m, octetOf ((true :: List.replicate 7 true).take 8).reverse ≠ alignmentCode m) ∧
    octetOf ((false :: (bitsOf 0x1E).reverse.drop 1).take 8).reverse = alignmentCode 0 ∧
    ((c 326).line 0).framer.boundaryAge ≠ 327 ∧ ((c 320).line 0).framer.boundaryAge = 320 ∧
    ((k 8).line 0).framer.state = .locked ∧
    ((((k 8).line 0).framer.framePosition + 1) % 8 ≠ 0 ∧
      (((k 15).line 0).framer.framePosition + 1) % 8 = 0 ∧
      8 < ((k 15).line 0).framer.framePosition + 1 ∧
      ((k 311).line 0).framer.framePosition + 1 < 320) ∧
    ((k 319).line 0).framer.framePosition = 319 ∧ ((k 0).line 0).framer.framePosition = 0 ∧
    (Vector.replicate 39 (0 : Octet)).toList =
      ((k 319).line 0).framer.payload ++ [octetOf (List.replicate 8 false)] := by
  decide +kernel

theorem witness_StoreResetWritesTheRetainedSlotsAndCovers :
    let spare := fun (x : SpareState) (l : List LineNo) => ({ base with
      spare := { state := x, coverage :=
        Vector.ofFn fun n => if n ∈ l then { mark := .pending } else {} } } : State)
    (base.line 0).placement.legal ∧
    ((base.cover 0).mark ≠ .pending) ∧
    (((spare (.mirror 1) [0, 1]).cover 0).mark = .pending ∧
      ((spare (.mirror 1) [0, 1]).cover 1).mark = .pending) ∧
    (((spare (.mirror 7) [0]).cover 0).mark = .pending ∧
      (∀ m, m ≠ 0 → ((spare (.mirror 7) [0]).cover m).mark ≠ .pending) ∧
      (spare (.mirror 7) [0]).spare.state = .mirror 7) ∧
    (spare (.restore 0) [0]).spare.state = .restore 0 := by
  decide +kernel

theorem witness_WindowUnitCountsFramesAndHandOvers :
    let s := fun w : Window => withLine { window := w }
    ((s { startPending := true }).line 0).window.startPending = true ∧
    ((s {}).line 0).window.counting = false ∧
    (((s { counting := true, counter := 2 }).line 0).window.counting = true ∧
      1 < ((s { counting := true, counter := 2 }).line 0).window.counter) ∧
    (((s { counting := true, counter := 1 }).line 0).window.startPending = false ∧
      ((s { counting := true, counter := 1 }).line 0).window.counter = 1 ∧
      (s { counting := true, counter := 1 }).phase ≠ .inReset) := by
  decide +kernel

theorem witness_WindowEndRecordsAndReports :
    base.phase ≠ .inReset ∧
    ((withLine { window := { counting := true, counter := 1 } }).line 0).window.counting = true := by
  decide +kernel

theorem witness_RunningLineSlipsAndReads :
    let f := (withLine (frameLine .running 1 5 4)).setSlot 2 98 { errors := { w3 := [71] } }
    let g := withLine (groupLine .running 8 3 300)
    let clean := fun x : Slot => .uncorrectable ∉ x.conditions.toList
    ((f.line 0).state = .running ∧ (f.line 0).bitCount ≠ 0 ∧
      (f.line 0).reader.recentrePending = false ∧ (f.line 0).placement.unit = .frame ∧
      1600 < 320 * (f.line 0).ring.held + 4 ∧ (f.slot (f.spare.state.readBank 2) 98).conditions ≠ {} ∧
      clean (f.slot (f.spare.state.readBank 2) 98)) ∧
    ((g.line 0).placement.unit = .group ∧ 320 * (g.line 0).ring.held + 300 < 1280 ∧
      clean (g.slot (g.spare.state.readBank 5) 4) ∧ (g.slot (g.spare.state.readBank 5) 4).filler = true) ∧
    ((g.line 0).ring.held ≠ 0 ∧ clean (g.slot (g.spare.state.readBank 5) 8)) := by
  decide +kernel

theorem witness_RunningLineSendsAlarmFill :
    let f := (withLine (frameLine .running 1 4 0)).setSlot 2 97 { errors := { w4 := [0, 71] } }
    let g := withLine (groupLine .running 8 0 300)
    let m := (withLine (groupLine .running 8 3 300)).setSlot 5 8 { filler := false, position := 3 }
    let r := withLine { frameLine .running 1 4 0 with
      reader := { tLow := 640, tHigh := 1600, recentrePending := true } }
    ((r.line 0).state = .running ∧ (r.line 0).bitCount ≠ 0 ∧
      (r.line 0).reader.recentrePending = true) ∧
    ((g.line 0).reader.recentrePending = false ∧ (g.line 0).placement.unit = .group ∧
      (1 : GroupPos) ≠ 0 ∧ (g.line 0).ring.held = 0) ∧
    ((m.line 0).ring.held ≠ 0 ∧ .uncorrectable ∉ (m.slot 5 8).conditions.toList ∧
      (m.slot 5 8).filler = false ∧ (m.slot 5 8).position ≠ 1) ∧
    ((f.line 0).placement.unit = .frame ∧
      (f.line 0).reader.adopt.tLow ≤ 320 * (f.line 0).ring.held ∧
      320 * (f.line 0).ring.held ≤ (f.line 0).reader.adopt.tHigh ∧
      .uncorrectable ∈ (f.slot 2 97).conditions.toList) := by
  decide +kernel

theorem witness_FillingLineStartsAtItsCentre :
    let f := fun (p : Nat) (x : Slot) => (withLine (frameLine .filling 1 3 p)).setSlot 2 97 x
    let g := fun (held : Nat) (first x : Slot) =>
      ((withLine (groupLine .filling 4 held 0)).setSlot 5 4 first).setSlot 5 7 x
    let tag := fun m : GroupPos => ({ filler := false, position := m } : Slot)
    let lost : Slot := { errors := { w0 := [0, 1] } }
    let start := fun x : Slot =>
      .uncorrectable ∉ x.conditions.toList ∧ (x.filler = true ∨ x.position = 0)
    (((f 159 {}).line 0).state = .filling ∧ ((f 159 {}).line 0).bitCount ≠ 0 ∧
      ((f 159 {}).line 0).reader.recentrePending = false ∧ 320 * 3 + 159 < (640 + 1600) / 2) ∧
    ((640 + 1600) / 2 ≤ 320 * 3 + 160 ∧ start ((f 160 {}).slot 2 97)) ∧
    .uncorrectable ∈ ((f 160 lost).slot 2 97).conditions.toList ∧
    (((g 0 {} {}).line 0).placement.unit = .group ∧ ((g 0 {} {}).line 0).ring.held = 0) ∧
    (((g 9 lost {}).line 0).ring.held ≠ 0 ∧
      ((g 9 lost {}).slot 5 4).conditions.w0 = .uncorrectable) ∧
    (((0 : GroupPos) - ((g 9 (tag 1) (tag 0)).slot 5 4).position).val = 3 ∧
      (1280 + 2560) / 2 + 320 * 3 ≤ 320 * 9 ∧ 320 * 8 < (1280 + 2560) / 2 + 320 * 3 ∧
      start ((g 9 (tag 1) (tag 0)).slot 5 7)) ∧
    (.uncorrectable ∉ ((g 9 (tag 1) (tag 2)).slot 5 7).conditions.toList ∧
      ((g 9 (tag 1) (tag 2)).slot 5 7).filler = false ∧
      ((g 9 (tag 1) (tag 2)).slot 5 7).position ≠ 0) := by
  decide +kernel

theorem witness_ReaderOfALineNotRunning :
    let s := fun (x : LineState) (b d : Nat) => withLine { state := x, bitCount := b, deadCount := d }
    let r := withLine { state := .filling, bitCount := 1, reader := { recentrePending := true } }
    ((s .out 0 0).line 0).state = .out ∧
    (((s .dead 0 8).line 0).state = .dead ∧ ((s .dead 0 8).line 0).bitCount = 0) ∧
    ((s .dead 1 8).line 0).bitCount ≠ 0 ∧
    (((s .hunting 1 6).line 0).state = .hunting ∧ ((s .hunting 1 6).line 0).bitCount ≠ 0) ∧
    ((s .hunting 0 6).line 0).deadCount < 7 ∧
    (7 ≤ ((s .running 0 7).line 0).deadCount ∧ ((s .running 0 7).line 0).state = .running ∧
      (s .running 0 7).phase ≠ .inReset ∧ ∃ u, exec (.dead 0) (s .running 0 7) = .next u) ∧
    (((s .filling 0 6).line 0).state = .filling ∧ ((s .filling 0 6).line 0).deadCount < 7) ∧
    ((r.line 0).state = .filling ∧ (r.line 0).bitCount ≠ 0 ∧
      (r.line 0).reader.recentrePending = true) := by
  refine ⟨?_, ?_, ?_, ?_, ?_, ⟨?_, ?_, ?_, _, rfl⟩, ?_, ?_⟩ <;> decide +kernel

theorem witness_SnapshotsAreJudgedAndWordsScrubbed :
    let s := fun m : MemWord => base.setMemWord 5 m
    ((none : Option Word) = none) ∧ ((1 : Word) ≠ 2) ∧ (0 : Word) = (base.head .store).appser ∧
    ((1 : Word) ≠ (base.head .store).appser ∧
      ([some 1, none] : List (Option Word))[1]? = some none ∧
      ∀ j, j < 1 → ([some 1, none] : List (Option Word))[j]? ≠ some none) ∧
    ([some 1, some 2] : List (Option Word)) = [1, 2].map some ∧
    (base.memWord 5).condition = .clean ∧
    ((s { errors := [21] }).memWord 5).condition = .single 21 ∧
    ((s { errors := [3, 21] }).memWord 5).condition = .uncorrectable ∧
    (s {}).memWord ((Record.directory).base + 5) = {} ∧
    ((s { errors := [21] }).memWord ((Record.directory).base + 5)).errors = [21] ∧
    ((s { errors := [3, 21] }).memWord ((Record.directory).base + 5)).errors = 3 :: 21 :: [] ∧
    (2 * ((Record.directory).base + 5) ∉ base.badWords.offsets ∧ base.badWords.offsets.length < 16) ∧
    ownerOf 5 = .host ∧ ownerOf 16 = .device ∧ ownerOf 768 = .unassigned := by
  decide +kernel

/-- The patrol at the store record, whose request is the one word REQSER = 1. -/
def asked : State :=
  { base with memory := [(256, { raw := 1 })], patrol := { pointer := .store } }

theorem asked_clean (s : State) (h : s.memory = [(256, { raw := 1 })]) (a : Nat) :
    (s.memWord a).condition = .clean := by
  simp only [State.memWord, h, cellGet]
  split <;> rfl

theorem witness_PatrolStepServesARecord :
    let chosen : State := { asked with patrol := { asked.patrol with
      pointer := asked.patrol.pointer.next } }
    asked.phase = .ready ∧ asked.patrol.step = none ∧ asked.journal.current = none ∧
    (∀ a, (asked.memWord a).condition = .clean) ∧ asked.patrol.prompts = [] ∧ (asked.memWord (Record.store).base).raw ≠ (asked.head .store).appser ∧
    (∃ u, exec (.storeRequest { serial := 1 }) chosen = .next u ∧
      ∀ a, (u.drainPosts.memWord a).condition = .clean) ∧
    asked.scrub.pointer < 8192 ∧
    (base.memWord (Record.directory).base).raw = (base.head .directory).appser ∧
    (posted (posting 3 { stops := [5] })).phase = .ready ∧
    (posted (posting 3 { stops := [5] })).patrol.step = none ∧
    (posted (posting 3 { stops := [5] })).journal.current ≠ none ∧
    ∃ v, exec (.hostMemoryRead false 0) (posted (posting 3 { stops := [5] })) = .next v := by
  refine ⟨rfl, rfl, rfl, asked_clean _ rfl, rfl, by decide, ⟨_, rfl, asked_clean _ rfl⟩, by decide,
    by decide, rfl, rfl, by decide, _, rfl⟩

theorem witness_PatrolStepWaitsAndGoesOn :
    let s := fun due => ({ base with patrol := { due := due, step := some waiting } } : State)
    base.phase = .ready ∧ base.patrol.step = none ∧ base.patrol.due = false ∧
    (s true).phase = .ready ∧ (s true).patrol.step ≠ none ∧ (s true).patrol.due = true ∧
    (s false).journal.current = none ∧ (∀ a, ((s false).memWord a).errors = []) ∧
    (s false).patrol.step = some waiting ∧ ∀ todo read, waiting.work ≠ .reading todo read := by
  refine ⟨rfl, rfl, rfl, rfl, by decide, rfl, rfl, fun a => rfl, rfl, fun _ _ h => ?_⟩
  cases h

theorem witness_HostCyclesFallBetweenGrants :
    (base.phase = .ready ∧ (∀ a, (base.memWord a).errors = []) ∧ base.scrub.pointer < 8192 ∧
      base.patrol.prompts = [] ∧ base.patrol.pointer = .directory ∧
      (base.memWord (Record.directory).base).raw = (base.head .directory).appser ∧
      (base.memWord ((Record.directory).base + 16)).raw = (base.head .directory).updcnt ∧
      (∃ u, exec (.patrolStep []) base = .next u) ∧ base.journal.current = none ∧
      base.patrol.step = none ∧ base.patrol.due = false) ∧
    (0 < 1 ∧ 5 < 2 + (requestFields .directory).length ∧
      (1 : Word) ≠ (base.head .directory).appser ∧ (1 : Word).getLsbD 0 = true) ∧
    restarting.phase ≠ .ready ∧ base.phase ≠ .inReset ∧ base.patrol.timer + 1 < 2560 ∧
    ∃ u, exec (.localOscillatorCycle false []) base = .next u := by
  refine ⟨⟨rfl, fun a => rfl, by decide, rfl, rfl, by decide, by decide, ⟨_, rfl⟩, rfl, rfl, rfl⟩,
    by decide,
    by decide, by decide, by decide, ⟨_, rfl⟩⟩

theorem witness_LineRequestIsCheckedClampedAndAnswered :
    (∀ q ∈ ([{ capacity := 4 }, { capacity := 32, tLow := 1, tHigh := 0xFFFF },
        { capacity := 12, slipUnit := 1 }] : List LineRequest),
      q.badField = none ∧ q.capacityLegal = true) ∧
    base.phase = .ready := by
  decide

theorem witness_LineRequestPartsAreAppliedInOrder :
    let q : LineRequest :=
      { service := 1, actions := 0x0F5A, base := 4, capacity := 4, windowMode := 1 }
    let s := withLine { state := .hunting }
    let s1 := after (.restartLine 0) s
    let s2 := s1.applyLineSettings 0 q.settings
    let s3 := after (.serviceIn 0) s2
    let s4 := after (.recentre 0) s3
    let s5 := after (.armWindow 0) s4
    let s6 := after (.clearCounts 0) s5
    s.phase = .ready ∧ exec (.restartLine 0) s = .next s1 ∧
    s2.overlapping 0 (s2.line 0).placement = none ∧ exec (.serviceIn 0) s2 = .next s3 ∧
    exec (.recentre 0) s3 = .next s4 ∧ (s4.line 0).state ≠ .out ∧
    exec (.armWindow 0) s4 = .next s5 ∧ exec (.clearCounts 0) s5 = .next s6 := by
  refine ⟨rfl, rfl, by decide +kernel, rfl, rfl, by decide +kernel, rfl, rfl⟩

theorem witness_ServiceAndRestartMoveTheLine :
    let s := fun x => withLine { state := x }
    (base.phase = .ready ∧ (base.line 0).state = .out ∧
      base.overlapping 0 (base.line 0).placement = none) ∧
    ((s .running).setLine 1 {}).overlapping 1 {} ≠ none ∧
    ((s .hunting).line 0).state = .hunting ∧ ((s .dead).line 0).state = .dead := by
  decide +kernel

theorem witness_LineAndTimingActionsWhileReady :
    let s := fun w : Window => withLine { state := .hunting, window := w }
    base.phase = .ready ∧ ((s {}).line 0).state ≠ .out ∧
    ((s { mode := .single }).line 0).window.mode = .single ∧
    ((s { staged := some (800, .single) }).line 0).window.staged = some (800, .single) ∧
    ((s {}).line 0).window.mode = .continuous ∧
    (withTiming { holdLatch := true }).timing.holdLatch = true ∧ base.holdreq = false ∧
    base.timing.holdLatch = false ∧ (withTiming { selector := .on .b }).timing.selector = .on .b ∧
    base.timing.selector = .free := by
  decide +kernel

theorem witness_TimingRequestIsCheckedAndApplied : base.phase = .ready := by decide

theorem witness_SpareActionsAndStoreRequests :
    let s := fun x => ({ base with spare := { state := x } } : State)
    let q : StoreRequest := { serial := 1, spareAction := 1, swapBank := 7, clearBankCounts := 1 }
    base.phase = .ready ∧ base.spare.state = .standby ∧ (s (.spared 7)).spare.state = .spared 7 ∧
    (s (.mirror 0)).spare.state = .mirror 0 ∧ (s (.restore 0)).spare.state = .restore 0 ∧
    (∃ n : LineNo, ((withLine { state := .running }).line n).placement.bank = 0 ∧
      ((withLine { state := .running }).line n).state = .running) ∧
    (¬∃ n : LineNo, (base.line n).placement.bank = 0 ∧ (base.line n).state ≠ .out) ∧
    ∃ s1 s2, exec .clearBankCounts { base with spare := { base.spare with autoLimit := 0 } } =
      .next s1 ∧ exec (.swap (Fin.ofNat 8 q.swapBank.toNat)) s1 = .next s2 := by
  refine ⟨rfl, rfl, rfl, rfl, rfl, ⟨0, by decide +kernel⟩, by decide +kernel, _, _, rfl, rfl⟩

theorem witness_ReturnRestoresTheBank :
    let q : StoreRequest := { serial := 1, spareAction := 2, autoLimit := 255 }
    let s := fun (b : Fin 8) (x : LineState) => ({ (withLine { state := x, placement := { bank := b } })
      with spare := { state := .spared 7 } } : State)
    (base.phase = .ready ∧ q.spareAction = 2 ∧ q.clearBankCounts = 0 ∧ q.autoLimit.toNat ≤ 255) ∧
    (s 7 .dead).spare.state = .spared 7 ∧ (∀ k : Fin 8, base.spare.state ≠ .spared k) ∧
    (((s 7 .hunting).line 0).placement.bank = 7 ∧ ((s 7 .hunting).line 0).state = .hunting) ∧
    ¬∃ n, ((s 7 .dead).line n).placement.bank = 7 ∧ (((s 7 .dead).line n).state = .hunting ∨
      ((s 7 .dead).line n).state = .filling ∨ ((s 7 .dead).line n).state = .running) := by
  decide +kernel

theorem witness_AutomaticSwapStartsAMirror :
    let s := fun (x : SpareState) (limit : Nat) (count : Long) => ({ base with
      spare := { state := x, autoLimit := limit }
      bankCounts := Vector.replicate 9 { uncorrected := count } } : State)
    let f := (withLine (frameLine .filling 1 3 160)).setSlot 2 97 { errors := { w4 := [0, 71] } }
    ((8 : Fin 9) = 8 ∧ (s (.mirror 0) 1 1).spare.state ≠ .standby ∧
      (s .standby 0 9).spare.autoLimit = 0 ∧
      ((s .standby 3 2).bank 0).uncorrected.toNat < (s .standby 3 2).spare.autoLimit) ∧
    ((7 : Fin 9).val = (7 : Fin 8).val ∧ (s .standby 3 3).spare.state = .standby ∧
      (s .standby 3 3).spare.autoLimit ≠ 0 ∧
      (s .standby 3 3).spare.autoLimit ≤ ((s .standby 3 3).bank 7).uncorrected.toNat) ∧
    ((f.line 0).state = .filling ∧
      .uncorrectable ∈ (f.slot (f.spare.state.readBank 2) 97).conditions.toList) ∧
    (∃ t, exec (.storeRequest { autoLimit := 256 }) base = .next t) ∧
    (s (.restore 7) 3 3).spare.state = .restore 7 ∧ (s (.mirror 7) 3 3).spare.state = .mirror 7 ∧
    ∃ t, exec .cancel (s (.mirror 7) 3 3) = .next t := by
  refine ⟨?_, ?_, ?_, ⟨_, rfl⟩, ?_, ?_, _, rfl⟩ <;> decide +kernel

theorem witness_MonitorRequestIsCheckedAndApplied :
    let q : MonitorRequest := { enable := 1, event := 11, line := 255, level := 10240
                                threshold := 255, ovfAction := 3 }
    let c : MonitorSettings := { enabled := true, event := .fillBelow, level := 10240, threshold := 255
                                 overflowAction := .journalFreeze }
    base.phase = .ready ∧ c.enabled = (q.enable == 1) ∧ c.event.code = q.event.toNat ∧
    255 = q.line.toNat ∧ c.level = min 10240 q.level.toNat ∧ c.threshold = min 255 q.threshold.toNat ∧
    c.less = (q.sense == 1) ∧ c.edge = (q.edge == 1) ∧ c.overflowAction.code = q.ovfAction.toNat ∧
    c.preset = q.presetHigh ++ q.presetLow ∧ q.loadPreset.toNat ≤ 1 ∧ 1 < (2 : Word).toNat := by
  decide

theorem witness_LoadPresetAndClearOverflow :
    let q : MonitorRequest := { enable := 1, event := 11, line := 255, ovfAction := 3, loadPreset := 1 }
    let s : State := { base with monitorUnit := { base.monitorUnit with
      freeze := true
      monitors := base.monitorUnit.monitors.set 7
        { settings := { overflowAction := .freezeAll }, overflow := true } } }
    (base.phase = .ready ∧ q.enable.toNat ≤ 1 ∧ q.event.toNat ≤ 11 ∧ q.line.toNat = 255 ∧
      (63 : Word).toNat ≤ 63 ∧
      q.sense.toNat ≤ 1 ∧ q.edge.toNat ≤ 1 ∧ q.ovfAction.toNat ≤ 3 ∧ q.loadPreset = 1 ∧
      q.clearOverflow.toNat ≤ 1) ∧
    (s.phase = .ready ∧ s.monitorUnit.freeze = true ∧ (s.monitor 7).overflow = true ∧
      (s.monitor 7).settings.overflowAction = .freezeAll ∧ ({ unfreeze := 1 } : DirectoryRequest).unfreeze = 1) := by
  decide +kernel

theorem witness_MonitorCountsAtTheTick :
    let s := fun (on armed : Bool) =>
      base.setMonitor 0 { settings := { enabled := on }, armed := armed, count := 0xFFFFFFFF }
    ((s false true).monitor 0).settings.enabled = false ∧
    (((s true false).monitor 0).settings.enabled = true ∧ ((s true false).monitor 0).armed = false) ∧
    ((s true true).monitor 0).armed = true ∧
    2 ^ 32 ≤ ((s true true).monitor 0).count.toNat + 1 := by
  decide +kernel

theorem witness_DirectoryRequestIsCheckedAndApplied :
    let held := base.setMonitor 7 { settings := { overflowAction := .freezeAll }, overflow := true }
    base.phase = .ready ∧ 1 < (2 : Word).toNat ∧ (1 : Word).toNat ≤ 1 ∧
    (∃ i, (held.monitor i).overflow = true ∧
      (held.monitor i).settings.overflowAction = .freezeAll) ∧
    (¬∃ i, (base.monitor i).overflow = true) ∧
    ∃ s1 s2 s3, exec .clearViolations base = .next s1 ∧ exec .clearUnposted s1 = .next s2 ∧
      exec .unfreeze s2 = .next s3 := by
  refine ⟨rfl, by decide, by decide, ⟨7, by decide +kernel⟩, by decide +kernel, _, _, _, rfl, rfl,
    rfl⟩

theorem witness_CommandsOutOfPlaceDoNothing :
    base.phase ≠ .inReset ∧ base.phase ≠ .initialising ∧ base.phase ≠ .restarting ∧
    State.reset.phase = .inReset ∧ (base.line 0).state = .out ∧
    (base.line 0).window.counting = false ∧ (base.line 0).framer.held = true ∧
    320 ≤ (withTiming { phase := 320 }).timing.phase ∧ base.timing.phase < 320 ∧
    32 ≤ (base.timing.bus .a).silence ∧ (base.timing.bus .a).flywheel = none ∧
    restarting.phase ≠ .ready ∧ SpareState.mirror 7 ≠ .standby ∧
    (∀ k, base.spare.state ≠ .spared k) ∧ base.spare.state.operating = none := by
  decide +kernel

/-- A state of the part in service with a command waiting, for the invariants that every step keeps:
line 0 RUNNING, bus A followed, bank 2 mirrored, a word of each memory listed. -/
def busy : State :=
  { (withLine (frameLine .running 1 4 0)) with
    memory := [(0, { raw := 1 })], slots := [(600, { filler := false })]
    timing := { selector := .on .a, busA := { state := .good }, history := [199, 201], hv := 200
                ncoStep := 536860175 }
    spare := { state := .mirror 2
               coverage := (Vector.replicate 64 {}).set 0 { mark := .pending, count := 3 } }
    badWords := { offsets := [2, 4] }
    patrol := { prompts := [.store, .line 3], due := true, step := some waiting }
    pending := [.clearCounts 0] }

theorem busy_steps : ∃ t, step busy = .next t := ⟨_, rfl⟩

theorem witness_StepsKeepTheMemoriesAndQueues :
    busy.memoriesWf ∧ busy.queuesLegal ∧ ∃ t, step busy = .next t :=
  ⟨by decide +kernel, by decide +kernel, busy_steps⟩

theorem witness_StepsKeepTheOfficeTimingSound :
    busy.timing.followsGoodBus ∧ busy.timing.holdoverComputed ∧ ∃ t, step busy = .next t := by
  refine ⟨fun x h => ?_, by decide +kernel, busy_steps⟩
  cases x
  · exact ⟨rfl, rfl⟩
  · cases h

theorem witness_StepsKeepTheRingsLegalAndDisjoint :
    busy.ringsLegal ∧ busy.ringsDisjoint ∧ ∃ t, step busy = .next t :=
  ⟨by decide +kernel, by decide +kernel, busy_steps⟩

theorem witness_StepsKeepLinesAndSpareControlSound :
    busy.framersAgree ∧ busy.spare.settled ∧ ∃ t, step busy = .next t :=
  ⟨by decide +kernel, by decide +kernel, busy_steps⟩

end Sys2Proof.Tests
end

section
/-!
SUPPORT. The requests and actions taken while READY is 1, and the step: what each writes.
-/
namespace Sys2Proof.Machine

section
variable (s : State)

/-- While READY is 1 a request or action of the host is taken (R159). -/
theorem State.whenReady_of_ready (h : s.phase = .ready) (t : State) :
    s.whenReady t = .next t := by
  simp [State.whenReady, State.ready, h]

theorem LineState.inService_iff (x : LineState) : x.inService = true ↔ x ≠ .out := by
  simp [LineState.inService]

theorem SelectorState.onBus_isSome_iff (x : SelectorState) :
    x.onBus.isSome = true ↔ ∃ bus, x = .on bus := by
  cases x <;> simp [SelectorState.onBus]

/-- With an empty history hv is 0 and the NCO has its nominal step (R103). -/
theorem Timing.withHistory_nil (t : Timing) :
    t.withHistory [] = { t with history := [], hv := 0, ncoStep := 536870912 } := by
  have hstep : holdoverStep (meanOffset []) = 536870912 := by decide
  unfold Timing.withHistory
  rw [hstep]
  rfl

/-! ## Arming a window -/

/-- The mode of the next window, as the staged settings give it (R72). -/
theorem Window.nextMode_eq (w : Window) :
    w.nextMode = match w.staged with
      | some x => x.2
      | none => w.mode := by
  unfold Window.nextMode
  cases w.staged <;> rfl

theorem Window.adopt_of_none (w : Window) (h : w.staged = none) : w.adopt = w := by
  unfold Window.adopt
  rw [h]

theorem Window.adopt_of_some (w : Window) {x : Nat × WindowMode} (h : w.staged = some x) :
    w.adopt = { w with length := x.1, mode := x.2, staged := none } := by
  unfold Window.adopt
  rw [h]

/-- ARM_WINDOW where the next window is SINGLE (R69, R72). -/
theorem Window.arm_of_single (w : Window) (h : w.nextMode = .single) : w.arm = w.causeStart := by
  unfold Window.arm
  rw [h]

theorem Window.arm_of_continuous (w : Window) (h : w.nextMode = .continuous) : w.arm = w := by
  unfold Window.arm
  rw [h]

/-- A start caused while a window is in progress abandons it, and its staged settings come into
force (R68, R69). -/
theorem Window.causeStart_of_counting (w : Window) (h : w.counting = true) :
    w.causeStart = { w.adopt with
      counting := false, counter := 0, accumulation := {}, startPending := true } := by
  unfold Window.causeStart Window.abandon
  rw [if_pos h]
  cases hx : w.staged with
  | none => simp [Window.adopt, hx]
  | some x => simp [Window.adopt, hx]

theorem Window.causeStart_of_not_counting (w : Window) (h : w.counting = false) :
    w.causeStart = { w with startPending := true } := by
  simp [Window.causeStart, Window.abandon, h]

theorem State.armWindow_eq (n : LineNo) :
    s.armWindow n = s.setLine n { s.line n with window := (s.line n).window.arm } := rfl

theorem exec_armWindow_of_ready (n : LineNo) (h : s.phase = .ready)
    (hin : (s.line n).state ≠ .out) :
    exec (.armWindow n) s = .next (s.armWindow n) := by
  show execArmWindow n s = _
  rw [execArmWindow, s.whenReady_of_ready h, if_pos ((LineState.inService_iff _).mpr hin)]

/-- ARM_WINDOW changes nothing on an OUT line and where the next window is CONTINUOUS (R72). -/
theorem exec_armWindow_idle (n : LineNo) (h : s.phase = .ready)
    (hidle : (s.line n).state = .out ∨ (s.line n).window.nextMode = .continuous) :
    exec (.armWindow n) s = .next s := by
  have harm : (s.line n).window.nextMode = .continuous → s.armWindow n = s := fun hc => by
    rw [s.armWindow_eq, Window.arm_of_continuous _ hc]
    exact s.setLine_line_self n
  show execArmWindow n s = _
  rw [execArmWindow, s.whenReady_of_ready h]
  split
  · next hin => rw [harm (hidle.resolve_left ((LineState.inService_iff _).mp hin))]
  · rfl

/-! ## Timing actions -/

theorem exec_clearHoldLatch_of_ready (h : s.phase = .ready) :
    exec .clearHoldLatch s =
      .next (if s.timing.holdLatch = true ∧ s.holdreq = false then s.clearLatch else s) := by
  show execClearHoldLatch s = _
  rw [execClearHoldLatch, s.whenReady_of_ready h]
  simp only [Bool.and_eq_true, Bool.not_eq_true']

theorem exec_realign_of_ready (h : s.phase = .ready) :
    exec .realign s = .next (if s.timing.selector.onBus.isSome then s.pendRealign else s) :=
  s.whenReady_of_ready h _

end

end Sys2Proof.Machine
end

section
/-!
PROOFS. A step runs the front command, and the line and timing actions while READY is 1.
-/
namespace Sys2Proof.Proofs

open Sys2Proof.Machine

/-- Settles O1, by the two cases of the queue. -/
theorem stepRunsTheFrontCommand : Obligations.StepRunsTheFrontCommand := by
  unfold Obligations.StepRunsTheFrontCommand
  constructor
  · intro s c rest h
    unfold step
    rw [h]
  · intro s h
    unfold step
    rw [h]

/-- Settles O47: each action by what it writes, ARM_WINDOW by the next window's mode,
CLEAR_HOLD_LATCH by the latch and the pin, REALIGN by the bus followed. -/
theorem lineAndTimingActionsWhileReady : Obligations.LineAndTimingActionsWhileReady := by
  unfold Obligations.LineAndTimingActionsWhileReady
  constructor
  · intro n s hs
    have hnext := (s.line n).window.nextMode_eq
    refine ⟨s.whenReady_of_ready hs _, s.whenReady_of_ready hs _, fun hin hmode => ?_,
      fun hidle => exec_armWindow_idle s n hs (hidle.imp_right hnext.trans)⟩
    rw [exec_armWindow_of_ready s n hs hin, s.armWindow_eq,
      Window.arm_of_single _ (hnext.trans hmode)]
    split
    · next hc =>
      rw [Window.causeStart_of_counting _ hc]
      cases hx : (s.line n).window.staged with
      | none => rw [Window.adopt_of_none _ hx]
      | some x => rw [Window.adopt_of_some _ hx]
    · next hc => rw [Window.causeStart_of_not_counting _ (Bool.eq_false_iff.mpr hc)]
  · intro s hs
    refine ⟨?_, fun hl hp => ?_, fun hclear => ?_, fun x hx => ?_, fun hx => ?_⟩
    · refine (s.whenReady_of_ready hs s.clearHistory).trans ?_
      rw [State.clearHistory, State.modTiming, Timing.withHistory_nil]
    · rw [exec_clearHoldLatch_of_ready s hs, if_pos ⟨hl, hp⟩]
      rfl
    · rw [exec_clearHoldLatch_of_ready s hs, if_neg]
      rintro ⟨hl, hp⟩
      rw [hl, hp] at hclear
      rcases hclear with h | h <;> cases h
    · rw [exec_realign_of_ready s hs, if_pos ((SelectorState.onBus_isSome_iff _).mpr ⟨x, hx⟩)]
      rfl
    · rw [exec_realign_of_ready s hs, if_neg]
      rw [SelectorState.onBus_isSome_iff]
      rintro ⟨x, hon⟩
      rcases hx with hx | hx <;> rw [hx] at hon <;> cases hon

end Sys2Proof.Proofs
end

section
/-!
SUPPORT. The window unit at a tick and at a reader event, and the end of a reader event, case by case.
-/
namespace Sys2Proof.Machine

section
variable (s : State) (n : LineNo) (busTimed : Bool)

/-! ## The window unit at a tick -/

/-- A pending start begins a window, and nothing of the frame that ends is counted (R70). -/
theorem State.closeWindowFrame_of_startPending (h : (s.line n).window.startPending = true) :
    s.closeWindowFrame n busTimed =
      s.setLine n { s.line n with window := (s.line n).window.start } := by
  unfold State.closeWindowFrame
  rw [if_pos h]
  rfl

/-- With no start pending and no window in progress the window unit does nothing at a tick. -/
theorem State.closeWindowFrame_of_idle (h : (s.line n).window.startPending = false)
    (hc : (s.line n).window.counting = false) : s.closeWindowFrame n busTimed = s := by
  unfold State.closeWindowFrame
  simp [h, hc]

/-- A COUNTING window counts the frame, and ends with it where its counter comes to 0 (R73, R75). -/
theorem State.closeWindowFrame_of_counting (h : (s.line n).window.startPending = false)
    (hc : (s.line n).window.counting = true) :
    s.closeWindowFrame n busTimed =
      let counted := s.setLine n { s.line n with
        window := (s.line n).window.closeFrame (s.line n).bitCount busTimed }
      if (s.line n).window.counter - 1 = 0 then counted.endWindow n else counted := by
  unfold State.closeWindowFrame
  rw [if_neg (by simp [h]), if_pos hc]
  rfl

/-- WINDOW_END out of reset, of a COUNTING window (R75). -/
theorem exec_windowEnd_of_counting (h : s.phase ≠ .inReset)
    (hc : (s.line n).window.counting = true) :
    exec (.windowEnd n) s = .next (s.endWindow n) := by
  show execWindowEnd n s = _
  simp [execWindowEnd, State.outOfReset, h, hc]

/-! ## The end of a reader event -/

theorem Window.takeEvent_of_not_counting (w : Window) (h : w.counting = false) (fill : Option Nat)
    (repeats deletes tLow tHigh : Nat) : w.takeEvent fill repeats deletes tLow tHigh = w := by
  simp [Window.takeEvent, h]

theorem Window.takeEvent_of_counting (w : Window) (h : w.counting = true) (fill : Option Nat)
    (repeats deletes tLow tHigh : Nat) :
    w.takeEvent fill repeats deletes tLow tHigh =
      { w with accumulation := w.accumulation.take fill repeats deletes tLow tHigh } := by
  simp [Window.takeEvent, h]

/-- The highway unit with line n's channels in the frame in hand replaced (R110). -/
def Highway.put (h : Highway) (n : LineNo) (octets : List Octet) : Highway :=
  { h with inHand := h.inHand.map fun f => { f with channels := f.channels.set n octets } }

theorem Highway.put_of_none (h : Highway) (hn : h.inHand = none) (n : LineNo)
    (octets : List Octet) : h.put n octets = h := by
  obtain ⟨inHand, sent⟩ := h
  subst hn
  rfl

theorem State.handOctets_eq (octets : List Octet) :
    s.handOctets n octets = s.modHighway fun h => h.put n octets := by
  unfold State.handOctets
  cases h : s.highway.inHand with
  | none => rw [State.modHighway, Highway.put_of_none _ h]
  | some f => simp [State.modHighway, Highway.put, h]

/-- Line n after its reader event (R1, R57, R63, R74). -/
def Line.handed (l : Line) (fill : Nat) (a : Acted) : Line :=
  { l with
    bitCount := 0
    counters := if a.substituted then
        { l.counters with substituted := l.counters.substituted + 1 } else l.counters
    reader := { l.reader with
      lastDecision := a.decision, lastFill := fill, lastSubstituted := a.substituted }
    window := l.window.takeEvent a.fill a.repeats a.deletes l.reader.tLow l.reader.tHigh }

/-- What ends a reader event: the line, the monitor unit and the frame in hand (R57, R63, R110,
R135). -/
theorem State.handOver_eq (fill : Nat) (a : Acted) :
    State.handOver n fill a =
      (((a.state.setLine n ((a.state.line n).handed fill a)).setGathered n
        (a.gathered (a.state.line n).state)).modHighway fun h => h.put n a.octets) := by
  unfold State.handOver
  rw [State.handOctets_eq, State.modLine_line_same]
  rfl

end

end Sys2Proof.Machine
end

section
/-!
PROOFS. The window unit's frames and hand-overs.
-/
namespace Sys2Proof.Proofs

open Sys2Proof.Machine

/-- Settles O32: the tick by what the window is doing, the hand-over by whether it is COUNTING and a
fill is handed over, the end of a reader event by `State.handOver_eq`. -/
theorem windowUnitCountsFramesAndHandOvers : Obligations.WindowUnitCountsFramesAndHandOvers := by
  unfold Obligations.WindowUnitCountsFramesAndHandOvers
  refine ⟨⟨fun s n busTimed => ⟨s.closeWindowFrame_of_startPending n busTimed,
    s.closeWindowFrame_of_idle n busTimed, fun hp hc hmore => ?_, fun hp hc hlast hphase => ?_⟩,
    fun w fill repeats deletes tLow tHigh =>
      ⟨fun hc => w.takeEvent_of_not_counting hc _ _ _ _ _, fun hc => ?_⟩⟩, fun n fill a => ?_⟩
  · rw [s.closeWindowFrame_of_counting n busTimed hp hc]
    exact if_neg (by omega)
  · rw [s.closeWindowFrame_of_counting n busTimed hp hc]
    rw [exec_windowEnd_of_counting]
    · exact congrArg Host.Outcome.next (if_pos (by omega)).symm
    · exact hphase
    · rw [State.setLine_line_same]
      exact hc
  · rw [w.takeEvent_of_counting hc]
    cases fill <;> simp [WindowAccumulation.take]
  · exact State.handOver_eq n fill a

end Sys2Proof.Proofs
end

section
/-!
SUPPORT. What a tick changes of the lines and of the highway unit: the monitors change none of them, a
line's window unit and reader no line but their own and no channels but their own.
-/
namespace Sys2Proof.Machine

/-- From s to t the highway unit and every line outside `own` are left alone. -/
structure State.LinesKept (own : Set LineNo) (s t : State) : Prop where
  line : ∀ m, m ∉ own → t.line m = s.line m
  highway : t.highway = s.highway

section
variable {own : Set LineNo}

theorem State.LinesKept.refl (s : State) : s.LinesKept own s := ⟨fun _ _ => rfl, rfl⟩

theorem State.LinesKept.trans {s t u : State} (h : s.LinesKept own t) (k : t.LinesKept own u) :
    s.LinesKept own u :=
  ⟨fun m hm => (k.line m hm).trans (h.line m hm), k.highway.trans h.highway⟩

theorem State.LinesKept.ite {s t u : State} (c : Prop) [Decidable c] (ht : s.LinesKept own t)
    (hu : s.LinesKept own u) : s.LinesKept own (if c then t else u) := by split <;> assumption

/-- Steps that each leave them alone leave them alone together. -/
theorem State.LinesKept.foldl {β : Type} (f : State → β → State)
    (h : ∀ (s : State) b, s.LinesKept own (f s b)) (l : List β) (s : State) :
    s.LinesKept own (l.foldl f s) := by
  induction l generalizing s with
  | nil => exact .refl s
  | cons b l ih => exact (h s b).trans (ih _)

/-- A step that leaves the lines and the highway unit alone leaves them alone whatever `own` is. -/
theorem State.LinesKept.of_eq {s t : State} (hl : t.lines = s.lines) (hh : t.highway = s.highway) :
    s.LinesKept own t :=
  ⟨fun m _ => by rw [State.line, State.line, hl], hh⟩

variable (s : State)

theorem State.post_linesKept (k : Kind) (record : Nat) (detail : List Word) :
    s.LinesKept own (s.post k record detail) := .of_eq (by simp) (by simp)

theorem State.setMonitor_linesKept (i : MonitorNo) (x : Monitor) :
    s.LinesKept own (s.setMonitor i x) := .of_eq rfl rfl

theorem State.setLine_linesKept (n : LineNo) (l : Line) : s.LinesKept {n} (s.setLine n l) :=
  ⟨fun _ hm => s.setLine_line_ne hm l, rfl⟩

theorem State.modLine_linesKept (n : LineNo) (f : Line → Line) : s.LinesKept {n} (s.modLine n f) :=
  s.setLine_linesKept n _

/-! ## Monitors -/

theorem State.overflowMonitor_linesKept (i : MonitorNo) : s.LinesKept own (s.overflowMonitor i) := by
  unfold State.overflowMonitor
  dsimp only
  have hfreeze : ∀ t : State, s.LinesKept own t → s.LinesKept own
      (if (s.monitor i).settings.overflowAction.freezes = true then
        t.modMonitorUnit fun u => { u with freeze := true } else t) :=
    fun t h => .ite _ (h.trans (.of_eq rfl rfl)) h
  have h := hfreeze _ (s.setMonitor_linesKept i { s.monitor i with overflow := true })
  exact .ite _ (h.trans (State.post_linesKept _ _ _ _)) h

theorem State.countMonitor_linesKept (i : MonitorNo) : s.LinesKept own (s.countMonitor i) :=
  .ite _ ((s.setMonitor_linesKept i _).trans (State.overflowMonitor_linesKept _ i))
    (s.setMonitor_linesKept i _)

theorem State.closeMonitor_linesKept (frozen : Bool) (i : MonitorNo) :
    s.LinesKept own (s.closeMonitor frozen i) :=
  .ite _ (.trans (.ite _ (s.countMonitor_linesKept i) (.refl s)) (State.setMonitor_linesKept _ i _))
    (.refl s)

/-- Monitors count without a change of any line or of the highway unit (R137, R138). -/
theorem State.closeMonitors_linesKept : s.LinesKept own s.closeMonitors :=
  State.LinesKept.foldl _ (fun t i => t.closeMonitor_linesKept _ i) _ s

/-! ## Spare control and the store -/

theorem State.writeSlot_linesKept (k : Fin 8) (i : Nat) (x : Slot) :
    s.LinesKept own (s.writeSlot k i x) :=
  State.LinesKept.foldl (fun s b => s.setSlot b i x) (fun _ _ => .of_eq rfl rfl) _ s

theorem State.enterSpare_linesKept (new : SpareState) (cause : SpareCause) (b : Fin 8) :
    s.LinesKept own (s.enterSpare new cause b) :=
  .trans (t := s.modSpare _) (.of_eq rfl rfl) (State.post_linesKept _ _ _ _)

theorem State.settleSpare_linesKept : s.LinesKept own s.settleSpare := by
  unfold State.settleSpare
  split
  · exact .refl s
  · exact .ite _ (s.enterSpare_linesKept _ _ _) (.refl s)

theorem State.coverLine_linesKept (n : LineNo) : s.LinesKept own (s.coverLine n) := by
  unfold State.coverLine
  split
  · exact .trans (t := s.setCover n _) (.of_eq rfl rfl) (State.settleSpare_linesKept _)
  all_goals exact .refl s

theorem State.autoSwap_linesKept (b : Fin 9) : s.LinesKept own (s.autoSwap b) := by
  unfold State.autoSwap
  split
  · exact .ite _ ((s.enterSpare_linesKept _ _ _).trans (State.settleSpare_linesKept _)) (.refl s)
  · exact .refl s

variable (n : LineNo)

theorem State.changeLine_linesKept (new : LineState) (cause : LineCause) :
    s.LinesKept {n} (s.changeLine n new cause) :=
  (s.modLine_linesKept n _).trans (State.post_linesKept _ _ _ _)

theorem State.refill_linesKept (cause : LineCause) : s.LinesKept {n} (s.refill n cause) :=
  (s.changeLine_linesKept n _ cause).trans <| (State.modLine_linesKept _ n _).trans <|
    (State.LinesKept.foldl _ (fun t _ => t.writeSlot_linesKept _ _ _) _ _).trans
      (State.coverLine_linesKept _ n)

/-! ## The window unit -/

theorem State.endWindow_linesKept : s.LinesKept {n} (s.endWindow n) := by
  unfold State.endWindow
  dsimp only
  refine .trans ?_ (State.modLine_linesKept _ n _)
  have hposted : ∀ (c : Bool) (t : State) k d, s.LinesKept {n} t →
      s.LinesKept {n} (if c = true then t.postLine k n d else t) :=
    fun c t k d h => .ite _ (h.trans (State.post_linesKept _ _ _ _)) h
  exact hposted _ _ _ _ (hposted _ _ _ _ (s.modLine_linesKept n _))

theorem State.closeWindowFrame_linesKept (busTimed : Bool) :
    s.LinesKept {n} (s.closeWindowFrame n busTimed) :=
  .ite _ (s.modLine_linesKept n _) (.ite _
    (.ite _ ((s.modLine_linesKept n _).trans (State.endWindow_linesKept _ n))
      (s.modLine_linesKept n _)) (.refl s))

/-! ## The reader -/

theorem State.enterDead_linesKept : s.LinesKept {n} (s.enterDead n) :=
  ((s.modLine_linesKept n _).trans (State.changeLine_linesKept _ n _ _)).trans
    (State.coverLine_linesKept _ n)

theorem State.deadStage_linesKept : s.LinesKept {n} (s.deadStage n) := by
  unfold State.deadStage
  dsimp only
  split
  · exact .refl s
  · exact .ite _ (.refl s) ((s.modLine_linesKept n _).trans (State.changeLine_linesKept _ n _ _))
  all_goals
    exact .ite _ (.ite _ (s.enterDead_linesKept n) (s.modLine_linesKept n _))
      (s.modLine_linesKept n _)

theorem State.countRead_linesKept (b : Fin 9) (x : SlotResult) :
    s.LinesKept {n} (s.countRead n b x) := by
  have hbank : ∀ c, s.LinesKept {n} (s.setBank b c) := fun _ => .of_eq rfl rfl
  unfold State.countRead
  split
  · exact .refl s
  · exact (hbank _).trans (State.modLine_linesKept _ n _)
  · exact (hbank _).trans (State.modLine_linesKept _ n _)

theorem State.advanceRing_linesKept (k : Nat) : s.LinesKept {n} (s.advanceRing n k) :=
  s.modLine_linesKept n _

theorem State.startLine_linesKept (start : Bool) : s.LinesKept {n} (s.startLine n start) :=
  .ite _ (s.changeLine_linesKept n _ _) (.refl s)

theorem State.tagMismatch_linesKept : s.LinesKept {n} (s.tagMismatch n) :=
  (s.modLine_linesKept n _).trans (State.refill_linesKept _ n _)

variable (g : GroupPos)

theorem State.normalRead_linesKept (d : Decision) (fill : Nat) (start : Bool) :
    s.LinesKept {n} (s.normalRead n g d fill start).state := by
  unfold State.normalRead
  dsimp only
  split
  · exact (s.countRead_linesKept n _ _).trans <| (State.startLine_linesKept _ n start).trans <|
      (State.post_linesKept _ _ _ _).trans <| (State.autoSwap_linesKept _ _).trans
        (State.advanceRing_linesKept _ n 1)
  · split
    · exact (s.countRead_linesKept n _ _).trans (State.tagMismatch_linesKept _ n)
    · exact (s.countRead_linesKept n _ _).trans <| (State.startLine_linesKept _ n start).trans
        (State.advanceRing_linesKept _ n 1)

theorem State.fillingAct_linesKept (fill : Nat) :
    s.LinesKept {n} (s.fillingAct n g fill).state := by
  unfold State.fillingAct
  dsimp only
  split
  · split
    · exact s.normalRead_linesKept n g _ _ _
    · exact .refl s
  · split
    · exact .refl s
    · split
      · exact s.tagMismatch_linesKept n
      · split
        · exact (s.modLine_linesKept n _).trans (State.normalRead_linesKept _ n g _ _ _)
        · exact .refl s

theorem Acted.countSlip_linesKept {s : State} {a : Acted} {n : LineNo}
    (h : s.LinesKept {n} a.state) (l : Line) (direction fill : Nat) :
    s.LinesKept {n} (a.countSlip n l direction fill).state :=
  h.trans (.ite _ ((State.modLine_linesKept _ n _).trans (State.post_linesKept _ _ _ _))
    (State.modLine_linesKept _ n _))

theorem State.slipAct_linesKept (fill : Nat) : s.LinesKept {n} (s.slipAct n g fill).state := by
  have hmoved : ∀ f d, s.LinesKept {n} ((s.modLine n f).normalRead n g d fill false).state :=
    fun f d => (s.modLine_linesKept n f).trans (State.normalRead_linesKept _ n g _ _ _)
  unfold State.slipAct
  dsimp only
  split
  · exact Acted.countSlip_linesKept (hmoved _ _) _ _ _
  · split
    · exact Acted.countSlip_linesKept (hmoved _ _) _ _ _
    · exact s.normalRead_linesKept n g _ _ _

theorem State.runningAct_linesKept (fill : Nat) :
    s.LinesKept {n} (s.runningAct n g fill).state := by
  unfold State.runningAct
  dsimp only
  split
  · exact s.slipAct_linesKept n g fill
  · split
    · exact s.slipAct_linesKept n g fill
    · split
      · exact (s.modLine_linesKept n _).trans (State.refill_linesKept _ n _)
      · exact s.normalRead_linesKept n g _ _ _

theorem State.readerAct_linesKept (fill : Nat) :
    s.LinesKept {n} (s.readerAct n g fill).state := by
  unfold State.readerAct
  dsimp only
  refine (s.modLine_linesKept n fun l =>
    { l with reader := { l.reader with recentrePending := false } }).trans ?_
  split
  · exact .refl _
  · exact .refl _
  · exact .refl _
  · split
    · exact State.refill_linesKept _ n _
    · exact State.fillingAct_linesKept _ n g fill
  · split
    · exact State.refill_linesKept _ n _
    · exact State.runningAct_linesKept _ n g fill

/-- A line's reader event changes no other line, and of the highway unit the line's own channels
(R39, R110). -/
theorem State.readerEvent_serves :
    ∃ octets, (∀ m, m ≠ n → (s.readerEvent n g).line m = s.line m) ∧
      (s.readerEvent n g).highway = s.highway.put n octets := by
  have hadopted := (s.deadStage_linesKept n).trans
    (State.modLine_linesKept _ n fun l => { l with reader := l.reader.adopt })
  unfold State.readerEvent
  dsimp only
  rw [State.handOver_eq]
  have hacted := fun fill => hadopted.trans (State.readerAct_linesKept _ n g fill)
  exact ⟨_, fun m hm => (State.setLine_line_ne _ hm _).trans ((hacted _).line m hm),
    congrArg (fun h : Highway => h.put n _) (hacted _).highway⟩

end

end Sys2Proof.Machine
end

section
/-!
SUPPORT. The office tick: the new frame, each line's share of it, and the octets sent.
-/
namespace Sys2Proof.Machine

/-! ## A line's share of a tick -/

/-- The channels of line n in the frame in hand, if there is one. -/
def Highway.channel (h : Highway) (n : LineNo) : Option (List Octet) :=
  h.inHand.map fun f => f.channels[n]

theorem Highway.put_channel_same (h : Highway) (n : LineNo) (octets : List Octet) :
    (h.put n octets).channel n = h.inHand.map fun _ => octets := by
  simp [Highway.put, Highway.channel, Function.comp_def]

theorem Highway.put_channel_ne (h : Highway) {n m : LineNo} (hm : m ≠ n) (octets : List Octet) :
    (h.put n octets).channel m = h.channel m := by
  have : n.val ≠ m.val := fun e => hm (Fin.ext e.symm)
  simp [Highway.put, Highway.channel, Function.comp_def, Vector.getElem_set_ne, this]

theorem Highway.put_position (h : Highway) (n : LineNo) (octets : List Octet) :
    (h.put n octets).inHand.map FrameInHand.position = h.inHand.map FrameInHand.position := by
  simp [Highway.put, Function.comp_def]

/-- What a tick's work for line n bears on: the line, and its channels in the frame in hand. -/
def State.share (s : State) (n : LineNo) : Line × Option (List Octet) :=
  (s.line n, s.highway.channel n)

/-- Where the work for one line leaves every other line's share alone, the lines of a list without
repeats are each served once, from the share they had at first. -/
theorem State.foldl_share {f : State → LineNo → State}
    (hf : ∀ s n m, m ≠ n → (f s n).share m = s.share m) {l : List LineNo} (hl : l.Nodup)
    (s : State) :
    (∀ m, m ∉ l → (l.foldl f s).share m = s.share m) ∧
    ∀ m, m ∈ l → ∃ u : State, u.share m = s.share m ∧ (l.foldl f s).share m = (f u m).share m := by
  induction l generalizing s with
  | nil => exact ⟨fun _ _ => rfl, fun _ hm => absurd hm List.not_mem_nil⟩
  | cons a l ih =>
    obtain ⟨ha, hl⟩ := List.nodup_cons.mp hl
    obtain ⟨hout, hin⟩ := ih hl (f s a)
    refine ⟨fun m hm => ?_, fun m hm => ?_⟩
    · obtain ⟨hma, hml⟩ := not_or.mp (mt List.mem_cons.mpr hm)
      exact (hout m hml).trans (hf s a m hma)
    · rcases List.mem_cons.mp hm with rfl | hml
      · exact ⟨s, rfl, hout m ha⟩
      · obtain ⟨u, hu, hlast⟩ := hin m hml
        exact ⟨u, hu.trans (hf s a m fun e => ha (e ▸ hml)), hlast⟩

section
variable (s : State) (n : LineNo) (busTimed : Bool) (g : GroupPos)

/-- A tick's work for line n changes no other line, and of the highway unit the line's own channels
(R39, R73, R110). -/
theorem State.tickLine_serves :
    ∃ octets, (∀ m, m ≠ n → (s.tickLine busTimed g n).line m = s.line m) ∧
      (s.tickLine busTimed g n).highway = s.highway.put n octets := by
  have hclosed := s.closeWindowFrame_linesKept n busTimed
  obtain ⟨octets, hline, hhighway⟩ := (s.closeWindowFrame n busTimed).readerEvent_serves n g
  refine ⟨octets, fun m hm => (hline m hm).trans (hclosed.line m hm), hhighway.trans ?_⟩
  rw [hclosed.highway]

theorem State.tickLine_share_ne {m : LineNo} (hm : m ≠ n) :
    (s.tickLine busTimed g n).share m = s.share m := by
  obtain ⟨octets, hline, hhighway⟩ := s.tickLine_serves n busTimed g
  rw [State.share, State.share, hline m hm, hhighway, Highway.put_channel_ne _ hm]

theorem State.tickLine_position :
    (s.tickLine busTimed g n).highway.inHand.map FrameInHand.position =
      s.highway.inHand.map FrameInHand.position := by
  obtain ⟨octets, -, hhighway⟩ := s.tickLine_serves n busTimed g
  rw [hhighway, Highway.put_position]

theorem State.foldl_tickLine_position (l : List LineNo) :
    (l.foldl (fun t n => t.tickLine busTimed g n) s).highway.inHand.map FrameInHand.position =
      s.highway.inHand.map FrameInHand.position := by
  induction l generalizing s with
  | nil => rfl
  | cons a l ih => exact (ih _).trans (s.tickLine_position a busTimed g)

/-! ## An OUT line -/

theorem State.deadStage_of_out (h : (s.line n).state = .out) : s.deadStage n = s := by
  simp only [State.deadStage, h]

/-- The action of an OUT line: its idle code in all 39 channels (R45). -/
theorem State.readerAct_of_out (fill : Nat) (h : (s.line n).state = .out) :
    s.readerAct n g fill =
      { state := s.modLine n fun l => { l with reader := { l.reader with recentrePending := false } }
        octets := List.replicate 39 (s.line n).idleCode
        decision := .idle
        substituted := false } := by
  simp only [State.readerAct, h]

/-- An OUT line with no window in hand after its reader event (R43, R45, R58). -/
def Line.idled (l : Line) : Line :=
  { l with
    bitCount := 0
    reader := { l.reader.adopt with
      recentrePending := false, lastDecision := .idle, lastFill := l.fill
      lastSubstituted := false } }

/-- A tick's work for an OUT line with no window in hand. -/
theorem State.tickLine_of_out (hout : (s.line n).state = .out)
    (hp : (s.line n).window.startPending = false) (hc : (s.line n).window.counting = false) :
    (s.tickLine busTimed g n).share n =
      ((s.line n).idled, s.highway.inHand.map fun _ => List.replicate 39 (s.line n).idleCode) := by
  have hadopted : ((s.modLine n fun l => { l with reader := l.reader.adopt }).line n) =
      { s.line n with reader := (s.line n).reader.adopt } := s.modLine_line_same n _
  have hout' : ((s.modLine n fun l => { l with reader := l.reader.adopt }).line n).state = .out := by
    rw [hadopted]
    exact hout
  rw [State.tickLine, s.closeWindowFrame_of_idle n busTimed hp hc, State.readerEvent,
    s.deadStage_of_out n hout, State.readerAct_of_out _ n g _ hout', State.handOver_eq, hadopted]
  dsimp only
  refine Prod.ext ?_ (Highway.put_channel_same _ n _)
  refine (State.setLine_line_same _ n _).trans ?_
  rw [State.modLine_line_same, hadopted, Line.handed, Window.takeEvent_of_not_counting _ hc]
  rfl

end

/-! ## The tick -/

/-- The channels carried over into a new frame until the readers hand over theirs: those of the frame
in hand, or alarm fill where there is none (R110). -/
def Highway.carried (h : Highway) : Vector (List Octet) 64 :=
  match h.inHand with
  | some f => f.channels
  | none => Vector.replicate 64 alarmFill

/-- The highway unit with a new frame in hand. -/
def Highway.opened (h : Highway) (position : GroupPos) : Highway :=
  { h with inHand := some { position := position, channels := h.carried } }

section
variable (s : State)

/-- A tick up to the new frame: the monitors have counted, and no line is served yet. -/
def State.opened : State := (s.modTiming Timing.tick).closeMonitors.openFrame

/-- A tick up to the new frame's first octets, which are not yet sent. -/
def State.served : State :=
  (List.finRange 64).foldl (fun t n => t.tickLine s.timing.busTimed s.timing.tick.position n)
    s.opened

theorem State.openFrame_eq :
    s.openFrame = { s with highway := s.highway.opened s.timing.position } := rfl

theorem State.openFrame_line (n : LineNo) : s.openFrame.line n = s.line n := rfl

theorem State.closeMonitors_highway : s.closeMonitors.highway = s.highway :=
  (s.closeMonitors_linesKept (own := ∅)).highway

theorem State.closeMonitors_line (n : LineNo) : s.closeMonitors.line n = s.line n :=
  (s.closeMonitors_linesKept (own := ∅)).line n (Set.notMem_empty n)

theorem State.closeMonitors_timing : s.closeMonitors.timing = s.timing :=
  s.closeMonitors_quiet.timing

theorem State.opened_eq :
    s.opened = { (s.modTiming Timing.tick).closeMonitors with
      highway := s.highway.opened s.timing.tick.position } := by
  have hhighway : (s.modTiming Timing.tick).closeMonitors.highway.opened
      (s.modTiming Timing.tick).closeMonitors.timing.position =
        s.highway.opened s.timing.tick.position := by
    rw [State.closeMonitors_highway, State.closeMonitors_timing, State.modTiming_highway,
      State.modTiming_timing]
  rw [State.opened, State.openFrame_eq, hhighway]

theorem State.opened_timing : s.opened.timing = s.timing.tick :=
  ((State.closeMonitors_quiet _).trans (State.openFrame_quiet _)).timing

theorem State.opened_highway : s.opened.highway = s.highway.opened s.timing.tick.position := by
  rw [State.opened_eq]

theorem State.opened_line (n : LineNo) : s.opened.line n = s.line n := by
  rw [State.opened, State.openFrame_line, State.closeMonitors_line, State.modTiming_line]

/-- A tick: the new frame, the lines served in ascending order, and its first octets (R98, R110). -/
theorem State.tick_eq : s.tick = s.served.sendOctets := by
  have hposition : s.opened.timing.position = s.timing.tick.position :=
    congrArg Timing.position s.opened_timing
  rw [State.served, ← hposition]
  rfl

theorem State.served_timing : s.served.timing = s.timing.tick := by
  have hquiet : s.opened.Quiet s.served :=
    State.Quiet.foldl (fun t n => t.tickLine s.timing.busTimed s.timing.tick.position n)
      (fun t n => t.tickLine_quiet _ _ n) _ _
  exact hquiet.timing.trans s.opened_timing

/-- The lines served in ascending order (R39, R73), from the state with the monitors counted and the
new frame in hand. -/
theorem State.served_eq :
    s.served = (List.finRange 64).foldl
      (fun u n => (u.closeWindowFrame n s.timing.busTimed).readerEvent n s.timing.tick.position)
      { (List.finRange 8).foldl (fun u i => u.closeMonitor s.monitorUnit.freeze i)
          (s.modTiming Timing.tick) with
        highway := s.highway.opened s.timing.tick.position } := by
  rw [State.served, State.opened_eq]
  rfl

/-- Every line served, the frame in hand is the one the tick opened. -/
theorem State.served_position :
    s.served.highway.inHand.map FrameInHand.position = some s.timing.tick.position := by
  rw [State.served, State.foldl_tickLine_position, State.opened_highway]
  rfl

theorem State.served_share_of_out (n : LineNo) (hout : (s.line n).state = .out)
    (hp : (s.line n).window.startPending = false) (hc : (s.line n).window.counting = false) :
    s.served.line n = (s.line n).idled ∧
      ∀ f, s.served.highway.inHand = some f →
        f.channels[n] = List.replicate 39 (s.line n).idleCode := by
  have hserved : ∃ u : State, u.share n = s.opened.share n ∧ s.served.share n =
      (u.tickLine s.timing.busTimed s.timing.tick.position n).share n := by
    rw [State.served]
    exact (State.foldl_share (fun t n m hm => t.tickLine_share_ne n _ _ hm)
      (List.nodup_finRange 64) s.opened).2 n (List.mem_finRange n)
  obtain ⟨u, hu, hlast⟩ := hserved
  have hline : u.line n = s.line n := (congrArg Prod.fst hu).trans (s.opened_line n)
  rw [← hline] at hout hp hc
  have hshare := hlast.trans (u.tickLine_of_out n _ _ hout hp hc)
  rw [hline, State.share] at hshare
  obtain ⟨hidled, hchannel⟩ := Prod.mk.inj hshare
  refine ⟨hidled, fun f hf => ?_⟩
  rw [Highway.channel, hf] at hchannel
  obtain ⟨-, -, hoctets⟩ := Option.map_eq_some_iff.mp hchannel.symm
  exact hoctets.symm

/-! ## The octets sent -/

/-- At φ = 0 every highway carries the alignment code of the group position (R109, R111). -/
theorem FrameInHand.highwayOctets_zero (f : FrameInHand) :
    (Vector.ofFn fun h => f.highwayOctet h 0) = Vector.replicate 8 (alignmentCode f.position) := by
  ext i hi
  simp [FrameInHand.highwayOctet, FrameInHand.octet]

/-- In the lengthened part of a frame every highway carries an extension octet (R114). -/
theorem FrameInHand.highwayOctets_extension (f : FrameInHand) {phase : Nat} (h : 320 ≤ phase) :
    (Vector.ofFn fun i => f.highwayOctet i phase) = Vector.replicate 8 0xFF := by
  ext i hi
  simp [FrameInHand.highwayOctet, h]

theorem State.sendOctets_of_some {f : FrameInHand} (h : s.highway.inHand = some f) :
    s.sendOctets = s.modHighway fun x =>
      { x with sent := some (Vector.ofFn fun i => f.highwayOctet i s.timing.phase) } := by
  simp only [State.sendOctets, h]

theorem State.sendOctets_of_none (h : s.highway.inHand = none) : s.sendOctets = s := by
  simp only [State.sendOctets, h]

/-- In the lengthened part of a frame a driven highway carries an extension octet (R114, R116). -/
theorem State.sendOctets_extension (h : 320 ≤ s.timing.phase) :
    s.sendOctets = { s with highway := { s.highway with
      sent := if s.highway.inHand = none then s.highway.sent
        else some (Vector.replicate 8 0xFF) } } := by
  by_cases hf : s.highway.inHand = none
  · rw [s.sendOctets_of_none hf, if_pos hf]
  · obtain ⟨f, hf'⟩ := Option.ne_none_iff_exists'.mp hf
    rw [s.sendOctets_of_some hf', if_neg hf, f.highwayOctets_extension h]
    rfl

/-- Sending changes nothing but the octets sent. -/
theorem State.sendOctets_frame {t : State} (h : t = s) :
    s.sendOctets = { t with highway := { t.highway with sent := s.sendOctets.highway.sent } } := by
  subst h
  cases hf : t.highway.inHand with
  | none => rw [t.sendOctets_of_none hf]
  | some f => rw [t.sendOctets_of_some hf]; rfl

theorem State.sendOctets_line (n : LineNo) : s.sendOctets.line n = s.line n := by
  rw [s.sendOctets_frame rfl]
  rfl

theorem State.sendOctets_inHand : s.sendOctets.highway.inHand = s.highway.inHand := by
  rw [s.sendOctets_frame rfl]

theorem State.sendOctets_sent {f : FrameInHand} (h : s.highway.inHand = some f)
    (hphase : s.timing.phase = 0) :
    s.sendOctets.highway.sent = some (Vector.replicate 8 (alignmentCode f.position)) := by
  rw [s.sendOctets_of_some h, hphase, f.highwayOctets_zero]
  rfl

/-- An office tick: the frame it opens is in hand, and its first octets, the alignment code on every
highway, are sent (R98, R110). -/
theorem State.tick_opens :
    ∃ f, s.tick.highway.inHand = some f ∧ f.position = s.timing.tick.position ∧
      s.tick.highway.sent = some (Vector.replicate 8 (alignmentCode f.position)) := by
  obtain ⟨f, hf, hposition⟩ := Option.map_eq_some_iff.mp s.served_position
  rw [s.tick_eq]
  exact ⟨f, (State.sendOctets_inHand _).trans hf, hposition,
    State.sendOctets_sent _ hf (congrArg Timing.phase s.served_timing)⟩

/-- An OUT line with no window in hand sends its idle code in all channels (R45). -/
theorem State.tick_of_out (n : LineNo) (hout : (s.line n).state = .out)
    (hp : (s.line n).window.startPending = false) (hc : (s.line n).window.counting = false) :
    s.tick.line n = (s.line n).idled ∧ ∀ f, s.tick.highway.inHand = some f →
      f.channels[n] = List.replicate 39 (s.line n).idleCode := by
  rw [s.tick_eq, State.sendOctets_line, State.sendOctets_inHand]
  exact s.served_share_of_out n hout hp hc

/-! ## The commands -/

/-- The timing unit as the command that makes a tick leaves it to the tick: nothing pending, and Bo 0
where a lengthened frame closes (R100). -/
def Timing.beforeTick (t : Timing) (c : Instr) : Timing :=
  { t with realignPending := false, buildOut := if c = .officeTick then t.buildOut else 0 }

/-- The wrap of φ with no REALIGN to wait for, and REALIGN_COMPLETE in a lengthened frame, make a tick
(R98, R100). -/
theorem exec_tick (c : Instr) (h : s.phase ≠ .inReset)
    (hc : c = .officeTick ∧ s.timing.phase < 320 ∧ ¬(s.timing.realignPending = true ∧
        (∃ x, s.timing.selector = .on x) ∧ s.timing.buildOut ≠ 0) ∨
      c = .realignComplete ∧ 320 ≤ s.timing.phase ∧ ∃ x, s.timing.selector = .on x) :
    exec c s = .next (s.modTiming fun t => t.beforeTick c).tick := by
  have hreset : s.outOfReset = true := by simp [State.outOfReset, h]
  rcases hc with ⟨rfl, hphase, hrealign⟩ | ⟨rfl, hphase, hon⟩
  · show execOfficeTick s = _
    rw [execOfficeTick, hreset, if_pos (by simpa using hphase), State.wrapPhase, if_neg]
    · rfl
    · simpa [SelectorState.onBus_isSome_iff, and_assoc] using hrealign
  · show execRealignComplete s = _
    have hbus := (SelectorState.onBus_isSome_iff _).mpr hon
    rw [execRealignComplete, hreset, if_pos (by simp [hphase, hbus])]
    rfl

/-- The wrap of φ with a REALIGN pending on a followed bus whose flywheel is not at 0: no tick, and φ
counts on at 320 (R100, R114). -/
theorem exec_officeTick_of_realign {x : Bus} (h : s.phase ≠ .inReset) (hphase : s.timing.phase < 320)
    (hp : s.timing.realignPending = true) (hon : s.timing.selector = .on x)
    (hb : s.timing.buildOut ≠ 0) :
    exec .officeTick s =
      .next (s.modTiming fun t => { t with phase := 320 }).sendOctets := by
  have hreset : s.outOfReset = true := by simp [State.outOfReset, h]
  have hbus := (SelectorState.onBus_isSome_iff _).mpr ⟨x, hon⟩
  show execOfficeTick s = _
  rw [execOfficeTick, hreset, if_pos (by simpa using hphase), State.wrapPhase,
    if_pos (by simp [hp, hbus, hb])]

/-- Bus-timed is set where the selector is on one of the two buses (R101). -/
theorem SelectorState.onBus_isSome_eq (x : SelectorState) :
    x.onBus.isSome = (x == .on .a || x == .on .b) := by
  rcases x with _ | (_ | _) | _ <;> rfl

end

end Sys2Proof.Machine
end

section
/-!
PROOFS. OFFICE_TICK and REALIGN_COMPLETE open a frame.
-/
namespace Sys2Proof.Proofs

open Sys2Proof.Machine

/-- Settles O22: both commands come to `State.tick` of the state with nothing pending, whose new frame
and served lines are `State.served`; a REALIGN that waits makes no tick. -/
theorem officeTickOpensAFrame : Obligations.OfficeTickOpensAFrame := by
  unfold Obligations.OfficeTickOpensAFrame
  refine ⟨fun c s hs hc => ?_, fun s x hs hphase hp hon hb => ?_⟩
  · have hexec := exec_tick s c hs hc
    have hkept := (s.modTiming_kept fun t => t.beforeTick c).trans (State.tick_kept _)
    have hserved := (s.modTiming fun t => t.beforeTick c).served_eq
    have houtLine := (s.modTiming fun t => t.beforeTick c).tick_of_out
    obtain ⟨f, hf, hposition, hsent⟩ := (s.modTiming fun t => t.beforeTick c).tick_opens
    rw [← SelectorState.onBus_isSome_eq]
    refine ⟨_, f, hexec, hkept, ?_, State.tick_timing _, hf, ?_, hsent, fun n hout hp hc => ?_⟩
    · rw [State.tick_eq]
      exact State.sendOctets_frame _ hserved.symm
    · rw [hposition]
      rfl
    · obtain ⟨hline, hchannels⟩ := houtLine n hout hp hc
      exact ⟨hchannels f hf, hline⟩
  · rw [exec_officeTick_of_realign s hs hphase hp hon hb, State.sendOctets_extension _ (le_refl 320)]
    rfl

end Sys2Proof.Proofs
end

section
/-!
SUPPORT. Rounding by the quotient's magnitude, and the end of a window: its record, its horizon and what
follows it.
-/
namespace Sys2Proof.Machine

/-! ## Rounding -/

/-- The magnitude of a rounded quotient. -/
def roundedMagnitude (num den : Nat) : Nat := (2 * num + den) / (2 * den)

/-- The magnitude is above `num / den - 1/2` and at most `num / den + 1/2`. -/
theorem roundedMagnitude_bounds (num : Nat) {den : Nat} (h : 0 < den) :
    2 * (roundedMagnitude num den * den) ≤ 2 * num + den ∧
      2 * num < 2 * (roundedMagnitude num den * den) + den := by
  have hlow := Nat.div_mul_le_self (2 * num + den) (2 * den)
  have hhigh := Nat.lt_div_mul_add (a := 2 * num + den) (b := 2 * den) (by omega)
  have hmul : (2 * num + den) / (2 * den) * (2 * den) = 2 * (roundedMagnitude num den * den) :=
    Nat.mul_left_comm _ 2 den
  omega

/-- Within half of the quotient, and above it where it is a half away. -/
theorem roundedMagnitude_error (num : Nat) {den : Nat} (h : 0 < den) :
    2 * ((roundedMagnitude num den : Int) * den - num).natAbs ≤ den ∧
      (2 * ((roundedMagnitude num den : Int) * den - num).natAbs = den →
        num < roundedMagnitude num den * den) := by
  obtain ⟨hlow, hhigh⟩ := roundedMagnitude_bounds num h
  rw [← Int.natCast_mul]
  omega

theorem roundHalfAway_natCast (num : Nat) {den : Nat} (h : 0 < den) :
    roundHalfAway num den = roundedMagnitude num den := by
  cases num with
  | zero =>
    have hzero : roundedMagnitude 0 den = 0 := Nat.div_eq_of_lt (by omega)
    rw [hzero]
    simp [roundHalfAway]
  | succ m =>
    have hsign : ((m + 1 : Nat) : Int).sign = 1 := Int.sign_natCast_add_one m
    rw [roundHalfAway, hsign, one_mul, Int.natAbs_natCast, roundedMagnitude]

/-- Rounding treats both signs alike. -/
theorem roundHalfAway_neg (num : Int) (den : Nat) :
    roundHalfAway (-num) den = -roundHalfAway num den := by
  rw [roundHalfAway, roundHalfAway, Int.sign_neg, Int.natAbs_neg, Int.neg_mul]

/-! ## The record and the horizon of a window end -/

/-- The slip horizon of a window that ends now, or none (R78). -/
def Window.horizon (w : Window) : Option Nat :=
  windowHorizon w.endRecord.flags w.endRecord.offset w.accumulation.endFill
    w.accumulation.endLow w.accumulation.endHigh

/-- The window unit as a window end leaves it (R75, R82). -/
def Window.ended (w : Window) : Window :=
  { w with counter := 0, index := w.endRecord.index, record := w.endRecord }.afterEnd

theorem horizonFrames_eq (q : Int) (endFill tLow tHigh : Nat) :
    horizonFrames q endFill tLow tHigh =
      (if 0 < q then tHigh - endFill else endFill - tLow) * 31250 / q.natAbs := by
  unfold horizonFrames
  split <;> rfl

/-- The horizon is not computed for an INCOMPLETE window, with no fill seen, or with q = 0 (R78). -/
theorem Window.horizon_eq (w : Window) :
    w.horizon =
      if w.accumulation.notRunningSeen = true ∨ w.accumulation.runningSeen = false ∨
          w.endRecord.offset = 0 then none
      else some (min (horizonFrames w.endRecord.offset w.accumulation.endFill w.accumulation.endLow
        w.accumulation.endHigh) 0xFFFFFFFE) := by
  have hincomplete : w.endRecord.flags.incomplete = w.accumulation.notRunningSeen := rfl
  have hnoFill : w.endRecord.flags.noFill = !w.accumulation.runningSeen := rfl
  rw [Window.horizon, windowHorizon, hincomplete, hnoFill]
  simp only [Bool.or_eq_true, Bool.not_eq_true', beq_iff_eq, or_assoc]

/-- The flags at the bit positions of line report word 34, as one sum (section 9.8). -/
theorem pack_flagFields (f : WindowFlags) :
    pack (flagFields f) = word (32768 * bit f.incomplete + 16384 * bit f.noFill
      + 8192 * bit f.refNotLocked + 4096 * bit f.saturated) := by
  simp [pack, flagFields, Nat.mul_comm]

/-! ## What follows a window end -/

/-- The length of the next window, as the staged settings give it (R68). -/
def Window.nextLength (w : Window) : Nat :=
  match w.staged with
  | some x => x.1
  | none => w.length

theorem Window.adopt_eq (w : Window) :
    w.adopt = { w with length := w.nextLength, mode := w.nextMode, staged := none } := by
  obtain ⟨_, _, _, _, _, staged, _, _, _, _, _⟩ := w
  cases staged <;> rfl

/-- The staged values come into force, and the mode then in force reloads the window or stops it
(R75, R82). -/
theorem Window.afterEnd_eq (w : Window) :
    w.afterEnd =
      let next := { w with length := w.nextLength, mode := w.nextMode, staged := none }
      match w.nextMode with
      | .continuous => next.start
      | .single => { next with counting := false, counter := 0 } := by
  rw [Window.afterEnd, w.adopt_eq] <;> rfl

/-! ## The reports of a window end -/

section
variable (s : State) (n : LineNo)

/-- WINDOW_DONE where REPORT_WINDOWS is ON (R81). -/
def State.reportWindow (w : Window) : State :=
  if w.reportWindows then s.postLine .windowDone n (windowDoneDetail w.endRecord) else s

/-- SLIP_FORECAST where the horizon falls short of the limit (R79). -/
def State.reportForecast (w : Window) : State :=
  if forecastDue w.horizon w.horizonLimit then
    s.postLine .slipForecast n (forecastDetail w.endRecord w.accumulation w.horizonLimit)
  else s

theorem State.reportWindow_modLine (w : Window) (f : Line → Line) :
    (s.modLine n f).reportWindow n w = (s.reportWindow n w).modLine n f := by
  unfold State.reportWindow
  split
  · exact s.post_modLine _ _ _ n f
  · rfl

theorem State.reportForecast_modLine (w : Window) (f : Line → Line) :
    (s.modLine n f).reportForecast n w = (s.reportForecast n w).modLine n f := by
  unfold State.reportForecast
  split
  · exact s.post_modLine _ _ _ n f
  · rfl

/-- A window end is the window it leaves and then its reports: no report reads the line, so the reload
or stop that follows the reports (R75) may come before them. -/
theorem State.endWindow_eq :
    s.endWindow n =
      (((s.setLine n { s.line n with window := (s.line n).window.ended }).reportWindow n
        (s.line n).window).reportForecast n (s.line n).window) := by
  have hwritten : s.endWindow n = (((s.modLine n fun l => { l with window :=
      { l.window with
        counter := 0
        index := (s.line n).window.endRecord.index
        record := (s.line n).window.endRecord } }).reportWindow n
      (s.line n).window).reportForecast n (s.line n).window).modLine n
        fun l => { l with window := l.window.afterEnd } := rfl
  rw [hwritten, ← State.reportForecast_modLine, ← State.reportWindow_modLine,
    State.modLine_modLine]
  rfl

end

/-- SLIP_FORECAST by the horizon: none is no report, and one that falls short of a limit other than 0
is reported (R79). -/
theorem State.reportForecast_eq (s : State) (n : LineNo) (w : Window) :
    s.reportForecast n w =
      match w.horizon with
      | some h =>
        if w.horizonLimit ≠ 0 ∧ h < 8000 * w.horizonLimit then
          s.postLine .slipForecast n (forecastDetail w.endRecord w.accumulation w.horizonLimit)
        else s
      | none => s := by
  unfold State.reportForecast
  cases w.horizon with
  | none => rfl
  | some h => simp [forecastDue]

end Sys2Proof.Machine
end

section
/-!
PROOFS. Rounding, and the end of a window.
-/
namespace Sys2Proof.Proofs

open Sys2Proof.Machine

/-- Settles O16: both signs come to the bounds of the magnitude. -/
theorem roundingIsToNearestHalfAwayFromZero :
    Obligations.RoundingIsToNearestHalfAwayFromZero := by
  unfold Obligations.RoundingIsToNearestHalfAwayFromZero
  intro num den hden
  obtain ⟨m, rfl | rfl⟩ := num.eq_nat_or_neg
  · rw [roundHalfAway_natCast m hden]
    exact roundedMagnitude_error m hden
  · have hdiff : -(roundedMagnitude m den : Int) * den - -m =
        -((roundedMagnitude m den : Int) * den - m) := by ring
    rw [roundHalfAway_neg, roundHalfAway_natCast m hden]
    simp only [hdiff, Int.natAbs_neg]
    exact roundedMagnitude_error m hden

/-- Settles O33: the window end is the window it leaves and then its reports, and the record, the
horizon and the window that follows are those of the statement. -/
theorem windowEndRecordsAndReports : Obligations.WindowEndRecordsAndReports := by
  unfold Obligations.WindowEndRecordsAndReports
  intro n s hs l w a rounded q frames horizon code record length mode ended after flags s1 s2 hc
  have hhorizon : w.horizon = horizon := by
    rw [w.horizon_eq, horizonFrames_eq]
    rfl
  have hrecord : w.endRecord = record := by
    have hcode : horizonCode w.horizon = code := by rw [hhorizon]; rfl
    show { w.endRecord with horizon := horizonCode w.horizon } = record
    rw [hcode]
    rfl
  have hafter : w.ended = after := by
    rw [Window.ended, Window.afterEnd_eq, Window.nextMode_eq, hrecord]
    rfl
  have hdone : windowDoneDetail w.endRecord =
      [record.index, word w.length, signedWord q, word record.minFill, word record.maxFill,
        word flags, highHalf code, lowHalf code] := by
    rw [windowDoneDetail, pack_flagFields, hrecord]
    rfl
  have hreported : s1.reportWindow n w = s2 := by
    rw [State.reportWindow, hdone]
    rfl
  have hend : s.endWindow n = s2.reportForecast n w := by
    rw [← hreported, s.endWindow_eq n]
    show ((s.setLine n { l with window := w.ended }).reportWindow n w).reportForecast n w = _
    rw [hafter]
  rw [exec_windowEnd_of_counting s n hs hc, hend, State.reportForecast_eq, hhorizon, hrecord]
  rfl

end Sys2Proof.Proofs
end

section
/-!
SUPPORT. The selector: its next state by the rules of R93, the timing unit after a change of its state,
and the state after the change.
-/
namespace Sys2Proof.Machine

theorem otherBus_ne (x : Bus) : otherBus x ≠ x := by cases x <;> decide

/-- There are two buses: the one that is not x is the other. -/
theorem eq_otherBus_of_ne {x y : Bus} (h : x ≠ y) : y = otherBus x := by
  revert h
  cases x <;> cases y <;> decide

section
variable (t : Timing)

/-! ## The next state -/

theorem Timing.isGood_iff (x : Bus) : t.isGood x = true ↔ (t.bus x).state = .good := by
  simp [Timing.isGood]

/-- A revert is called for on the bus that is not preferred, by the settings, the revert count and the
preferred bus's state (R94). -/
theorem Timing.revertDue_iff {x : Bus} (hf : t.settings.force = .none) (hl : t.holdLatch = false)
    (hx : t.selector = .on x) :
    t.revertDue = true ↔ x ≠ t.settings.preferred ∧ t.settings.revertive = true ∧
      t.settings.revertDelay ≤ t.revertCount ∧ t.isGood t.settings.preferred = true := by
  have hother : x = otherBus t.settings.preferred ↔ x ≠ t.settings.preferred :=
    ⟨fun h => h ▸ otherBus_ne _, fun h => eq_otherBus_of_ne h.symm⟩
  rw [← hother]
  simp [Timing.revertDue, hf, hl, hx, and_assoc]

/-- Rule 1: the hold latch. -/
theorem Timing.nextSelector_of_latch (h : t.holdLatch = true) : t.nextSelector = .holdover := by
  rw [Timing.nextSelector, if_pos h]

/-- Rule 2: forced to HOLDOVER. -/
theorem Timing.nextSelector_of_force_holdover (h : t.settings.force = .holdover) :
    t.nextSelector = .holdover := by
  simp [Timing.nextSelector, h]

/-- Rules 3 to 5: forced to a bus. -/
theorem Timing.nextSelector_of_force_bus {x : Bus} (hl : t.holdLatch = false)
    (h : t.settings.force = .bus x) :
    t.nextSelector = if t.isGood x then .on x else if t.selector = .free then .free else .holdover := by
  rw [Timing.nextSelector, if_neg (by simp [hl]), h]
  cases t.selector <;> simp

section
variable (hf : t.settings.force = .none) (hl : t.holdLatch = false)
include hf hl

/-- Rules 6 to 8: on a bus, under no force. -/
theorem Timing.nextSelector_of_on {x : Bus} (hx : t.selector = .on x) :
    t.nextSelector =
      if t.isGood x then (if t.revertDue then .on t.settings.preferred else .on x)
      else if t.isGood (otherBus x) then .on (otherBus x) else .holdover := by
  rw [Timing.nextSelector, if_neg (by simp [hl]), hf, hx]

/-- Rules 9 to 11: on no bus, under no force. -/
theorem Timing.nextSelector_of_off (hx : t.selector = .free ∨ t.selector = .holdover) :
    t.nextSelector =
      if t.isGood t.settings.preferred then .on t.settings.preferred
      else if t.isGood (otherBus t.settings.preferred) then .on (otherBus t.settings.preferred)
      else t.selector := by
  rw [Timing.nextSelector, if_neg (by simp [hl]), hf]
  cases hp : t.isGood t.settings.preferred <;>
    cases ho : t.isGood (otherBus t.settings.preferred) <;>
    rcases hx with hx | hx <;> simp [hx, Timing.takenBus, hp, ho]

end

/-- The selector goes to a bus only while that bus is GOOD and the hold latch is clear (R93). -/
theorem Timing.nextSelector_on {x : Bus} (h : t.nextSelector = .on x) :
    (t.bus x).state = .good ∧ t.holdLatch = false := by
  rw [← Timing.isGood_iff]
  cases hl : t.holdLatch with
  | true => rw [t.nextSelector_of_latch hl] at h; cases h
  | false =>
    refine ⟨?_, rfl⟩
    cases hf : t.settings.force with
    | holdover => rw [t.nextSelector_of_force_holdover hf] at h; cases h
    | bus y =>
      rw [t.nextSelector_of_force_bus hl hf] at h
      split at h
      · next hy => cases h; exact hy
      · split at h <;> cases h
    | none =>
      cases hs : t.selector with
      | on y =>
        rw [t.nextSelector_of_on hf hl hs] at h
        split at h
        · next hy =>
          split at h
          · next hr => cases h; exact ((t.revertDue_iff hf hl hs).mp hr).2.2.2
          · cases h; exact hy
        · split at h
          · next hy => cases h; exact hy
          · cases h
      | free | holdover =>
        rw [t.nextSelector_of_off hf hl (by simp [hs]), hs] at h
        split at h
        · next hy => cases h; exact hy
        · split at h
          · next hy => cases h; exact hy
          · cases h

/-! ## A change of state -/

/-- Active throughout is cleared for the bus left, and nothing else changes (R102). -/
theorem Timing.leave_eq :
    t.leave = { t with
      busA := if t.selector = .on .a then { t.busA with activeThroughout := false } else t.busA
      busB := if t.selector = .on .b then { t.busB with activeThroughout := false } else t.busB } := by
  rcases h : t.selector with _ | (_ | _) | _ <;> cases t <;> cases h <;> rfl

theorem Timing.leave_flywheel (x : Bus) : (t.leave.bus x).flywheel = (t.bus x).flywheel := by
  rw [Timing.leave_eq]
  cases x <;> exact apply_ite BusMonitor.flywheel _ _ _ |>.trans (ite_self _)

/-- The timing unit after a change of selector state, item by item (R97, R99 to R102). -/
theorem Timing.switch_eq (new : SelectorState) :
    t.switch new = { t with
      selector := new
      switchCount := t.switchCount + 1
      realignPending := false
      phase := if 320 ≤ t.phase then 0 else t.phase
      busA := if t.selector = .on .a then { t.busA with activeThroughout := false } else t.busA
      busB := if t.selector = .on .b then { t.busB with activeThroughout := false } else t.busB
      buildOut := match new with
        | .on x => ((t.bus x).flywheel.getD 0 + 320 - if 320 ≤ t.phase then 0 else t.phase) % 320
        | .free | .holdover => t.buildOut
      busTimed := match new with
        | .on _ => t.busTimed
        | .free | .holdover => false
      ncoStep := match new with
        | .on _ => t.ncoStep
        | .free | .holdover => holdoverStep t.hv
      ncoAccumulator := match new with
        | .on _ => t.ncoAccumulator
        | .free | .holdover => 0 } := by
  cases new with
  | on x =>
    simp only [← t.leave_flywheel x]
    rw [Timing.switch, Timing.leave_eq]
    cases x <;> rfl
  | free => rw [Timing.switch, Timing.leave_eq]
  | holdover => rw [Timing.switch, Timing.leave_eq]

theorem Timing.switch_bus (new : SelectorState) (x : Bus) :
    (t.switch new).bus x =
      if t.selector = .on x then { t.bus x with activeThroughout := false } else t.bus x := by
  rw [Timing.switch_eq]
  cases x <;> rfl

/-- A bus is no better or worse for a change of selector state. -/
theorem Timing.switch_bus_state (new : SelectorState) (x : Bus) :
    ((t.switch new).bus x).state = (t.bus x).state := by
  rw [Timing.switch_bus]
  split <;> rfl

@[simp] theorem Timing.switch_selector (new : SelectorState) : (t.switch new).selector = new := by
  rw [Timing.switch_eq]

@[simp] theorem Timing.switch_holdLatch (new : SelectorState) :
    (t.switch new).holdLatch = t.holdLatch := by
  rw [Timing.switch_eq]

end

section
variable (s : State)

/-- The timing unit after a change of selector state: the switch, and the tick that closes a lengthened
frame (R97, R100). -/
theorem State.changeSelector_timing (new : SelectorState) (cause : SelectorCause) :
    (s.changeSelector new cause).timing =
      if 320 ≤ s.timing.phase then (s.timing.switch new).tick else s.timing.switch new := by
  rw [s.changeSelector_eq]
  split <;> simp

/-- The selector is in its next state once it has taken it (R93). -/
theorem State.takeSelector_selector (cause : SelectorCause) :
    (s.takeSelector cause).timing.selector = s.timing.nextSelector := by
  by_cases h : s.timing.nextSelector = s.timing.selector
  · rw [s.takeSelector_of_eq h, h]
  · rw [s.takeSelector_of_ne h, State.changeSelector_timing]
    split
    · exact s.timing.switch_selector _
    · exact s.timing.switch_selector _

theorem State.takeSelector_holdLatch (cause : SelectorCause) :
    (s.takeSelector cause).timing.holdLatch = s.timing.holdLatch := by
  by_cases h : s.timing.nextSelector = s.timing.selector
  · rw [s.takeSelector_of_eq h]
  · rw [s.takeSelector_of_ne h, State.changeSelector_timing]
    split
    · exact s.timing.switch_holdLatch _
    · exact s.timing.switch_holdLatch _

end

end Sys2Proof.Machine
end

section
/-!
SUPPORT. What leaves the office timing sound (R93, R102, R103): the timing unit's own operations, one
lemma each, and every other block, which leaves the office timing alone.
-/
namespace Sys2Proof.Machine

/-- From t to u the office timing stays sound: u meets each of the two promises that t meets. -/
structure Timing.StaysSound (t u : Timing) : Prop where
  followsGoodBus : t.followsGoodBus → u.followsGoodBus
  holdoverComputed : t.holdoverComputed → u.holdoverComputed

/-! ## The timing unit by itself -/

section
variable {t u v : Timing}

theorem Timing.StaysSound.refl (t : Timing) : t.StaysSound t := ⟨id, id⟩

theorem Timing.StaysSound.trans (h : t.StaysSound u) (k : u.StaysSound v) : t.StaysSound v :=
  ⟨k.followsGoodBus ∘ h.followsGoodBus, k.holdoverComputed ∘ h.holdoverComputed⟩

theorem Timing.StaysSound.of_eq (h : u = t) : t.StaysSound u := h ▸ .refl t

/-- The office timing is as sound as before where the selector, the latch, the monitors' states and the
holdover values are those of before. -/
theorem Timing.StaysSound.of_kept (hs : u.selector = t.selector) (hl : u.holdLatch = t.holdLatch)
    (hb : ∀ x, (u.bus x).state = (t.bus x).state) (hh : u.history = t.history) (hv : u.hv = t.hv)
    (hn : u.ncoStep = t.ncoStep) : t.StaysSound u := by
  refine ⟨fun h x hx => ?_, fun h => ?_⟩
  · rw [hb, hl]
    exact h x (hs ▸ hx)
  · unfold Timing.holdoverComputed
    rwa [hh, hv, hn]

theorem Timing.setBus_bus_state {x : Bus} {m : BusMonitor} (h : m.state = (t.bus x).state) (y : Bus) :
    ((t.setBus x m).bus y).state = (t.bus y).state := by
  by_cases hy : y = x
  · subst hy
    rw [Timing.setBus_bus_same, h]
  · rw [Timing.setBus_bus_ne _ hy]

/-- A change inside a monitor other than of its state. -/
theorem Timing.setBus_staysSound {x : Bus} {m : BusMonitor} (h : m.state = (t.bus x).state) :
    t.StaysSound (t.setBus x m) :=
  .of_kept (by simp) (by simp) (Timing.setBus_bus_state h) (by simp) (by simp) (by simp)

theorem Timing.tick_staysSound (t : Timing) : t.StaysSound t.tick :=
  .of_kept rfl rfl (fun x => by cases x <;> rfl) rfl rfl rfl

theorem Timing.configure_staysSound (t : Timing) (c : TimingSettings) : t.StaysSound (t.configure c) :=
  .of_kept rfl rfl (fun x => by cases x <;> rfl) rfl rfl rfl

/-- The holdover values of a history of at most four are those it gives (R102, R103). -/
theorem Timing.withHistory_staysSound {l : List Int} (h : t.history.length ≤ 4 → l.length ≤ 4) :
    t.StaysSound (t.withHistory l) := by
  refine ⟨fun k x hx => ?_, fun k => ⟨h k.1, rfl, rfl⟩⟩
  have hstate : ((t.withHistory l).bus x).state = (t.bus x).state := by cases x <;> rfl
  rw [hstate]
  exact k x hx

/-- A fifth value drops the oldest (R102). -/
theorem joinHistory_length (l : List Int) (x : Int) (h : l.length ≤ 4) :
    (joinHistory l x).length ≤ 4 := by
  unfold joinHistory
  split <;> simp <;> omega

/-- A change of selector state keeps the holdover values: for FREE and HOLDOVER the step is the one that
hv gives (R97, R103). -/
theorem Timing.switch_holdoverComputed (h : t.holdoverComputed) (new : SelectorState) :
    (t.switch new).holdoverComputed := by
  obtain ⟨hlength, hhv, hstep⟩ := h
  rw [Timing.switch_eq]
  cases new with
  | on x => exact ⟨hlength, hhv, hstep⟩
  | free => exact ⟨hlength, hhv, rfl⟩
  | holdover => exact ⟨hlength, hhv, rfl⟩

/-- In its next state the selector follows a GOOD bus only, whatever it did before (R93). -/
theorem Timing.switch_followsGoodBus (t : Timing) : (t.switch t.nextSelector).followsGoodBus := by
  intro x hx
  rw [Timing.switch_bus_state, Timing.switch_holdLatch]
  exact t.nextSelector_on ((t.switch_selector _).symm.trans hx)

end

/-! ## The operations of the timing unit -/

section
variable (s : State)

/-- Steps that each leave it sound leave it sound together. -/
theorem State.foldl_staysSound {β : Type} (f : State → β → State)
    (h : ∀ (s : State) b, s.timing.StaysSound (f s b).timing) (l : List β) (s : State) :
    s.timing.StaysSound (l.foldl f s).timing := by
  induction l generalizing s with
  | nil => exact .refl _
  | cons b l ih => exact (h s b).trans (ih _)

theorem State.Quiet.staysSound {s t : State} (h : s.Quiet t) : s.timing.StaysSound t.timing :=
  .of_eq h.timing

theorem Timing.StaysSound.ite {t : Timing} {s u : State} (c : Prop) [Decidable c]
    (hs : t.StaysSound s.timing) (hu : t.StaysSound u.timing) :
    t.StaysSound (if c then s else u).timing := by split <;> assumption

/-- Once the selector has taken its next state the timing follows a GOOD bus only, whatever stood before
(R93). -/
theorem State.takeSelector_followsGoodBus (cause : SelectorCause) :
    (s.takeSelector cause).timing.followsGoodBus := by
  by_cases h : s.timing.nextSelector = s.timing.selector
  · rw [s.takeSelector_of_eq h]
    exact fun x hx => s.timing.nextSelector_on (h.trans hx)
  · rw [s.takeSelector_of_ne h, State.changeSelector_timing]
    split
    · exact (Timing.tick_staysSound _).followsGoodBus s.timing.switch_followsGoodBus
    · exact s.timing.switch_followsGoodBus

theorem State.takeSelector_holdoverComputed (h : s.timing.holdoverComputed) (cause : SelectorCause) :
    (s.takeSelector cause).timing.holdoverComputed := by
  by_cases hn : s.timing.nextSelector = s.timing.selector
  · rw [s.takeSelector_of_eq hn]
    exact h
  · rw [s.takeSelector_of_ne hn, State.changeSelector_timing]
    split
    · exact (Timing.tick_staysSound _).holdoverComputed (Timing.switch_holdoverComputed h _)
    · exact Timing.switch_holdoverComputed h _

/-- After a change that leaves the holdover values alone the selector's next state makes the timing
sound, though the change may have taken the bus away or set the latch (R93). -/
theorem State.takeSelector_staysSound {t : Timing}
    (h : t.holdoverComputed → s.timing.holdoverComputed) (cause : SelectorCause) :
    t.StaysSound (s.takeSelector cause).timing :=
  ⟨fun _ => s.takeSelector_followsGoodBus cause, fun k => s.takeSelector_holdoverComputed (h k) cause⟩

theorem State.modBus_staysSound {x : Bus} {f : BusMonitor → BusMonitor}
    (h : (f (s.timing.bus x)).state = (s.timing.bus x).state) :
    s.timing.StaysSound (s.modBus x f).timing := Timing.setBus_staysSound h

theorem State.changeBus_staysSound (x : Bus) (new : MonitorState) (cause : BusCause) :
    s.timing.StaysSound (s.changeBus x new cause).timing := by
  unfold State.changeBus
  refine State.takeSelector_staysSound _ (fun h => ?_) _
  unfold Timing.holdoverComputed
  split <;> simpa using h

theorem State.judgeFrame_staysSound (x : Bus) (good : Bool) :
    s.timing.StaysSound (s.judgeFrame x good).timing := by
  unfold State.judgeFrame
  dsimp only
  split
  · exact .ite _ (s.modBus_staysSound rfl)
      (.ite _ (s.changeBus_staysSound x _ _) (s.modBus_staysSound rfl))
  all_goals
    exact .ite _ (.ite _ (s.changeBus_staysSound x _ _) (s.modBus_staysSound rfl))
      (s.modBus_staysSound rfl)

theorem State.loseClock_staysSound (x : Bus) : s.timing.StaysSound (s.loseClock x).timing := by
  unfold State.loseClock
  dsimp only
  split
  · exact s.modBus_staysSound rfl
  all_goals exact (s.modBus_staysSound rfl).trans (State.changeBus_staysSound _ x _ _)

theorem State.beginTimingWindow_staysSound (x : Bus) :
    s.timing.StaysSound (s.beginTimingWindow x).timing := s.modBus_staysSound rfl

/-- An in-limit window of a GOOD bus may join its offset to the history (R102). -/
theorem Timing.creditWindow_staysSound (t : Timing) (x : Bus) (offset : Int) :
    t.StaysSound (t.creditWindow x offset) := by
  have hcount : t.StaysSound (if x = t.settings.preferred then
      { t with revertCount := satAdd 255 t.revertCount 1 } else t) := by
    split
    · exact .of_kept rfl rfl (fun y => by cases y <;> rfl) rfl rfl rfl
    · exact .refl t
  unfold Timing.creditWindow
  dsimp only
  refine hcount.trans ?_
  generalize (if x = t.settings.preferred then
    { t with revertCount := satAdd 255 t.revertCount 1 } else t) = counted
  split
  · exact Timing.withHistory_staysSound (joinHistory_length _ _)
  · exact .refl _

theorem State.endTimingWindow_staysSound (x : Bus) (cycles : Nat) :
    s.timing.StaysSound (s.endTimingWindow x cycles).timing := by
  have hlast : ∀ offset, s.timing.StaysSound (s.modBus x fun m => { m with lastX := offset }).timing :=
    fun offset => s.modBus_staysSound rfl
  unfold State.endTimingWindow
  refine Timing.StaysSound.trans ?_ (State.beginTimingWindow_staysSound _ x)
  dsimp only
  split
  · have hcredit : s.timing.StaysSound ((s.modBus x fun m => { m with lastX := busOffset cycles }).modTiming
        fun t => t.creditWindow x (busOffset cycles)).timing :=
      (hlast _).trans (Timing.creditWindow_staysSound _ x _)
    refine .ite _ (.ite _ (hcredit.trans (State.takeSelector_staysSound _ id _)) hcredit) ?_
    exact (hlast _).trans (State.changeBus_staysSound _ x _ _)
  all_goals
    refine .ite _ (.ite _ ?_ ?_) ?_
    · exact (hlast _).trans (State.changeBus_staysSound _ x _ _)
    · exact (hlast _).trans (State.modBus_staysSound _ rfl)
    · exact (hlast _).trans (State.modBus_staysSound _ rfl)

theorem State.countEdge_staysSound (x : Bus) : s.timing.StaysSound (s.countEdge x).timing := by
  unfold State.countEdge
  split
  · exact s.beginTimingWindow_staysSound x
  · exact .ite _ (s.endTimingWindow_staysSound x _) (s.modBus_staysSound rfl)

/-- No edge of the bus clock changes a monitor's state by itself (R87). -/
theorem BusMonitor.edge_state (m : BusMonitor) (pulse : Bool) : (m.edge pulse).1.state = m.state := by
  unfold BusMonitor.edge
  dsimp only
  split
  · split <;> rfl
  · split
    · rfl
    · split
      · split <;> simp_all
      · rfl

/-! ## Office bits -/

theorem State.tick_staysSound : s.timing.StaysSound s.tick.timing := by
  rw [State.tick_timing]
  exact s.timing.tick_staysSound

/-- φ, Bo and a pending REALIGN are no part of what makes the timing sound. -/
theorem State.modPhase_staysSound {f : Timing → Timing}
    (h : ∀ t, ∃ phase buildOut pending, f t =
      { t with phase := phase, buildOut := buildOut, realignPending := pending }) :
    s.timing.StaysSound (s.modTiming f).timing := by
  obtain ⟨phase, buildOut, pending, hf⟩ := h s.timing
  rw [State.modTiming_timing, hf]
  exact .of_kept rfl rfl (fun x => by cases x <;> rfl) rfl rfl rfl

theorem State.wrapPhase_staysSound : s.timing.StaysSound s.wrapPhase.timing :=
  .ite _ ((s.modPhase_staysSound fun _ => ⟨_, _, _, rfl⟩).trans
      (State.sendOctets_quiet _).staysSound)
    ((s.modPhase_staysSound fun _ => ⟨_, _, _, rfl⟩).trans (State.tick_staysSound _))

theorem State.closeRealign_staysSound : s.timing.StaysSound s.closeRealign.timing :=
  (s.modPhase_staysSound fun _ => ⟨_, _, _, rfl⟩).trans (State.tick_staysSound _)

theorem State.nextPhase_staysSound (p : Nat) : s.timing.StaysSound
    (s.modTiming fun t => { t with phase := p }).sendOctets.timing :=
  (s.modPhase_staysSound fun _ => ⟨_, _, _, rfl⟩).trans (State.sendOctets_quiet _).staysSound

theorem State.busBit_staysSound (fly : Nat) : s.timing.StaysSound (s.busBit fly).timing :=
  .ite _ (.ite _ s.closeRealign_staysSound (s.nextPhase_staysSound _))
    (.ite _ s.wrapPhase_staysSound (s.nextPhase_staysSound _))

theorem State.ncoBit_staysSound : s.timing.StaysSound s.ncoBit.timing :=
  .ite _ s.wrapPhase_staysSound (s.nextPhase_staysSound _)

theorem State.busEdge_staysSound (x : Bus) (pulse : Bool) :
    s.timing.StaysSound (s.busEdge x pulse).timing := by
  have hedge : s.timing.StaysSound (s.modBus x fun _ => ((s.timing.bus x).edge pulse).1).timing :=
    s.modBus_staysSound (BusMonitor.edge_state _ _)
  have hbit : s.timing.StaysSound (if s.timing.selector = .on x then
      (s.modBus x fun _ => ((s.timing.bus x).edge pulse).1).busBit
        (((s.timing.bus x).edge pulse).1.flywheel.getD 0)
      else s.modBus x fun _ => ((s.timing.bus x).edge pulse).1).timing :=
    .ite _ (hedge.trans (State.busBit_staysSound _ _)) hedge
  unfold State.busEdge
  refine Timing.StaysSound.trans ?_ (State.countEdge_staysSound _ x)
  split
  · exact hbit.trans (State.judgeFrame_staysSound _ x _)
  · exact hbit

theorem State.latchHold_staysSound : s.timing.StaysSound s.latchHold.timing :=
  .ite _ (.refl _) (State.takeSelector_staysSound _ (fun h => by simpa using h) _)

/-! ## Local cycles -/

theorem State.cycleBus_staysSound (x : Bus) : s.timing.StaysSound (s.cycleBus x).timing :=
  .ite _ ((s.modBus_staysSound rfl).trans (State.loseClock_staysSound _ x)) (s.modBus_staysSound rfl)

theorem State.cycleNco_staysSound : s.timing.StaysSound s.cycleNco.timing := by
  have hadd : ∀ a, s.timing.StaysSound (s.modTiming fun t => { t with ncoAccumulator := a }).timing :=
    fun a => .of_kept rfl rfl (fun x => by cases x <;> rfl) rfl rfl rfl
  unfold State.cycleNco
  split
  · exact .refl _
  all_goals exact .ite _ ((hadd _).trans (State.ncoBit_staysSound _)) (hadd _)

/-! ## Timing requests -/

theorem Timing.requested_holdoverComputed {t : Timing} (h : t.holdoverComputed) (q : TimingRequest) :
    (t.requested q).holdoverComputed := by
  have hconfigured := (t.configure_staysSound q.settings).holdoverComputed h
  have hcleared : (if q.hasClearHistory then (t.configure q.settings).withHistory []
      else t.configure q.settings).holdoverComputed := by
    split
    · exact (Timing.withHistory_staysSound (l := []) (by simp)).holdoverComputed hconfigured
    · exact hconfigured
  unfold Timing.requested
  dsimp only
  split
  · exact hcleared
  · exact hcleared

theorem State.pendRealign_staysSound : s.timing.StaysSound s.pendRealign.timing :=
  s.modPhase_staysSound fun _ => ⟨_, _, _, rfl⟩

theorem State.applyTiming_staysSound (q : TimingRequest) :
    s.timing.StaysSound (s.applyTiming q).timing := by
  have htaken : s.timing.StaysSound
      ((s.modTiming fun t => t.requested q).takeSelector (requestCause s.timing q)).timing :=
    State.takeSelector_staysSound _ (fun h => Timing.requested_holdoverComputed h q) _
  exact .ite _ (htaken.trans (State.pendRealign_staysSound _)) htaken

theorem State.clearHistory_staysSound : s.timing.StaysSound s.clearHistory.timing :=
  Timing.withHistory_staysSound (by simp)

theorem State.clearLatch_staysSound : s.timing.StaysSound s.clearLatch.timing := by
  unfold State.clearLatch
  refine State.takeSelector_staysSound _ (fun h => ?_) _
  exact h

end

end Sys2Proof.Machine
end

section
/-!
SUPPORT. The requests, the host port, the patrol and the restart: what leaves the office timing alone, and
what leaves it sound.
-/
namespace Sys2Proof.Machine

/-! ## Requests and actions that leave the office timing alone -/

section
variable (s : State)

theorem State.leaveService_quiet (n : LineNo) : s.Quiet (s.leaveService n) :=
  .ite _ (((s.modLine_quiet n _).trans (State.changeLine_quiet _ n _ _)).trans
    (State.coverLine_quiet _ n)) (.refl s)

theorem State.enterService_quiet (n : LineNo) : s.Quiet (s.enterService n) :=
  .ite _ (.refl s) ((s.modLine_quiet n _).trans (State.changeLine_quiet _ n _ _))

theorem State.restartLine_quiet (n : LineNo) : s.Quiet (s.restartLine n) := by
  unfold State.restartLine
  split
  · exact .refl s
  · exact s.setFramer_quiet n _
  all_goals exact (s.modLine_quiet n _).trans (State.changeLine_quiet _ n _ _)

theorem State.moveCoverage_quiet (n : LineNo) : s.Quiet (s.moveCoverage n) := by
  unfold State.moveCoverage
  split
  · exact .refl s
  · exact s.setCover_quiet n _

theorem State.changePlacement_quiet (n : LineNo) (p : Placement) : s.Quiet (s.changePlacement n p) := by
  unfold State.changePlacement
  refine State.Quiet.trans ?_ (State.settleSpare_quiet _)
  have hmoved := (s.modLine_quiet n fun l => { l with
    placement := p
    window := if l.state.inService then l.window.causeStart else l.window }).trans
      (State.moveCoverage_quiet _ n)
  split
  · exact hmoved.trans (State.refill_quiet _ n _)
  · exact hmoved.trans (State.refill_quiet _ n _)
  all_goals exact hmoved

theorem State.applyLineSettings_quiet (n : LineNo) (v : LineSettings) :
    s.Quiet (s.applyLineSettings n v) := by
  unfold State.applyLineSettings
  exact (State.Quiet.ite _ (s.modLine_quiet n _) ((s.modLine_quiet n _).trans
    (State.changePlacement_quiet _ n _))).trans (State.modLine_quiet _ n _)

/-- A line request leaves the control plane and the office timing alone (R12). -/
theorem State.applyLine_quiet (n : LineNo) (q : LineRequest) : s.Quiet (s.applyLine n q) := by
  have hmod : ∀ (c : Bool) (t : State) f, t.Quiet (if c = true then t.modLine n f else t) :=
    fun c t f => .ite _ (t.modLine_quiet n f) (.refl t)
  have hfirst : s.Quiet (if q.isOut then s.leaveService n
      else if q.hasRestart then s.restartLine n else s) :=
    .ite _ (s.leaveService_quiet n) (.ite _ (s.restartLine_quiet n) (.refl s))
  have hin : ∀ t : State, t.Quiet (if q.isIn then t.enterService n else t) :=
    fun t => .ite _ (t.enterService_quiet n) (.refl t)
  exact hfirst.trans <| (State.applyLineSettings_quiet _ n _).trans <| (hin _).trans <|
    (hmod _ _ _).trans <| (hmod _ _ _).trans (hmod _ _ _)

theorem State.clearBankCounts_quiet : s.Quiet s.clearBankCounts :=
  ⟨⟨rfl, rfl, rfl, rfl, rfl, rfl, rfl, rfl, rfl, rfl⟩, rfl⟩

/-- A store request leaves the control plane and the office timing alone (R123). -/
theorem State.applyStore_quiet (q : StoreRequest) : s.Quiet (s.applyStore q) := by
  have hclear : ∀ t : State, t.Quiet (if q.clearBankCounts = 1 then t.clearBankCounts else t) :=
    fun t => .ite _ t.clearBankCounts_quiet (.refl t)
  have hact : ∀ t : State, t.Quiet (if q.spareAction = 1 then t.takeSwap q.bank
      else if q.spareAction = 2 then t.takeReturn
      else if q.spareAction = 3 then t.takeCancel else t) :=
    fun t => .ite _ (t.takeSwap_quiet _) (.ite _ t.takeReturn_quiet (.ite _ t.takeCancel_quiet (.refl t)))
  exact (s.modSpare_quiet _).trans <| (hclear _).trans (hact _)

/-- A monitor request leaves the control plane and the office timing alone (R134). -/
theorem State.applyMonitor_quiet (m : MonitorNo) (q : MonitorRequest) : s.Quiet (s.applyMonitor m q) :=
  have hload : ∀ t : State, t.Quiet (if q.loadPreset = 1 then t.loadPreset m else t) :=
    fun t => .ite _ (t.loadPreset_quiet m) (.refl t)
  have hclear : ∀ t : State, t.Quiet (if q.clearOverflow = 1 then t.clearOverflow m else t) :=
    fun t => .ite _ (t.clearOverflow_quiet m) (.refl t)
  (s.setMonitor_quiet m _).trans <| (hload _).trans (hclear _)

theorem State.applyDirectory_timing (q : DirectoryRequest) : (s.applyDirectory q).timing = s.timing := by
  have hclear : ∀ (c : Prop) [Decidable c] (t : State),
      (if c then t.clearViolations else t).timing = t.timing :=
    fun c _ t => by split <;> rfl
  have hcounts : ∀ (c : Prop) [Decidable c] (t : State),
      (if c then t.clearUnposted else t).timing = t.timing :=
    fun c _ t => by split <;> rfl
  have hfreeze : ∀ (c : Prop) [Decidable c] (t : State),
      (if c then t.unfreeze else t).timing = t.timing :=
    fun c _ t => by split <;> [exact t.unfreeze_quiet.timing; rfl]
  exact (hfreeze _ _).trans <| (hcounts _ _).trans (hclear _ _)

/-- A request taken leaves the office timing as its refusal's report or its acceptance leaves it (R159). -/
theorem State.answerRequest_staysSound (r : Record) (serial : Word) (v : Verdict) {accepted : State}
    (h : s.timing.StaysSound accepted.timing) :
    s.timing.StaysSound (s.answerRequest r serial v accepted).timing := by
  unfold State.answerRequest
  split
  · exact (s.post_quiet _ _ _).staysSound
  · exact h

theorem State.takeRequest_staysSound (r : Record) (l : List Word) :
    s.timing.StaysSound (s.takeRequest r l).timing := by
  cases r with
  | directory => exact s.answerRequest_staysSound _ _ _ (.of_eq (s.applyDirectory_timing _))
  | timing => exact s.answerRequest_staysSound _ _ _ (s.applyTiming_staysSound _)
  | store => exact s.answerRequest_staysSound _ _ _ (s.applyStore_quiet _).staysSound
  | monitor m => exact s.answerRequest_staysSound _ _ _ (s.applyMonitor_quiet m _).staysSound
  | line n => exact s.answerRequest_staysSound _ _ _ (s.applyLine_quiet n _).staysSound

/-! ## The host port -/

@[simp] theorem State.offerBadWord_timing (offset : Nat) : (s.offerBadWord offset).timing = s.timing := by
  unfold State.offerBadWord
  split
  · rfl
  · split
    · simp
    · rfl

@[simp] theorem State.hostRead_timing (a : Nat) : (s.hostRead a).timing = s.timing := by
  unfold State.hostRead
  split
  · rfl
  · split
    · rfl
    all_goals split <;> rfl

@[simp] theorem State.refuseWrite_timing (a : Nat) : (s.refuseWrite a).timing = s.timing := by
  unfold State.refuseWrite
  rw [State.post_timing]
  rfl

@[simp] theorem State.compareTakeser_timing (i : Fin 128) : (s.compareTakeser i).timing = s.timing := by
  unfold State.compareTakeser
  dsimp only
  split <;> rfl

@[simp] theorem State.hostWrite_timing (a : Nat) (x : Word) : (s.hostWrite a x).timing = s.timing := by
  unfold State.hostWrite
  split
  · rfl
  · split
    · split
      · rw [State.compareTakeser_timing]
        rfl
      · rfl
    · exact s.refuseWrite_timing a
    · exact s.refuseWrite_timing a

theorem State.registerWrite_timing (t : State) :
    (s.registerWrite t).timing = if s.portClosed then s.timing else t.timing := by
  unfold State.registerWrite
  split <;> rfl

@[simp] theorem State.takePrompt_timing (x : Word) : (s.takePrompt x).timing = s.timing := by
  unfold State.takePrompt
  split
  · rfl
  · split
    · rfl
    · split <;> rfl

@[simp] theorem State.askRestart_timing : s.askRestart.timing = s.timing := by
  rw [State.askRestart_frame]

@[simp] theorem State.writeRegister_timing (reg : Fin 8) (data : Word) :
    (s.writeRegister reg data).timing = s.timing := by
  unfold State.writeRegister
  split
  · rw [State.registerWrite_timing]
    split
    · rfl
    · split <;> simp
  · rw [State.registerWrite_timing]
    exact ite_self _
  · rw [State.registerWrite_timing]
    exact ite_self _
  · rw [State.registerWrite_timing, State.takePrompt_timing, ite_self]
  · rfl

@[simp] theorem State.hostCycle_timing (c : HostCycle) : (s.hostCycle c).timing = s.timing := by
  cases c with
  | read a => exact s.hostRead_timing _
  | write a x => exact s.hostWrite_timing _ x
  | registerRead reg => rfl
  | registerWrite reg x => exact s.writeRegister_timing reg x
  | wait => rfl

@[simp] theorem State.goOn_timing : s.goOn.timing = s.timing := by
  rw [State.goOn_frame]
  rfl

@[simp] theorem State.drainPosts_timing : s.drainPosts.timing = s.timing := by
  rw [State.drainPosts_frame]
  rfl

/-! ## The patrol -/

/-- Steps that each leave the office timing alone leave it alone together. -/
theorem State.foldl_timing {β : Type} (f : State → β → State)
    (h : ∀ (s : State) b, (f s b).timing = s.timing) (l : List β) (s : State) :
    (l.foldl f s).timing = s.timing := by
  induction l generalizing s with
  | nil => rfl
  | cons b l ih => exact (ih _).trans (h s b)

@[simp] theorem State.hostBefore_timing (c : HostCycle) : (s.hostBefore c).timing = s.timing := by
  unfold State.hostBefore
  split <;> simp

@[simp] theorem State.serveBefore_timing (between : List (Nat × HostCycle)) (k : Nat) :
    (s.serveBefore between k).timing = s.timing :=
  State.foldl_timing (fun t (c : Nat × HostCycle) => t.hostBefore c.2)
    (fun t c => t.hostBefore_timing c.2) _ s

@[simp] theorem State.readRequest_timing (r : Record) (i : Nat) :
    (s.readRequest r i).1.timing = s.timing := by
  unfold State.readRequest
  split
  · exact s.offerBadWord_timing _
  · rfl
  · rfl

@[simp] theorem State.scrubWord_timing (a : Nat) : (s.scrubWord a).timing = s.timing := by
  unfold State.scrubWord
  split
  · rfl
  · rfl
  · split
    · exact s.offerBadWord_timing _
    · rfl
    · rfl

theorem State.scrubStage_timing (between : List (Nat × HostCycle)) (r : Record) (left k : Nat) :
    (s.scrubStage between r left k).1.timing = s.timing := by
  induction left generalizing s k with
  | zero => rfl
  | succ left ih =>
    unfold State.scrubStage
    dsimp only
    split
    · exact s.serveBefore_timing between k
    · rw [ih]
      simp

theorem State.writeStage_timing (between : List (Nat × HostCycle)) (r : Record)
    (l : List (Nat × Word)) (k : Nat) : (s.writeStage between r l k).1.timing = s.timing := by
  induction l generalizing s k with
  | nil => exact State.scrubStage_timing _ _ _ _ _
  | cons p l ih =>
    unfold State.writeStage
    dsimp only
    split
    · exact s.serveBefore_timing between k
    · rw [ih]
      simp

theorem State.actOn_staysSound (r : Record) (j : Judgement) :
    s.timing.StaysSound (s.actOn r j).timing := by
  cases j with
  | torn | old | poisonedSerial | poisonedField a i => exact .refl _
  | new l => exact s.takeRequest_staysSound r l

theorem State.judgeStage_staysSound (between : List (Nat × HostCycle)) (r : Record)
    (read : List (Option Word)) (k : Nat) :
    s.timing.StaysSound (s.judgeStage between r read k).1.timing := by
  unfold State.judgeStage
  dsimp only
  split
  · exact .of_eq (s.scrubStage_timing _ _ _ _)
  · rw [State.writeStage_timing]
    exact s.actOn_staysSound r _

theorem State.readStage_staysSound (between : List (Nat × HostCycle)) (r : Record)
    (read : List (Option Word)) (todo : List Nat) (k : Nat) :
    s.timing.StaysSound (s.readStage between r read todo k).1.timing := by
  induction todo generalizing s read k with
  | nil => exact s.judgeStage_staysSound between r read k
  | cons i rest ih =>
    unfold State.readStage
    dsimp only
    split
    · exact .of_eq (s.serveBefore_timing between k)
    · exact .trans (.of_eq (by simp)) (ih _ _ _)

theorem State.resumeStep_staysSound (between : List (Nat × HostCycle)) (k : Nat) :
    s.timing.StaysSound (s.resumeStep between k).1.timing := by
  unfold State.resumeStep
  split
  · exact .refl _
  · dsimp only
    split
    · exact State.readStage_staysSound (s.modPatrol fun p => { p with step := none }) _ _ _ _ _
    · exact .of_eq (State.writeStage_timing _ _ _ _ _)
    · exact .of_eq (State.scrubStage_timing _ _ _ _ _)

theorem State.beginStep_staysSound (between : List (Nat × HostCycle)) (k : Nat) :
    s.timing.StaysSound (s.beginStep between k).1.timing :=
  State.readStage_staysSound (s.modPatrol fun _ => { s.patrol.choose.2 with due := false, timer := 0 })
    _ _ _ _ _

theorem State.patrolWork_staysSound (between : List (Nat × HostCycle)) :
    s.timing.StaysSound (s.patrolWork between).1.timing := by
  unfold State.patrolWork
  dsimp only
  split
  · exact (s.resumeStep_staysSound between 0).trans (State.beginStep_staysSound _ between _)
  · exact s.resumeStep_staysSound between 0

/-! ## Restarts -/

/-- The start of a restart drops a REALIGN not begun, and of the office timing nothing else (R100). -/
theorem State.takeRestart_staysSound : s.timing.StaysSound s.takeRestart.timing := by
  have hserials : ∀ (l : List Record) (t : State), (l.foldl State.clearSerials t).timing = t.timing :=
    State.foldl_timing _ fun t r => by rw [State.clearSerials_frame]
  have hbefore : (((s.modJournal fun j => { j with kindMask := 0x7FFF }).forLines
      fun n t => t.modLine n Line.restarted).restartMonitors.clearJournalArea).timing = s.timing := by
    unfold State.clearJournalArea
    dsimp only
    rw [State.restartMonitors_frame, (State.forLines_modLine _ _).1]
    rfl
  unfold State.takeRestart
  dsimp only
  rw [hserials, State.modTiming_timing, hbefore]
  split
  · exact .of_kept rfl rfl (fun x => by cases x <;> rfl) rfl rfl rfl
  · exact .refl _

theorem State.finishStep_staysSound : s.timing.StaysSound s.finishStep.timing :=
  s.resumeStep_staysSound [] 0

theorem State.beginRestart_staysSound : s.timing.StaysSound s.beginRestart.timing :=
  .trans (.of_eq s.askRestart_timing) <|
    (State.finishStep_staysSound _).trans (State.takeRestart_staysSound _)

theorem State.settleRestart_staysSound (t : State) :
    t.timing.StaysSound (s.settleRestart t).timing :=
  .ite _ (t.finishStep_staysSound.trans (State.takeRestart_staysSound _)) (.refl _)

theorem State.serveAlone_staysSound (between : List (Nat × HostCycle)) (k : Nat) :
    s.timing.StaysSound (s.serveAlone between k).timing :=
  State.foldl_staysSound (fun t (c : Nat × HostCycle) => t.settleRestart (t.hostCycle c.2))
    (fun t c => .trans (.of_eq (t.hostCycle_timing c.2)) (t.settleRestart_staysSound _)) _ s

theorem State.patrolTurn_staysSound (between : List (Nat × HostCycle)) :
    s.timing.StaysSound (s.patrolTurn between).timing := by
  unfold State.patrolTurn
  split
  · exact (s.patrolWork_staysSound between).trans <|
      (State.settleRestart_staysSound _ _).trans (State.serveAlone_staysSound _ _ _)
  · exact s.serveAlone_staysSound between 0

@[simp] theorem State.dueStep_timing : s.dueStep.timing = s.timing := by
  unfold State.dueStep
  split <;> rfl

theorem State.patrolStep_staysSound (between : List (Nat × HostCycle)) :
    s.timing.StaysSound (s.patrolStep between).timing :=
  .trans (.of_eq s.dueStep_timing) (State.patrolTurn_staysSound _ between)

@[simp] theorem State.advancePatrol_timing : s.advancePatrol.timing = s.timing := by
  unfold State.advancePatrol
  dsimp only
  split <;> simp

theorem State.cyclePatrol_staysSound (between : List (Nat × HostCycle)) :
    s.timing.StaysSound (s.cyclePatrol between).timing :=
  .trans (.of_eq s.advancePatrol_timing) (State.patrolTurn_staysSound _ between)

theorem State.writeRestart_staysSound : s.timing.StaysSound s.writeRestart.timing := by
  unfold State.writeRestart
  rw [State.registerWrite_timing]
  split
  · exact .refl _
  · exact .ite _ s.beginRestart_staysSound (.refl _)

@[simp] theorem State.clearTakesers_timing : s.clearTakesers.timing = s.timing :=
  State.foldl_timing (fun t i => (t.memWrite (journalBase i + 2) 0).memWrite (journalBase i + 3) 0)
    (fun _ _ => rfl) _ s

/-- The end of a restart puts the default settings in force and lets the selector take its next state
(R107). -/
theorem State.endRestart_staysSound : s.timing.StaysSound s.endRestart.timing := by
  have htaken : s.timing.StaysSound (((s.modSpare Spare.restarted).modTiming fun t =>
      t.configure {}).takeSelector .settings).timing := by
    refine State.takeSelector_staysSound _ (fun h => ?_) _
    exact (s.timing.configure_staysSound {}).holdoverComputed h
  unfold State.endRestart
  dsimp only
  simpa using htaken

/-! ## Local cycles -/

theorem State.struck_timing (x : Strike) : (s.struck x).timing = s.timing := by cases x <;> rfl

theorem State.foldl_struck_timing (l : List Strike) : (l.foldl State.struck s).timing = s.timing :=
  State.foldl_timing _ State.struck_timing l s

theorem State.cycleClocks_staysSound (holdreq : Bool) (between : List (Nat × HostCycle)) :
    s.timing.StaysSound (s.cycleClocks holdreq between).timing := by
  have hlatch : s.timing.StaysSound (if holdreq then (s.setHoldreq holdreq).latchHold
      else s.setHoldreq holdreq).timing :=
    .ite _ (s.setHoldreq holdreq).latchHold_staysSound (.refl _)
  exact hlatch.trans <| (State.cycleBus_staysSound _ .a).trans <|
    (State.cycleBus_staysSound _ .b).trans <| (State.cycleNco_staysSound _).trans
      (State.cyclePatrol_staysSound _ between)

theorem State.localCycle_staysSound (holdreq : Bool) (strikes : List Strike) :
    s.timing.StaysSound (s.localCycle holdreq strikes).timing :=
  .trans (.of_eq (by rw [State.goOn_timing, State.foldl_struck_timing]))
    (State.cycleClocks_staysSound _ holdreq _)

theorem State.release_staysSound (holdreq : Bool) : s.timing.StaysSound (s.release holdreq).timing := by
  have hwritten : s.timing.StaysSound (State.memWriteAll
      { s with phase := .initialising, holdreq := holdreq, memory := [], slots := [] }
      identityWords).timing := .of_eq (by rw [State.memWriteAll_frame])
  exact .ite _ (hwritten.trans (State.latchHold_staysSound _)) hwritten

/-- The timing unit at full reset is sound (R107). -/
theorem Timing.reset_sound : ({} : Timing).followsGoodBus ∧ ({} : Timing).holdoverComputed :=
  ⟨nofun, by decide⟩

end

/-! ## The commands -/

section
variable {s t : State}

/-- A command taken while READY is 1 does what it does then, or nothing (R156). -/
theorem State.whenReady_staysSound {u : State} (h : s.timing.StaysSound u.timing)
    (he : s.whenReady u = .next t) : s.timing.StaysSound t.timing := by
  cases he
  exact .ite _ h (.refl _)

/-- Every command leaves the office timing sound. -/
theorem exec_staysSound (c : Instr) (he : exec c s = .next t) : s.timing.StaysSound t.timing := by
  cases c with
  | fullReset =>
    cases he
    exact ⟨fun _ => Timing.reset_sound.1, fun _ => Timing.reset_sound.2⟩
  | resetRelease holdreq =>
    cases he
    exact .ite _ (s.release_staysSound holdreq) (.refl _)
  | initialisationEnd =>
    cases he
    exact .ite _ (.refl _) (.refl _)
  | hostMemoryRead select addr =>
    cases he
    exact .ite _ (.refl _) (.of_eq (s.hostRead_timing _))
  | hostMemoryWrite addr data => cases he; exact .of_eq (s.hostWrite_timing _ _)
  | takeser slot low data => cases he; exact .of_eq (s.hostWrite_timing _ _)
  | protect addr data => cases he; exact .of_eq (s.hostWrite_timing _ _)
  | engineRestart => cases he; exact s.writeRestart_staysSound
  | engineRestartEnd =>
    cases he
    exact .ite _ s.endRestart_staysSound (.refl _)
  | attentionClear data => cases he; exact .of_eq (s.writeRegister_timing _ _)
  | maskWrite data => cases he; exact .of_eq (s.writeRegister_timing _ _)
  | prompt data => cases he; exact .of_eq (s.writeRegister_timing _ _)
  | registerWriteOther reg data =>
    cases he
    exact .ite _ s.writeRestart_staysSound (.of_eq (s.writeRegister_timing _ _))
  | holdLatch =>
    cases he
    exact .ite _ (s.setHoldreq true).latchHold_staysSound (.refl _)
  | busFrameJudged bus good =>
    cases he
    exact .ite _ (s.judgeFrame_staysSound bus good) (.refl _)
  | missingClock bus =>
    cases he
    exact .ite _ (s.loseClock_staysSound bus) (.refl _)
  | timingWindowEnd bus cycles =>
    cases he
    exact .ite _ (s.endTimingWindow_staysSound bus _) (.refl _)
  | officeTick =>
    cases he
    exact .ite _ s.wrapPhase_staysSound (.refl _)
  | realignComplete =>
    cases he
    exact .ite _ s.closeRealign_staysSound (.refl _)
  | busClockEdge bus pulse =>
    cases he
    exact .ite _ (s.busEdge_staysSound bus pulse) (.refl _)
  | localOscillatorCycle holdreq strikes =>
    cases he
    refine .ite _ (s.localCycle_staysSound holdreq strikes) ?_
    exact .trans (.of_eq (s.foldl_struck_timing strikes))
      (State.serveAlone_staysSound ((strikes.foldl State.struck s).setHoldreq holdreq) _ _)
  | dead n =>
    cases he
    refine .ite _ ?_ (.refl _)
    split
    · exact (s.enterDead_quiet n).staysSound
    · exact (s.enterDead_quiet n).staysSound
    · exact (s.enterDead_quiet n).staysSound
    all_goals exact .refl _
  | windowEnd n =>
    cases he
    exact .ite _ (s.endWindow_quiet n).staysSound (.refl _)
  | huntFind n octet =>
    cases he
    exact .ite _ ((s.recordOctet_quiet n octet).trans (State.setFramer_quiet _ n _)).staysSound (.refl _)
  | confirmCheck n octet =>
    cases he
    exact .ite _ ((s.recordOctet_quiet n octet).trans (State.confirmCheck_quiet _ n)).staysSound
      (.refl _)
  | lockedCheck n octet =>
    cases he
    exact .ite _ ((s.recordOctet_quiet n octet).trans (State.lockedCheck_quiet _ n)).staysSound
      (.refl _)
  | frameDelivery n payload tag =>
    cases he
    exact .ite _ (s.writeFrame_quiet n _ tag).staysSound (.refl _)
  | lineBitTaken n bit =>
    cases he
    exact .ite _ (s.takeBit_quiet n bit).staysSound (.refl _)
  | patrolStep between => cases he; exact s.patrolStep_staysSound between
  | lineRequest n req =>
    exact State.whenReady_staysSound
      (s.answerRequest_staysSound _ _ _ (s.applyLine_quiet n req).staysSound) he
  | serviceIn n =>
    exact State.whenReady_staysSound (.ite _ (s.enterService_quiet n).staysSound (.refl _)) he
  | serviceOut n => exact State.whenReady_staysSound (s.leaveService_quiet n).staysSound he
  | recentre n => exact State.whenReady_staysSound (s.modLine_quiet n _).staysSound he
  | restartLine n => exact State.whenReady_staysSound (s.restartLine_quiet n).staysSound he
  | armWindow n =>
    exact State.whenReady_staysSound (.ite _ (s.modLine_quiet n _).staysSound (.refl _)) he
  | clearCounts n => exact State.whenReady_staysSound (s.modLine_quiet n _).staysSound he
  | timingRequest req =>
    exact State.whenReady_staysSound
      (s.answerRequest_staysSound _ _ _ (s.applyTiming_staysSound req)) he
  | clearHistory => exact State.whenReady_staysSound s.clearHistory_staysSound he
  | clearHoldLatch => exact State.whenReady_staysSound (.ite _ s.clearLatch_staysSound (.refl _)) he
  | realign => exact State.whenReady_staysSound (.ite _ s.pendRealign_staysSound (.refl _)) he
  | storeRequest req =>
    exact State.whenReady_staysSound
      (s.answerRequest_staysSound _ _ _ (s.applyStore_quiet req).staysSound) he
  | clearBankCounts => exact State.whenReady_staysSound s.clearBankCounts_quiet.staysSound he
  | swap bank => exact State.whenReady_staysSound (s.takeSwap_quiet bank).staysSound he
  | returnBank => exact State.whenReady_staysSound s.takeReturn_quiet.staysSound he
  | cancel => exact State.whenReady_staysSound s.takeCancel_quiet.staysSound he
  | monitorRequest m req =>
    exact State.whenReady_staysSound
      (s.answerRequest_staysSound _ _ _ (s.applyMonitor_quiet m req).staysSound) he
  | loadPreset m => exact State.whenReady_staysSound (s.loadPreset_quiet m).staysSound he
  | clearOverflow m => exact State.whenReady_staysSound (s.clearOverflow_quiet m).staysSound he
  | directoryRequest req =>
    exact State.whenReady_staysSound
      (s.answerRequest_staysSound _ _ _ (.of_eq (s.applyDirectory_timing req))) he
  | clearViolations =>
    exact State.whenReady_staysSound (u := s.clearViolations) (.refl _) he
  | clearUnposted =>
    exact State.whenReady_staysSound (u := s.clearUnposted) (.refl _) he
  | unfreeze =>
    exact State.whenReady_staysSound (.ite _ (.refl _) s.unfreeze_quiet.staysSound) he

/-- A step is the front command on the rest of the queue, or nothing. -/
theorem step_staysSound (he : step s = .next t) : s.timing.StaysSound t.timing := by
  unfold step at he
  split at he
  · cases he
    exact .refl _
  · next c rest _ => exact exec_staysSound (s := { s with pending := rest }) c he

end

end Sys2Proof.Machine
end

section
/-!
PROOFS. Every step keeps the office timing sound, the selector's next state, and the changes of state of
the selector and of a bus.
-/
namespace Sys2Proof.Proofs

open Sys2Proof.Machine

/-- Settles O58: every command leaves the office timing sound, each promise by itself. What changes a
monitor's state or the latch ends with the selector taking its next state, which follows a GOOD bus only. -/
theorem stepsKeepTheOfficeTimingSound : Obligations.StepsKeepTheOfficeTimingSound :=
  ⟨fun _ h _ he => (step_staysSound he).followsGoodBus h,
    fun _ h _ he => (step_staysSound he).holdoverComputed h⟩

/-- Settles O17, rule by rule of R93. -/
theorem selectorTakesItsNextState : Obligations.SelectorTakesItsNextState := by
  unfold Obligations.SelectorTakesItsNextState
  intro t good p free
  have hgood : ∀ x, good x ↔ t.isGood x = true := fun x => (t.isGood_iff x).symm
  refine ⟨t.nextSelector_of_latch, t.nextSelector_of_force_holdover, fun x hl hf hx => ?_,
    fun x hl hf hx hs => ?_, fun x hf hx hs => ?_, fun x hfree hs hx => ?_,
    fun x y hxy hfree hs hx hy => ?_, fun x y hxy hfree hs hx hy => ?_, fun hfree hs hp => ?_,
    fun y hy hfree hs hp hgy => ?_, fun hfree hs hnone => ?_⟩
  · rw [t.nextSelector_of_force_bus hl hf, if_pos ((hgood x).mp hx)]
  · rw [t.nextSelector_of_force_bus hl hf, if_neg (mt (hgood x).mpr hx), if_pos hs]
  · cases hl : t.holdLatch with
    | true => exact t.nextSelector_of_latch hl
    | false => rw [t.nextSelector_of_force_bus hl hf, if_neg (mt (hgood x).mpr hx), if_neg hs]
  · have hrevert := (t.revertDue_iff hfree.1 hfree.2 hs).trans
      (by rw [← hgood] : _ ↔ x ≠ p ∧ t.settings.revertive = true ∧
        t.settings.revertDelay ≤ t.revertCount ∧ good p)
    rw [t.nextSelector_of_on hfree.1 hfree.2 hs, if_pos ((hgood x).mp hx)]
    simp only [hrevert]
    rfl
  · rw [t.nextSelector_of_on hfree.1 hfree.2 hs, if_neg (mt (hgood x).mpr hx),
      ← eq_otherBus_of_ne hxy, if_pos ((hgood y).mp hy)]
  · rw [t.nextSelector_of_on hfree.1 hfree.2 hs, if_neg (mt (hgood x).mpr hx),
      ← eq_otherBus_of_ne hxy, if_neg (mt (hgood y).mpr hy)]
  · rw [t.nextSelector_of_off hfree.1 hfree.2 hs, if_pos ((hgood p).mp hp)]
  · rw [t.nextSelector_of_off hfree.1 hfree.2 hs, if_neg (mt (hgood p).mpr hp),
      ← eq_otherBus_of_ne hy.symm, if_pos ((hgood y).mp hgy)]
  · rw [t.nextSelector_of_off hfree.1 hfree.2 hs, if_neg (mt (hgood _).mpr (hnone _)),
      if_neg (mt (hgood _).mpr (hnone _))]

end Sys2Proof.Proofs
end

section
/-!
SUPPORT. The commands of the office timing out of reset, a change of a monitor's state, a missing clock, and
the end of a timing window.
-/
namespace Sys2Proof.Machine

section
variable (s : State) (x : Bus)

theorem State.outOfReset_of_ne {s : State} (h : s.phase ≠ .inReset) : s.outOfReset = true := by
  simp [State.outOfReset, h]

/-! ## Causes and changes of state -/

/-- A change of selector state from a GOOD bus, with neither the latch nor a force to make it, is a revert
(R94, R97). -/
theorem Timing.changeCause_of_ne {t : Timing} (h : t.nextSelector ≠ t.selector)
    (cause : SelectorCause) :
    t.changeCause cause = if t.holdLatch = false ∧ t.settings.force = .none ∧
      t.selector.onBus.any t.isGood = true then .revert else cause := by
  unfold Timing.changeCause
  split
  · next x hx =>
    have hcause : (t.isGood x && t.revertDue) = true ↔
        t.holdLatch = false ∧ t.settings.force = .none ∧ t.isGood x = true := by
      constructor
      · intro hr
        obtain ⟨hg, hd⟩ := Bool.and_eq_true_iff.mp hr
        simp only [Timing.revertDue, Bool.and_eq_true, beq_iff_eq, Bool.not_eq_true'] at hd
        obtain ⟨⟨⟨⟨_, hf⟩, hl⟩, _⟩, _⟩ := hd
        exact ⟨hl, hf, hg⟩
      · rintro ⟨hl, hf, hg⟩
        rw [hg, Bool.true_and]
        by_contra hd
        rw [t.nextSelector_of_on hf hl hx, if_pos hg, if_neg hd, hx] at h
        exact h rfl
    simp only [hcause, hx, SelectorState.onBus, Option.any_some]
  · next hx => simp [hx, SelectorState.onBus]
  · next hx => simp [hx, SelectorState.onBus]

/-- The monitor of bus x in a new state and the report of it, before the revert count and the selector
follow (R88, R92). -/
def State.moveBus (new : MonitorState) (cause : BusCause) : State :=
  (s.modBus x fun m =>
    { m with state := new, goodCount := 0, badCount := 0, windowPassed := false }).post .busState 1
      [word (busCode x), word (s.timing.bus x).state.code, word new.code, word cause.code,
        signedWord (s.timing.bus x).lastX]

/-- A change of a monitor's state: the report, the revert count, and the selector's next state (R88, R92,
R94). -/
theorem State.changeBus_eq (new : MonitorState) (cause : BusCause) :
    s.changeBus x new cause =
      ((s.moveBus x new cause).modTiming fun t => { t with
          revertCount := if x = s.timing.settings.preferred ∧ (s.timing.bus x).state = .good then 0
            else s.timing.revertCount }).takeSelector
        (if new = .good then .busGood else .busFailed) := by
  have hsettings : (s.moveBus x new cause).timing.settings = s.timing.settings := by
    simp [State.moveBus]
  have hcount : (s.moveBus x new cause).timing.revertCount = s.timing.revertCount := by
    simp [State.moveBus]
  have hreset : (if x = (s.moveBus x new cause).timing.settings.preferred ∧
        (s.timing.bus x).state = .good then
      (s.moveBus x new cause).modTiming fun t => { t with revertCount := 0 }
      else s.moveBus x new cause) =
      (s.moveBus x new cause).modTiming fun t => { t with
        revertCount := if x = s.timing.settings.preferred ∧ (s.timing.bus x).state = .good then 0
          else s.timing.revertCount } := by
    rw [hsettings, ← hcount]
    split <;> rfl
  rw [← hreset]
  rfl

/-! ## The commands -/

theorem exec_busFrameJudged_of_aligned (good : Bool) (h : s.phase ≠ .inReset)
    (hf : (s.timing.bus x).flywheel ≠ none) :
    exec (.busFrameJudged x good) s = .next (s.judgeFrame x good) := by
  show execBusFrameJudged x good s = _
  rw [execBusFrameJudged, State.outOfReset_of_ne h, Bool.true_and,
    if_pos (Option.isSome_iff_ne_none.mpr hf)]

/-- A frame judged, in each state of the monitor (R88, R91). -/
theorem State.judgeFrame_eq (good : Bool) :
    s.judgeFrame x good =
      if (s.timing.bus x).state = .good then
        if good then s.modBus x fun m => { m with badCount := 0 }
        else if s.timing.settings.badFrameLimit ≤ (s.timing.bus x).badCount + 1 then
          s.changeBus x .failed .badFrames
        else s.modBus x fun m => { m with badCount := m.badCount + 1 }
      else if good then
        if s.timing.settings.goodFrameCount ≤ satAdd 8000 (s.timing.bus x).goodCount 1 ∧
            (s.timing.bus x).windowPassed = true then s.changeBus x .good .qualified
        else s.modBus x fun m => { m with goodCount := satAdd 8000 (s.timing.bus x).goodCount 1 }
      else s.modBus x fun m => { m with goodCount := 0 } := by
  unfold State.judgeFrame
  dsimp only
  cases h : (s.timing.bus x).state <;> rfl

/-- A missing clock, in each state of the monitor (R89). -/
theorem State.loseClock_eq :
    s.loseClock x =
      let u := s.modBus x fun m =>
        { m with window := none, flywheel := none, stray := false, goodCount := 0, badCount := 0
                 windowPassed := false, silence := Config.silenceLimit }
      if (s.timing.bus x).state = .failed then u else u.changeBus x .failed .missingClock := by
  unfold State.loseClock
  dsimp only
  cases h : (s.timing.bus x).state <;> rfl

theorem exec_missingClock_of_ne (h : s.phase ≠ .inReset) :
    exec (.missingClock x) s =
      .next (if 32 ≤ (s.timing.bus x).silence then s else s.loseClock x) := by
  show execMissingClock x s = _
  rw [execMissingClock, State.outOfReset_of_ne h, Bool.true_and]
  simp only [decide_eq_true_eq, Config.silenceLimit, ← Nat.not_le, ite_not]

theorem exec_timingWindowEnd_of_ne (cycles : Long) (h : s.phase ≠ .inReset) :
    exec (.timingWindowEnd x cycles) s = .next (s.endTimingWindow x cycles.toNat) := by
  show execTimingWindowEnd x cycles s = _
  rw [execTimingWindowEnd, State.outOfReset_of_ne h, if_pos rfl]

/-! ## The end of a timing window -/

theorem State.modBus_modBus (f g : BusMonitor → BusMonitor) :
    (s.modBus x f).modBus x g = s.modBus x fun m => g (f m) := by
  cases x <;> rfl

/-- A value joins the end of the history, and a fifth drops the first (R102). -/
theorem joinHistory_eq (l : List Int) (v : Int) :
    joinHistory l v = (l ++ [v]).drop (if l.length < 4 then 0 else 1) := by
  unfold joinHistory
  split
  · rfl
  · cases l with
    | nil => simp at *
    | cons a l => rfl

/-- What an in-limit window of a GOOD bus adds to reverting and to the history (R94, R102). -/
theorem Timing.creditWindow_eq (t : Timing) (offset : Int) :
    t.creditWindow x offset =
      let credited := { t with
        revertCount := if x = t.settings.preferred then satAdd 255 t.revertCount 1 else t.revertCount }
      if t.selector = .on x ∧ (t.bus x).activeThroughout = true then
        credited.withHistory (joinHistory t.history offset)
      else credited := by
  have hcounted : (if x = t.settings.preferred then
      { t with revertCount := satAdd 255 t.revertCount 1 } else t) = { t with
        revertCount := if x = t.settings.preferred then satAdd 255 t.revertCount 1
          else t.revertCount } := by
    split <;> rfl
  unfold Timing.creditWindow
  rw [hcounted]
  cases x <;> rfl

theorem Timing.creditWindow_settings (t : Timing) (offset : Int) :
    (t.creditWindow x offset).settings = t.settings := by
  rw [Timing.creditWindow_eq]
  dsimp only
  split <;> rfl

/-- A timing window ended and judged by its offset, in each state of the monitor, before the next one
begins (R90, R91, R94, R102). -/
def State.judgeWindow (offset : Int) : State :=
  let last := s.modBus x fun m => { m with lastX := offset }
  let credited := last.modTiming fun t => t.creditWindow x offset
  if (s.timing.bus x).state = .good then
    if offset.natAbs ≤ s.timing.settings.freqLimit then
      if x = s.timing.settings.preferred then credited.takeSelector .busGood else credited
    else last.changeBus x .failed .frequency
  else if offset.natAbs ≤ s.timing.settings.freqLimit then
    if s.timing.settings.goodFrameCount ≤ (s.timing.bus x).goodCount then
      last.changeBus x .good .qualified
    else s.modBus x fun m => { m with lastX := offset, windowPassed := true }
  else s.modBus x fun m => { m with lastX := offset, windowPassed := false }

theorem State.endTimingWindow_eq (cycles : Nat) :
    s.endTimingWindow x cycles = (s.judgeWindow x (busOffset cycles)).beginTimingWindow x := by
  unfold State.endTimingWindow State.judgeWindow
  dsimp only
  simp only [State.modTiming_timing, Timing.creditWindow_settings, State.modBus_timing,
    Timing.setBus_settings, Timing.setBus_bus_same, State.modBus_modBus]
  cases h : (s.timing.bus x).state <;> rfl

end

end Sys2Proof.Machine
end

section
/-!
PROOFS. Changes of state of the selector and of a bus, bus frames, missing clocks and the end of a timing
window.
-/
namespace Sys2Proof.Proofs

open Sys2Proof.Machine

/-- Settles O18: the switch item by item, and its cause by the bus left. -/
theorem stateChangesOfBusAndSelectorAreReported :
    Obligations.StateChangesOfBusAndSelectorAreReported := by
  unfold Obligations.StateChangesOfBusAndSelectorAreReported
  constructor
  · intro s cause t new
    refine ⟨s.takeSelector_of_eq, fun hn => ?_⟩
    intro phase step u reverted told v
    have hreverted : t.selector.onBus.any t.isGood = true ↔ reverted := by
      show _ ↔ t.selector = .on .a ∧ (t.bus .a).state = .good ∨
        t.selector = .on .b ∧ (t.bus .b).state = .good
      rcases t.selector with _ | (_ | _) | _ <;> simp [SelectorState.onBus, Timing.isGood_iff]
    have htold : t.changeCause cause = told := by
      rw [Timing.changeCause_of_ne hn]
      simp only [hreverted]
      rfl
    have hswitch : t.switch new = u := t.switch_eq new
    rw [s.takeSelector_of_ne hn, State.changeSelector_eq, State.modTiming, htold, hswitch]
  · intro s x new cause m moved u
    have hcode : word (busCode x) = if x = .a then 0 else 1 := by cases x <;> rfl
    have hmoved : s.moveBus x new cause = u := by
      rw [State.moveBus, hcode]
      rfl
    rw [State.changeBus_eq, hmoved]
    rfl

/-- Settles O20: a judged frame and a missing clock by the monitor's state. -/
theorem busFramesAndMissingClocksAreCounted : Obligations.BusFramesAndMissingClocksAreCounted := by
  unfold Obligations.BusFramesAndMissingClocksAreCounted
  refine ⟨?_, fun x good s hf => ?_, ?_⟩
  · intro x good s hs m hf c put
    rw [exec_busFrameJudged_of_aligned s x good hs hf, State.judgeFrame_eq]
    rfl
  · show execBusFrameJudged x good s = _
    rw [execBusFrameJudged, hf, Option.isSome_none, Bool.and_false]
    rfl
  · intro x s hs m lost u
    rw [exec_missingClock_of_ne s x hs, State.loseClock_eq]
    rfl

/-- Settles O21: the end of a window by the monitor's state and the limit, then the next window. -/
theorem timingWindowEndJudgesTheBus : Obligations.TimingWindowEndJudgesTheBus := by
  unfold Obligations.TimingWindowEndJudgesTheBus
  intro x cycles s hs m c offset inLimit t credited joined u begun
  have hcredited : t.creditWindow x offset = joined := by
    have hactive : (t.bus x).activeThroughout = m.activeThroughout := by
      rw [Timing.setBus_bus_same]
    have hpreferred : t.settings.preferred = c.preferred := by rw [Timing.setBus_settings]
    rw [Timing.creditWindow_eq, hactive, hpreferred, joinHistory_eq]
    rfl
  have hjudged : s.judgeWindow x offset = u := by
    show (if m.state = .good then
        if inLimit then
          if x = c.preferred then
            ({ s with timing := t.creditWindow x offset } : State).takeSelector .busGood
          else { s with timing := t.creditWindow x offset }
        else _
      else _) = u
    rw [hcredited]
    cases x <;> rfl
  rw [exec_timingWindowEnd_of_ne s x cycles hs, State.endTimingWindow_eq]
  show Host.Outcome.next ((s.judgeWindow x offset).beginTimingWindow x) = _
  rw [hjudged]
  rfl

end Sys2Proof.Proofs
end

section
/-!
SUPPORT. Reset release and the end of an engine restart: the memories written, the TAKESER words cleared,
the selector's next state while nothing is posted, and the report that stands in an empty journal.
-/
namespace Sys2Proof.Machine

open Sys2Proof.Laws

section
variable (s : State)

/-! ## Reset release -/

/-- The identity words stand where initialisation writes them into a zeroed control memory (R154). -/
theorem State.identity_memWord (h : s.memory = []) (a : Nat) :
    (s.memWriteAll identityWords).memWord a =
      { raw := if a = 120 then 0x2480 else if a = 121 then 0x0001
        else if a = 122 then 64 else if a = 123 then 128 else 0 } := by
  have hwritten : ∀ p ∈ identityWords, (s.memWriteAll identityWords).memWord p.1 = { raw := p.2 } :=
    fun p hp => s.memWriteAll_memWord_mem (by decide) hp
  by_cases ha : a = 120 ∨ a = 121 ∨ a = 122 ∨ a = 123
  · rcases ha with rfl | rfl | rfl | rfl
    · exact hwritten (120, 0x2480) (by decide)
    · exact hwritten (121, 1) (by decide)
    · exact hwritten (122, 64) (by decide)
    · exact hwritten (123, 128) (by decide)
  · have hne : ∀ p ∈ identityWords, p.1 ≠ a := by
      simp only [identityWords, List.mem_cons, List.not_mem_nil, or_false]
      rintro p (rfl | rfl | rfl | rfl) <;> dsimp only <;> omega
    simp only [not_or] at ha
    rw [s.memWriteAll_memWord_ne hne, State.memWord, h, if_neg ha.1, if_neg ha.2.1,
      if_neg ha.2.2.1, if_neg ha.2.2.2]
    rfl

/-- The part as initialisation begins (R154): control memory zeroed but for the identity words, and every
slot part-written. -/
def State.initialised (holdreq : Bool) : State :=
  State.memWriteAll { s with phase := .initialising, holdreq := holdreq, memory := [], slots := [] }
    identityWords

theorem State.initialised_eq (holdreq : Bool) :
    s.initialised holdreq = { s with
      phase := .initialising, holdreq := holdreq, memory := (s.initialised holdreq).memory
      slots := [] } :=
  State.memWriteAll_frame _ _

theorem State.release_eq (holdreq : Bool) :
    s.release holdreq =
      if holdreq then (s.initialised holdreq).latchHold else s.initialised holdreq := rfl

/-- HOLDREQ asserted at release takes the selector from FREE to HOLDOVER, with nothing reported (R96,
R169). -/
theorem State.latchHold_of_initialising (hp : s.phase = .initialising) (ht : s.timing = {}) :
    s.latchHold = { s with
      timing := { holdLatch := true, selector := .holdover, switchCount := 1 } } := by
  have hdiscarded : ∀ (t : Timing) k r d, ({ s with timing := t } : State).post k r d =
      { s with timing := t } := fun t k r d => State.post_of_reset k r d (.inr hp)
  have hnext : ({ holdLatch := true } : Timing).nextSelector = .holdover := by decide
  have hswitch : ({ holdLatch := true } : Timing).switch .holdover =
      { holdLatch := true, selector := .holdover, switchCount := 1 } := by decide
  rw [s.latchHold_of_clear (by rw [ht]), State.modTiming, hdiscarded, ht,
    State.takeSelector_of_ne _ (by rw [hnext]; nofun), State.changeSelector_eq, if_neg (by simp),
    State.modTiming, hdiscarded, hnext, hswitch]

/-! ## The selector during a restart -/

/-- A change of selector state during a restart, in no lengthened frame: its report is counted as dropped
(R97, R169). -/
theorem State.takeSelector_of_restarting (hp : s.phase = .restarting) (hphase : s.timing.phase < 320)
    (cause : SelectorCause) :
    s.takeSelector cause =
      if s.timing.nextSelector ≠ s.timing.selector then { s with
        timing := s.timing.switch s.timing.nextSelector
        journal := { s.journal with dropCount := satAdd 65535 s.journal.dropCount 1 } }
      else s := by
  split
  · next h =>
    rw [s.takeSelector_of_ne h, State.changeSelector_eq, if_neg (by omega),
      State.post_of_restarting]
    · rfl
    · exact hp
  · next h => exact s.takeSelector_of_eq (not_not.mp h)

/-! ## The TAKESER words -/

/-- The TAKESER words of a list of slots written to 0, and every other word left alone. -/
theorem State.foldl_clearTakeser (l : List (Fin 128)) (a : Nat) :
    (l.foldl (fun t i => (t.memWrite (journalBase i + 2) 0).memWrite (journalBase i + 3) 0)
      s).memWord a =
      if ∃ i ∈ l, a = journalBase i + 2 ∨ a = journalBase i + 3 then {} else s.memWord a := by
  induction l generalizing s with
  | nil => simp
  | cons i l ih =>
    rw [List.foldl_cons, ih]
    by_cases hl : ∃ j ∈ l, a = journalBase j + 2 ∨ a = journalBase j + 3
    · obtain ⟨j, hj, ha⟩ := hl
      rw [if_pos ⟨j, hj, ha⟩, if_pos ⟨j, List.mem_cons_of_mem _ hj, ha⟩]
    · rw [if_neg hl]
      by_cases h3 : a = journalBase i + 3
      · rw [h3, State.memWrite_memWord_same, if_pos ⟨i, by simp, .inr rfl⟩]
      · rw [State.memWrite_memWord_ne _ h3]
        by_cases h2 : a = journalBase i + 2
        · rw [h2, State.memWrite_memWord_same, if_pos ⟨i, by simp, .inl rfl⟩]
        · rw [State.memWrite_memWord_ne _ h2, if_neg]
          rintro ⟨j, hj, ha⟩
          rcases List.mem_cons.mp hj with rfl | hj
          · exact ha.elim h2 h3
          · exact hl ⟨j, hj, ha⟩

theorem State.clearTakesers_memWord (i : Fin 128) {k : Nat} (hk : k = 2 ∨ k = 3) :
    s.clearTakesers.memWord (journalBase i + k) = {} := by
  refine (s.foldl_clearTakeser _ _).trans (if_pos ⟨i, List.mem_finRange i, ?_⟩)
  exact hk.imp (fun h => by rw [h]) (fun h => by rw [h])

/-- Words that are no slot's TAKESER words are left alone. -/
theorem State.clearTakesers_memWord_ne {a : Nat} (h : takeserSlot a = none) :
    s.clearTakesers.memWord a = s.memWord a := by
  refine (s.foldl_clearTakeser _ _).trans (if_neg ?_)
  rintro ⟨i, -, ha⟩
  have hword := ha.elim (fun e => e ▸ takeserSlot_word i 2 (.inl rfl))
    (fun e => e ▸ takeserSlot_word i 3 (.inr rfl))
  rw [h] at hword
  cases hword

theorem takeserSlot_of_lt {a : Nat} (h : a < journalStart) : takeserSlot a = none := by
  unfold takeserSlot
  rw [dif_neg]
  omega

theorem State.clearTakesers_frame : ∃ m, s.clearTakesers = { s with memory := m } := by
  have hfold : ∀ (l : List (Fin 128)) (t : State), ∃ m,
      l.foldl (fun t i => (t.memWrite (journalBase i + 2) 0).memWrite (journalBase i + 3) 0) t =
        { t with memory := m } := by
    intro l
    induction l with
    | nil => exact fun t => ⟨t.memory, rfl⟩
    | cons i l ih => exact fun t => ih _
  exact hfold _ s

/-! ## A report that stands -/

/-- The lowest slot of an empty journal is slot 0. -/
theorem Journal.freeSlot_of_empty {j : Journal} (h : j.slots = Vector.replicate 128 {}) :
    j.freeSlot = some 0 := by
  rw [Journal.freeSlot, h, List.finRange_succ, List.find?_cons_of_pos]
  rfl

/-- A report let through with no post in progress, the journal not halted and no plan waiting is written
to the lowest FREE slot and stands there (R165). -/
theorem State.post_stands (k : Kind) (record : Nat) (detail : List Word) {i : Fin 128}
    (hp : s.phase = .ready) (hl : s.journal.lets k = true) (hc : s.journal.current = none)
    (hh : s.journal.halted = false) (hi : s.journal.freeSlot = some i) (hs : s.journal.plans = []) :
    s.post k record detail =
      (s.memWriteAll (slotWrites i
        { kind := k, record := record, stamp := s.timing.stamp, detail := detail }
        s.journal.nextSerial)).modJournal fun j => { j with
          slots := j.slots.set i { state := .held, serial := s.journal.nextSerial }
          nextSerial := nextSerialAfter s.journal.nextSerial
          current := none } := by
  rw [State.post_of_ready k record detail hp, if_pos hl, State.handle_of_none hc, if_neg (by simp [hh]),
    State.postUnmasked, State.place_of_free s _ i _ hi hs]
  rfl

/-! ## The end of a restart -/

/-- Spare control at the end of a restart, by the state it was in (R131). -/
theorem Spare.restarted_eq (x : Spare) :
    x.restarted = match x.state with
      | .standby => { state := .standby, lastCause := x.lastCause }
      | .mirror _ => { state := .standby, lastCause := .restart }
      | .spared k => { state := .spared k, lastCause := x.lastCause }
      | .restore k => { state := .spared k, lastCause := .restart } := by
  unfold Spare.restarted
  cases x.state <;> simp [clearedCoverage]

/-- The part once the blocks stand at their end values, before RESTART is posted (R107, R131, R169). -/
def State.restartSettled : State :=
  ((s.modSpare Spare.restarted).modTiming fun t => t.configure {}).takeSelector .settings

/-- The part with its journal empty, about to post RESTART (R155, R163, R169). -/
def State.restartCleared : State :=
  { s.restartSettled with
    phase := .ready
    memory := s.restartSettled.clearTakesers.memory
    patrol := { s.restartSettled.patrol with pointer := .directory }
    attention := { s.restartSettled.attention with critical := false }
    journal := s.restartSettled.journal.restarted }

/-- RESTART is posted once the blocks are at their end values and the journal is empty (R169). -/
theorem State.endRestart_eq_post :
    s.endRestart =
      (s.restartCleared.post .restart 0 (restartDetail s.restartSettled.journal)).modJournal
        fun j => { j with dropCount := 0 } := by
  have hcleared : (((s.restartSettled.clearTakesers.setPhase .ready).modPatrol fun p =>
      { p with pointer := .directory }).modAttention fun a =>
      { a with critical := false }).modJournal Journal.restarted = s.restartCleared := by
    obtain ⟨m, hm⟩ := s.restartSettled.clearTakesers_frame
    rw [State.restartCleared, hm]
    rfl
  rw [← hcleared]
  rfl

theorem State.restartCleared_memWord (a : Nat) :
    s.restartCleared.memWord a = s.restartSettled.clearTakesers.memWord a := by
  rw [State.memWord, State.memWord, State.restartCleared]

theorem State.restartCleared_journal (h : s.restartSettled.journal.plans = []) :
    s.restartCleared.journal = { dropCount := s.restartSettled.journal.dropCount } := by
  rw [State.restartCleared, Journal.restarted, h]

/-- The report RESTART (R169). -/
def State.restartReport : Report :=
  { kind := .restart, record := 0, stamp := s.restartSettled.timing.stamp
    detail := restartDetail s.restartSettled.journal }

/-- The words of a slot that a post writes, in the order of their offsets. -/
theorem State.slotWrites_memWord_readBack (x : Report) (i : Fin 128) (serial : Long) :
    readBackWords.map (fun k =>
        (s.memWriteAll (slotWrites i x serial)).memWord (journalBase i + k)) =
      ((postedWords x serial).drop 12 ++ (postedWords x serial).take 12).map
        fun p => { raw := p.2 } := by
  have hoffsets : readBackWords =
      ((postedWords x serial).drop 12 ++ (postedWords x serial).take 12).map (·.1) := rfl
  rw [hoffsets, List.map_map]
  refine List.map_congr_left fun p hp => s.slotWrites_memWord x i serial ?_
  exact (List.mem_append.mp hp).elim List.mem_of_mem_drop List.mem_of_mem_take

/-- The words of RESTART with serial 1, in the order of their offsets (R165, R169). -/
theorem postedWords_restart (stamp : Long) (j : Journal) :
    let x : Report := { kind := .restart, record := 0, stamp := stamp, detail := restartDetail j }
    ((postedWords x 1).drop 12 ++ (postedWords x 1).take 12).map (·.2) =
      [0, 1, 0x0F00, highHalf stamp, lowHalf stamp, word j.dropCount, word j.heldBeforeRestart,
        word (bit j.halted), highHalf j.nextSerial, lowHalf j.nextSerial, 0, 0, 0, 0] := by
  have hkind : pack [(Kind.restart.code, 8), (0, 0)] = 0x0F00 := by decide
  have hserial : highHalf 1 = 0 ∧ lowHalf 1 = 1 := by decide
  simpa [postedWords, restartDetail, halves, List.range_succ, hkind] using hserial

/-- The end of a restart with no plan waiting: RESTART stands in slot 0 with serial 1, and the drop count
starts anew (R169). -/
theorem State.endRestart_eq (h : s.restartSettled.journal.plans = []) :
    s.endRestart =
      (s.restartCleared.memWriteAll (slotWrites 0 s.restartReport 1)).modJournal fun _ =>
        { slots := (Vector.replicate 128 {}).set 0 { state := .held, serial := 1 }, nextSerial := 2 } := by
  have hjournal := s.restartCleared_journal h
  have hlets : s.restartCleared.journal.lets .restart = true := by
    simp [hjournal, Journal.lets, Kind.index]
  have hposted := s.restartCleared.post_stands .restart 0 (restartDetail s.restartSettled.journal)
    (i := 0) rfl hlets (by rw [hjournal]) (by rw [hjournal])
    (Journal.freeSlot_of_empty (by rw [hjournal])) (by rw [hjournal])
  rw [hjournal] at hposted
  rw [s.endRestart_eq_post, hposted, State.memWriteAll_frame, State.modJournal, State.modJournal, hjournal]
  rfl

end

end Sys2Proof.Machine
end

section
/-!
PROOFS. Reset release, the end of initialisation, and the end of an engine restart.
-/
namespace Sys2Proof.Proofs

open Sys2Proof.Machine Sys2Proof.Laws

/-- Settles O5: the memories as initialisation writes them, the latch by HOLDREQ at release, and READY. -/
theorem initialisationRunsFromReleaseToReady : Obligations.InitialisationRunsFromReleaseToReady := by
  unfold Obligations.InitialisationRunsFromReleaseToReady
  refine ⟨fun holdreq s hs ht => ?_, fun s hs => ⟨?_, rfl, fun hm => ?_⟩⟩
  · have hexec : exec (.resetRelease holdreq) s = .next (s.release holdreq) := by
      show execResetRelease holdreq s = _
      rw [execResetRelease, if_pos hs]
    have hphase : (s.initialised holdreq).phase = .initialising := by rw [State.initialised_eq]
    have htiming : (s.initialised holdreq).timing = {} := by rw [State.initialised_eq, ht]
    have hreleased : s.release holdreq = { s with
        phase := .initialising, holdreq := holdreq, slots := []
        memory := (s.initialised holdreq).memory
        timing := if holdreq then { holdLatch := true, selector := .holdover, switchCount := 1 }
          else {} } := by
      rw [State.release_eq]
      cases holdreq with
      | true =>
        rw [if_pos rfl, State.latchHold_of_initialising _ hphase htiming]
        conv => lhs; rw [State.initialised_eq]
        rfl
      | false =>
        rw [← ht]
        exact s.initialised_eq false
    refine ⟨_, hexec, ?_⟩
    rw [hreleased]
    exact ⟨rfl, State.identity_memWord _ rfl, fun b i => rfl⟩
  · show execInitialisationEnd s = _
    rw [execInitialisationEnd, if_pos hs]
    rfl
  · simp [State.interrupt, hm]

/-- Settles O7: the blocks' end values with the selector's next state among them, and then RESTART in the
empty journal. -/
theorem engineRestartEndPostsRestart : Obligations.EngineRestartEndPostsRestart := by
  unfold Obligations.EngineRestartEndPostsRestart
  intro s hs hphase hplans
  refine ⟨s.endRestart, ?_, ?_⟩
  · show execEngineRestartEnd s = _
    rw [execEngineRestartEnd, if_pos hs]
  intro c moved dropped
  have hsettled : s.restartSettled = { s with
      spare := s.spare.restarted
      timing := if moved then c.switch c.nextSelector else c
      journal := { s.journal with dropCount := dropped } } := by
    have hconfigured : s.timing.configure {} = c := by
      rw [Timing.configure]
      simp only [eq_comm (a := (Bus.a : Bus)), c]
    have htaken := State.takeSelector_of_restarting
      { s with spare := s.spare.restarted, timing := c } hs hphase .settings
    rw [State.restartSettled, State.modTiming, State.modSpare, hconfigured, htaken]
    by_cases hm : moved
    · rw [if_pos hm]
      simp only [if_pos hm, dropped]
      rfl
    · rw [if_neg hm]
      simp only [if_neg hm, dropped]
  have hend := s.endRestart_eq (by rw [hsettled]; exact hplans)
  have htiming : s.endRestart.timing = s.restartSettled.timing := by
    rw [hend, State.modJournal_timing, State.memWriteAll_frame]
    rfl
  have hword : ∀ a, s.endRestart.memWord a =
      (s.restartCleared.memWriteAll (slotWrites 0 s.restartReport 1)).memWord a := fun a => by
    rw [hend, State.modJournal_memWord]
  have hbefore : ∀ a, (∀ k ∈ readBackWords, a ≠ journalBase 0 + k) →
      s.endRestart.memWord a = s.restartSettled.clearTakesers.memWord a := fun a ha => by
    rw [hword, State.slotWrites_memWord_ne _ _ _ _ ha, State.restartCleared_memWord]
  have hoffset : ∀ k ∈ readBackWords, k ≠ 2 ∧ k ≠ 3 ∧ k < 16 := by decide
  have hcleared : ∀ (i : Fin 128) (k : Nat), k = 2 ∨ k = 3 →
      s.endRestart.memWord (journalBase i + k) = {} := fun i k hk => by
    rw [hbefore _ fun j hj => ?_, State.clearTakesers_memWord _ i hk]
    have := hoffset j hj
    rw [journalBase_eq, journalBase_eq]
    omega
  refine ⟨?_, fun i => ⟨hcleared i 2 (.inl rfl), hcleared i 3 (.inr rfl)⟩, ?_, fun a ha => ?_⟩
  · rw [hend, State.memWriteAll_frame, State.restartCleared, hsettled, Spare.restarted_eq]
    rfl
  · have hwords : readBackWords.map (fun k => s.endRestart.memWord (journalBase 0 + k)) =
        ((postedWords s.restartReport 1).drop 12 ++ (postedWords s.restartReport 1).take 12).map
          fun p => { raw := p.2 } := by
      simp only [hword]
      exact s.restartCleared.slotWrites_memWord_readBack s.restartReport 0 1
    have hraw := postedWords_restart s.restartSettled.timing.stamp s.restartSettled.journal
    have hwrap : ∀ l : List (Nat × Word),
        (l.map fun p => ({ raw := p.2 } : MemWord)) = (l.map (·.2)).map fun w => { raw := w } :=
      fun l => by rw [List.map_map]; rfl
    rw [hwords, htiming, hwrap, State.restartReport, hraw, hsettled]
  · have hout : takeserSlot a = none := ha.elim takeserSlot_of_lt And.right
    rw [hbefore a fun k hk => ?_, State.clearTakesers_memWord_ne _ hout, hsettled]
    · rfl
    have := hoffset k hk
    rw [journalStart_eq] at ha
    rw [journalBase_eq]
    simp only [Fin.val_zero]
    omega

end Sys2Proof.Proofs
end

section
/-!
SUPPORT. A timing request: its settings in force, its checks in order, and the mask of the words clamped.
-/
namespace Sys2Proof.Machine

open Sys2Proof.Laws

/-! ## Clamped values and masks -/

theorem clamp_eq {low high : Nat} (h : low ≤ high) (x : Nat) : clamp low high x = max low (min high x) := by
  unfold clamp
  split
  · omega
  · split <;> omega

theorem bit_le_one (b : Bool) : bit b ≤ 1 := by
  cases b <;> decide

/-- A value below 2 to the 16th is 0 where its word is. -/
theorem word_eq_zero_iff {x : Nat} (h : x < 65536) : word x = 0 ↔ x = 0 := by
  rw [word, ← BitVec.toNat_inj, BitVec.toNat_ofNat, Nat.mod_eq_of_lt h]
  rfl

section
variable (s : State) (t : Timing) (q : TimingRequest)

/-- The value of a timing request's mask of moved words (R104, R151). -/
def TimingRequest.movedBits : Nat :=
  16 * bit (q.settings.revertDelay ≠ q.revertDelay.toNat)
    + 32 * bit (q.settings.badFrameLimit ≠ q.badFrameLimit.toNat)
    + 64 * bit (q.settings.goodFrameCount ≠ q.goodFrameCount.toNat)
    + 128 * bit (q.settings.freqLimit ≠ q.freqLimit.toNat)

theorem TimingRequest.movedBits_lt : q.movedBits < 65536 := by
  have h (b : Bool) := bit_le_one b
  have := h (q.settings.revertDelay ≠ q.revertDelay.toNat)
  have := h (q.settings.badFrameLimit ≠ q.badFrameLimit.toNat)
  have := h (q.settings.goodFrameCount ≠ q.goodFrameCount.toNat)
  have := h (q.settings.freqLimit ≠ q.freqLimit.toNat)
  unfold TimingRequest.movedBits
  omega

theorem TimingRequest.moved_eq : q.moved = word q.movedBits := by
  have hne (x y : Nat) : (x != y) = decide (x ≠ y) := by rw [decide_not]; rfl
  unfold TimingRequest.moved TimingRequest.movedBits movedMask pack
  simp only [List.map_cons, List.map_nil, List.foldl_cons, List.foldl_nil, hne]
  congr 1
  omega

/-! ## The settings -/

/-- The settings of a request whose fields are in their lists (R104). -/
theorem TimingRequest.settings_eq (hp : q.preferred.toNat ≤ 1) (hf : q.force.toNat ≤ 3) :
    q.settings =
      { preferred := if q.preferred = 0 then .a else .b
        revertive := q.revertive = 1
        force := if q.force = 0 then .none else if q.force = 1 then .bus .a
          else if q.force = 2 then .bus .b else .holdover
        revertDelay := max 1 (min 60 q.revertDelay.toNat)
        badFrameLimit := max 1 (min 15 q.badFrameLimit.toNat)
        goodFrameCount := max 8 (min 8000 q.goodFrameCount.toNat)
        freqLimit := max 10 (min 10000 q.freqLimit.toNat) } := by
  have hpreferred : q.preferred = 0 ∨ q.preferred = 1 := by bv_omega
  have hforce : q.force = 0 ∨ q.force = 1 ∨ q.force = 2 ∨ q.force = 3 := by bv_omega
  rw [TimingRequest.settings, clamp_eq (by decide), clamp_eq (by decide), clamp_eq (by decide),
    clamp_eq (by decide)]
  congr 1
  · rcases hpreferred with h | h <;> simp [h]
  · rcases hforce with h | h | h | h <;> simp [h]

/-- The timing unit a request leaves before the selector takes its next state (R94, R96, R102, R104). -/
theorem Timing.requested_eq :
    t.requested q = { t with
      settings := q.settings
      revertCount := if q.settings.preferred = t.settings.preferred then t.revertCount else 0
      holdLatch := t.holdLatch && !q.actions.getLsbD 1
      history := if q.actions.getLsbD 2 = true then [] else t.history
      hv := if q.actions.getLsbD 2 = true then 0 else t.hv
      ncoStep := if q.actions.getLsbD 2 = true then 536870912 else t.ncoStep } := by
  unfold Timing.requested TimingRequest.hasClearHistory TimingRequest.hasClearLatch
  cases q.actions.getLsbD 2 <;> cases q.actions.getLsbD 1 <;>
    simp [Timing.configure, Timing.withHistory_nil]

/-! ## The checks -/

theorem SelectorState.onBus_isNone_iff (x : SelectorState) :
    x.onBus.isNone = true ↔ x = .free ∨ x = .holdover := by
  cases x <;> simp [SelectorState.onBus]

theorem firstBadField_nil : firstBadField [] = none := rfl

theorem firstBadField_cons (i : Nat) (ok : Bool) (l : List (Nat × Bool)) :
    firstBadField ((i, ok) :: l) = if ok = true then firstBadField l else some i := by
  cases ok <;> rfl

/-- The checks of a timing request in their order (R100, R104, R159). -/
theorem State.checkTiming_eq :
    s.checkTiming q =
      if 1 < q.preferred.toNat then .refused .badField 1
      else if 1 < q.revertive.toNat then .refused .badField 2
      else if 3 < q.force.toNat then .refused .badField 3
      else if q.actions.getLsbD 1 = true ∧ s.holdreq = true then .refused .holdActive 0
      else if q.actions.getLsbD 0 = true ∧ ((s.timing.requested q).nextSelector = .free ∨
        (s.timing.requested q).nextSelector = .holdover) then .refused .noBus 0
      else .accepted q.moved := by
  unfold State.checkTiming
  simp only [firstBadField_cons, firstBadField_nil, decide_eq_true_eq, ← Nat.not_lt, ite_not]
  by_cases hpreferred : 1 < q.preferred.toNat
  · simp only [if_pos hpreferred]
    rfl
  by_cases hrevertive : 1 < q.revertive.toNat
  · simp only [if_neg hpreferred, if_pos hrevertive]
    rfl
  by_cases hforce : 3 < q.force.toNat
  · simp only [if_neg hpreferred, if_neg hrevertive, if_pos hforce]
    rfl
  simp only [if_neg hpreferred, if_neg hrevertive, if_neg hforce, Bool.and_eq_true,
    SelectorState.onBus_isNone_iff, TimingRequest.hasClearLatch, TimingRequest.hasRealign]

/-- An accepted timing request leaves the common heads alone. -/
theorem State.applyTiming_head (r : Record) : (s.applyTiming q).head r = s.head r := by
  have hheads : (s.applyTiming q).reportHeads = s.reportHeads := by
    have htaken := ((s.modTiming fun t => t.requested q).takeSelector_kept
      (requestCause s.timing q)).reportHeads
    unfold State.applyTiming
    split <;> exact htaken
  rw [State.head, State.head, hheads]

/-- An accepted timing request in the order of its parts (R104). -/
theorem State.applyTiming_eq :
    s.applyTiming q =
      let taken := ({ s with timing := s.timing.requested q } : State).takeSelector
        (requestCause s.timing q)
      { taken with timing := { taken.timing with
          realignPending := taken.timing.realignPending || q.actions.getLsbD 0 } } := by
  unfold State.applyTiming TimingRequest.hasRealign
  cases q.actions.getLsbD 0 <;> simp [State.pendRealign, State.modTiming]

theorem State.answerRequest_refused (r : Record) (serial : Word) (reason : Reason) (detail : Word)
    (accepted : State) :
    s.answerRequest r serial (.refused reason detail) accepted =
      (s.post .requestRefused r.number.val [serial, word reason.code, detail]).setHead r
        { s.head r with appser := serial, result := .refused, reason := reason, detail := detail } := by
  unfold State.answerRequest
  dsimp only
  rw [State.post_head]
  rfl

end

end Sys2Proof.Machine
end

section
/-!
PROOFS. A timing request checked in order and applied.
-/
namespace Sys2Proof.Proofs

open Sys2Proof.Machine Sys2Proof.Laws

/-- Settles O48: the checks in order, and an accepted request's parts with its answer. -/
theorem timingRequestIsCheckedAndApplied : Obligations.TimingRequestIsCheckedAndApplied := by
  unfold Obligations.TimingRequestIsCheckedAndApplied
  intro q s hs t h refused settings history u moved cause taken pending
  have hrefused : ∀ r d, s.answerRequest .timing q.serial (.refused r d) (s.applyTiming q) =
      refused r d := fun r d => s.answerRequest_refused _ _ _ _ _
  refine (s.whenReady_of_ready hs (s.takeTimingRequest q)).trans (congrArg _ ?_)
  rw [State.takeTimingRequest, State.checkTiming_eq]
  by_cases hpreferred : 1 < q.preferred.toNat
  · rw [if_pos hpreferred, if_pos hpreferred, hrefused]
  by_cases hrevertive : 1 < q.revertive.toNat
  · rw [if_neg hpreferred, if_neg hpreferred, if_pos hrevertive, if_pos hrevertive, hrefused]
  by_cases hforce : 3 < q.force.toNat
  · rw [if_neg hpreferred, if_neg hpreferred, if_neg hrevertive, if_neg hrevertive, if_pos hforce,
      if_pos hforce, hrefused]
  have hsettings : q.settings = settings := q.settings_eq (by omega) (by omega)
  have hrequested : s.timing.requested q = u := by
    rw [Timing.requested_eq, hsettings]
  have hmoved : q.movedBits = moved := by
    rw [TimingRequest.movedBits, hsettings]
  have hcause : requestCause s.timing q = cause := by
    rw [requestCause, hsettings]
    simp only [TimingRequest.hasClearLatch, Bool.and_eq_true]
    rfl
  rw [if_neg hpreferred, if_neg hpreferred, if_neg hrevertive, if_neg hrevertive, if_neg hforce,
    if_neg hforce, hrequested]
  split
  · exact hrefused _ _
  split
  · exact hrefused _ _
  have happlied : s.applyTiming q = { taken with timing := pending } := by
    rw [State.applyTiming_eq, hrequested, hcause]
  have hhead : (s.applyTiming q).head .timing = h := s.applyTiming_head q _
  rw [State.answerRequest, hhead, happlied, q.moved_eq, ReportHead.answer, hmoved]
  simp only [word_eq_zero_iff (hmoved ▸ q.movedBits_lt)]

end Sys2Proof.Proofs
end

section
/-!
SUPPORT. A bus clock edge: what it does to the monitor's own items, the office bit it makes, and what the
bit and the judgement leave alone in the monitor.
-/
namespace Sys2Proof.Machine

/-- What an edge makes of the flywheel and of the stray flag, and the frame it judges (R87, R88). -/
def BusMonitor.edgeItems (m : BusMonitor) (pulse : Bool) : Option Nat × Bool × Option Bool :=
  match m.flywheel with
  | none => if pulse then (some 0, false, none) else (none, m.stray, none)
  | some f =>
    if f % 320 = 319 then (some 0, false, some (pulse && !m.stray))
    else if pulse = false then (some (f % 320 + 1), m.stray, none)
    else if m.state = .good then (some (f % 320 + 1), true, none)
    else (some 0, false, some false)

theorem BusMonitor.edge_eq (m : BusMonitor) (pulse : Bool) :
    m.edge pulse =
      ({ m with silence := 0, flywheel := (m.edgeItems pulse).1, stray := (m.edgeItems pulse).2.1 },
        (m.edgeItems pulse).2.2) := by
  unfold BusMonitor.edge BusMonitor.edgeItems
  cases hf : m.flywheel with
  | none => cases pulse <;> simp
  | some f =>
    by_cases hwrap : f % 320 = 319
    · have hzero : (f + 1) % 320 = 0 := by omega
      simp only [if_pos hwrap, if_pos hzero]
    · have hnext : (f + 1) % 320 = f % 320 + 1 := by omega
      simp only [hnext, if_neg hwrap, if_neg (Nat.succ_ne_zero _)]
      cases pulse with
      | false => rfl
      | true => cases hs : m.state <;> simp

/-- An edge that judges a frame leaves the flywheel aligned (R87). -/
theorem BusMonitor.edgeItems_aligned {m : BusMonitor} {pulse good : Bool}
    (h : (m.edgeItems pulse).2.2 = some good) : (m.edgeItems pulse).1 ≠ none := by
  unfold BusMonitor.edgeItems at h ⊢
  split at h
  · split at h <;> cases h
  · split_ifs <;> simp

section
variable (s : State) (x y : Bus)

/-! ## The office bit -/

theorem exec_busClockEdge_of_ne (pulse : Bool) (h : s.phase ≠ .inReset) :
    exec (.busClockEdge x pulse) s = .next (s.busEdge x pulse) := by
  show execBusClockEdge x pulse s = _
  rw [execBusClockEdge, State.outOfReset_of_ne h, if_pos rfl]

theorem exec_realignComplete_of_on (h : s.phase ≠ .inReset) (hphase : 320 ≤ s.timing.phase)
    (hx : s.timing.selector = .on x) : exec .realignComplete s = .next s.closeRealign := by
  show execRealignComplete s = _
  rw [execRealignComplete, State.outOfReset_of_ne h, hx, if_pos (by simp [hphase, SelectorState.onBus])]

theorem exec_officeTick_of_lt (h : s.phase ≠ .inReset) (hphase : s.timing.phase < 320) :
    exec .officeTick s = .next s.wrapPhase := by
  show execOfficeTick s = _
  rw [execOfficeTick, State.outOfReset_of_ne h, if_pos (by simp [hphase])]

/-- An office bit that wraps nothing: φ, and the octets sent of a frame in hand (R98, R108). -/
theorem State.officeBit_eq {phase : Nat} {octets : FrameInHand → Vector Octet 8}
    (h : ∀ f : FrameInHand, octets f = Vector.ofFn fun hw => f.highwayOctet hw phase) :
    (s.modTiming fun t => { t with phase := phase }).sendOctets = { s with
      timing := { s.timing with phase := phase }
      highway := { s.highway with sent := match s.highway.inHand with
        | some f => some (octets f)
        | none => s.highway.sent } } := by
  cases hf : s.highway.inHand with
  | none =>
    rw [State.sendOctets_of_none _ (by exact hf)]
    rfl
  | some f =>
    dsimp only
    rw [State.sendOctets_of_some _ (by exact hf), h f]
    rfl

theorem Timing.tick_bus (t : Timing) : t.tick.bus x = t.bus x := by cases x <;> rfl

theorem State.tick_bus : s.tick.timing.bus x = s.timing.bus x := by
  rw [State.tick_timing, Timing.tick_bus]

theorem State.sendOctets_bus : s.sendOctets.timing.bus x = s.timing.bus x := by
  rw [s.sendOctets_quiet.timing]

theorem State.wrapPhase_bus : s.wrapPhase.timing.bus x = s.timing.bus x := by
  unfold State.wrapPhase
  split
  · rw [State.sendOctets_bus]
    cases x <;> rfl
  · rw [State.tick_bus]
    cases x <;> rfl

theorem State.closeRealign_bus : s.closeRealign.timing.bus x = s.timing.bus x := by
  rw [State.closeRealign, State.tick_bus]
  cases x <;> rfl

/-- The office bit leaves the bus monitors alone. -/
theorem State.busBit_bus (fly : Nat) : (s.busBit fly).timing.bus x = s.timing.bus x := by
  have hcounted : ∀ phase, ((s.modTiming fun t => { t with phase := phase }).sendOctets).timing.bus x =
      s.timing.bus x := fun phase => by
    rw [State.sendOctets_bus]
    cases x <;> rfl
  unfold State.busBit
  dsimp only
  split
  · split
    · exact s.closeRealign_bus x
    · exact hcounted _
  · split
    · exact s.wrapPhase_bus x
    · exact hcounted _

/-! ## The judgement -/

/-- The selector's next state leaves a window in hand alone. -/
theorem State.takeSelector_window (cause : SelectorCause) :
    ((s.takeSelector cause).timing.bus x).window = (s.timing.bus x).window := by
  have hswitch : ∀ new, ((s.timing.switch new).bus x).window = (s.timing.bus x).window := fun new => by
    rw [Timing.switch_bus]
    split <;> rfl
  by_cases h : s.timing.nextSelector = s.timing.selector
  · rw [s.takeSelector_of_eq h]
  · rw [s.takeSelector_of_ne h, State.changeSelector_timing]
    split
    · rw [Timing.tick_bus, hswitch]
    · exact hswitch _

theorem State.changeBus_window (new : MonitorState) (cause : BusCause) :
    ((s.changeBus x new cause).timing.bus x).window = (s.timing.bus x).window := by
  rw [s.changeBus_eq, State.takeSelector_window]
  cases x <;> simp [State.moveBus, Timing.bus] <;> rfl

theorem State.judgeFrame_window (good : Bool) :
    ((s.judgeFrame x good).timing.bus x).window = (s.timing.bus x).window := by
  have hmod : ∀ f : BusMonitor → BusMonitor, (∀ m, (f m).window = m.window) →
      ((s.modBus x f).timing.bus x).window = (s.timing.bus x).window := fun f hf => by
    rw [State.modBus, State.modTiming, Timing.setBus_bus_same, hf]
  rw [s.judgeFrame_eq]
  split_ifs
  · exact hmod _ fun _ => rfl
  · exact s.changeBus_window ..
  · exact hmod _ fun _ => rfl
  · exact s.changeBus_window ..
  · exact hmod _ fun _ => rfl
  · exact hmod _ fun _ => rfl

/-! ## The timing window -/

theorem State.countEdge_of_none {x : Bus} (h : (s.timing.bus x).window = none) :
    s.countEdge x = s.beginTimingWindow x := by
  rw [State.countEdge, h]

theorem State.countEdge_of_lt {x : Bus} {w : TimingWindow} (h : (s.timing.bus x).window = some w)
    (hlt : w.edges + 1 < 2560000) :
    s.countEdge x = s.modBus x fun m => { m with window := some { w with edges := w.edges + 1 } } := by
  rw [State.countEdge, h]
  exact if_neg (Nat.not_le.mpr hlt)

theorem State.countEdge_of_le {x : Bus} {w : TimingWindow} (h : (s.timing.bus x).window = some w)
    (hle : 2560000 ≤ w.edges + 1) : s.countEdge x = s.endTimingWindow x w.cycles := by
  rw [State.countEdge, h]
  exact if_pos hle

theorem State.judgeFrame_phase (good : Bool) : (s.judgeFrame x good).phase = s.phase :=
  (s.judgeFrame_kept x good).phase

/-! ## The edge in its parts -/

section
variable (pulse : Bool)

/-- The part once the edge has moved the flywheel (R87). -/
def State.edgeStepped : State :=
  s.modBus x fun m => { m with
    silence := 0, flywheel := (m.edgeItems pulse).1, stray := (m.edgeItems pulse).2.1 }

/-- The part once the edge has made its office bit, where the bus is followed (R98). -/
def State.edgeBit : State :=
  if s.timing.selector = .on x then
    (s.edgeStepped x pulse).busBit (((s.timing.bus x).edgeItems pulse).1.getD 0)
  else s.edgeStepped x pulse

/-- The part once the frame that the edge ends is judged (R88). -/
def State.edgeJudged : State :=
  match ((s.timing.bus x).edgeItems pulse).2.2 with
  | some good => (s.edgeBit x pulse).judgeFrame x good
  | none => s.edgeBit x pulse

theorem State.edgeJudged_of_some {good : Bool}
    (h : ((s.timing.bus x).edgeItems pulse).2.2 = some good) :
    s.edgeJudged x pulse = (s.edgeBit x pulse).judgeFrame x good := by
  rw [State.edgeJudged, h]

theorem State.edgeJudged_of_none (h : ((s.timing.bus x).edgeItems pulse).2.2 = none) :
    s.edgeJudged x pulse = s.edgeBit x pulse := by
  rw [State.edgeJudged, h]

/-- An edge: the flywheel, the office bit, the judgement, and the window, in this order. -/
theorem State.busEdge_eq : s.busEdge x pulse = (s.edgeJudged x pulse).countEdge x := by
  rw [State.busEdge, BusMonitor.edge_eq]
  rfl

theorem State.edgeBit_bus :
    (s.edgeBit x pulse).timing.bus x = { s.timing.bus x with
      silence := 0
      flywheel := ((s.timing.bus x).edgeItems pulse).1
      stray := ((s.timing.bus x).edgeItems pulse).2.1 } := by
  unfold State.edgeBit
  split
  · rw [State.busBit_bus]
    exact Timing.setBus_bus_same ..
  · exact Timing.setBus_bus_same ..

theorem State.edgeBit_phase : (s.edgeBit x pulse).phase = s.phase := by
  unfold State.edgeBit
  split
  · exact ((s.edgeStepped x pulse).busBit_kept _).phase
  · rfl

theorem State.edgeJudged_phase : (s.edgeJudged x pulse).phase = s.phase := by
  cases h : ((s.timing.bus x).edgeItems pulse).2.2 with
  | none => rw [s.edgeJudged_of_none x pulse h, State.edgeBit_phase]
  | some good => rw [s.edgeJudged_of_some x pulse h, State.judgeFrame_phase, State.edgeBit_phase]

/-- The office bit and the judgement leave the timing window as the edge found it. -/
theorem State.edgeJudged_window :
    ((s.edgeJudged x pulse).timing.bus x).window = (s.timing.bus x).window := by
  cases h : ((s.timing.bus x).edgeItems pulse).2.2 with
  | none => rw [s.edgeJudged_of_none x pulse h, State.edgeBit_bus]
  | some good => rw [s.edgeJudged_of_some x pulse h, State.judgeFrame_window, State.edgeBit_bus]

end

end

end Sys2Proof.Machine
end

section
/-!
PROOFS. A bus clock edge drives the flywheel, the office bit, the judgement and the timing window.
-/
namespace Sys2Proof.Proofs

open Sys2Proof.Machine

/-- Settles O23: the monitor's own items, then the office bit, the judgement and the window in turn. -/
theorem busClockEdgeDrivesFlywheelAndPhase : Obligations.BusClockEdgeDrivesFlywheelAndPhase := by
  unfold Obligations.BusClockEdgeDrivesFlywheelAndPhase
  intro x pulse s hs m edge fly stepped p bitAt
  have hjudged : edge.2.2 = (m.edgeItems pulse).2.2 := rfl
  have hexec : exec (.busClockEdge x pulse) s = .next ((s.edgeJudged x pulse).countEdge x) := by
    rw [exec_busClockEdge_of_ne s x pulse hs, State.busEdge_eq]
  have hwindow := s.edgeJudged_window x pulse
  refine ⟨s.edgeBit x pulse, s.edgeJudged x pulse, fun hx => if_neg hx, fun hx => ?_, ?_, ?_⟩
  · have hbit : s.edgeBit x pulse = stepped.busBit fly := if_pos hx
    have hon : stepped.timing.selector = .on x := by simpa [stepped] using hx
    have hphase : stepped.timing.phase = s.timing.phase := by simp [stepped]
    have hbuildOut : stepped.timing.buildOut = s.timing.buildOut := by simp [stepped]
    rw [hbit, State.busBit, hphase, hbuildOut]
    refine ⟨fun hlong hzero => ?_, fun hlong hfly => ?_, fun hshort hzero => ?_, fun hshort hp => ?_⟩
    · rw [if_pos hlong, if_pos hzero]
      exact exec_realignComplete_of_on _ x hs (hphase ▸ hlong) hon
    · rw [if_pos hlong, if_neg hfly]
      have hsent := stepped.officeBit_eq (phase := stepped.timing.phase + 1)
        (octets := fun _ => Vector.replicate 8 0xFF)
        fun f => (f.highwayOctets_extension (by omega)).symm
      rw [hphase] at hsent
      exact (congrArg State.sendOctets (by rw [State.modTiming, State.modTiming, hphase])).trans hsent
    · rw [if_neg (Nat.not_le.mpr hshort)]
      dsimp only
      rw [if_pos hzero]
      exact exec_officeTick_of_lt _ hs (hphase ▸ hshort)
    · rw [if_neg (Nat.not_le.mpr hshort)]
      dsimp only
      rw [if_neg hp]
      exact State.officeBit_eq _ fun f => rfl
  · rw [hjudged]
    cases hgood : (m.edgeItems pulse).2.2 with
    | none => exact s.edgeJudged_of_none x pulse hgood
    | some good =>
      dsimp only
      rw [s.edgeJudged_of_some x pulse hgood]
      refine exec_busFrameJudged_of_aligned _ x good ?_ ?_
      · rwa [State.edgeBit_phase]
      · rw [State.edgeBit_bus]
        exact BusMonitor.edgeItems_aligned hgood
  intro put
  rw [hexec]
  cases hw : m.window with
  | none => exact congrArg _ (State.countEdge_of_none _ (hwindow.trans hw))
  | some w =>
    dsimp only
    split
    · next hlt => exact congrArg _ (State.countEdge_of_lt _ (hwindow.trans hw) hlt)
    · next hge =>
      intro hcycles
      rw [exec_timingWindowEnd_of_ne _ _ _ (by rwa [State.edgeJudged_phase]), BitVec.toNat_ofNat,
        Nat.mod_eq_of_lt hcycles, State.countEdge_of_le _ (hwindow.trans hw) (by omega)]

end Sys2Proof.Proofs
end

section
/-!
SUPPORT. The journal writer's stops through an office tick and a change of selector state: reports are all
they add, and a report that no stop awaits leaves no post in progress.
-/
namespace Sys2Proof.Machine

/-- From s to t the writer stays within its stops: a bound on the stops left holds on, a post in progress
counted as one (R165). -/
def State.SpentKept (s t : State) : Prop := ∀ m, s.Spent m → t.Spent m

theorem State.SpentKept.refl (s : State) : s.SpentKept s := fun _ h => h

theorem State.SpentKept.trans {s t u : State} (h : s.SpentKept t) (k : t.SpentKept u) :
    s.SpentKept u := fun m hm => k m (h m hm)

theorem State.SpentKept.ite {s t u : State} (c : Prop) [Decidable c] (ht : s.SpentKept t)
    (hu : s.SpentKept u) : s.SpentKept (if c then t else u) := by split <;> assumption

theorem State.SpentKept.foldl {β : Type} (f : State → β → State)
    (h : ∀ (s : State) b, s.SpentKept (f s b)) (l : List β) (s : State) :
    s.SpentKept (l.foldl f s) := by
  induction l generalizing s with
  | nil => exact .refl s
  | cons b l ih => exact (h s b).trans (ih _)

theorem State.SpentKept.of_journal {s t : State} (h : t.journal = s.journal) : s.SpentKept t :=
  fun m hm => by rwa [State.Spent, h]

variable (s : State)

theorem State.post_spentKept (k : Kind) (record : Nat) (detail : List Word) :
    s.SpentKept (s.post k record detail) := by
  unfold State.post
  split
  · exact .refl s
  · exact .refl s
  · exact fun _ h => h
  · exact .ite _ (fun _ h => State.handle_spent h _) (.refl s)

theorem State.modLine_spentKept (n : LineNo) (f : Line → Line) : s.SpentKept (s.modLine n f) :=
  .of_journal rfl

/-! ## Monitors -/

theorem State.overflowMonitor_spentKept (i : MonitorNo) : s.SpentKept (s.overflowMonitor i) := by
  have hfreeze : ∀ (c : Bool) (t : State), s.SpentKept t →
      s.SpentKept (if c = true then t.modMonitorUnit fun u => { u with freeze := true } else t) :=
    fun _ _ h => .ite _ (h.trans (.of_journal rfl)) h
  have hset : s.SpentKept (s.setMonitor i { s.monitor i with overflow := true }) := .of_journal rfl
  exact .ite _ ((hfreeze _ _ hset).trans (State.post_spentKept _ _ _ _)) (hfreeze _ _ hset)

theorem State.countMonitor_spentKept (i : MonitorNo) : s.SpentKept (s.countMonitor i) :=
  .ite _ (.trans (t := s.setMonitor i _) (.of_journal rfl) (State.overflowMonitor_spentKept _ i))
    (.of_journal rfl)

theorem State.closeMonitor_spentKept (frozen : Bool) (i : MonitorNo) :
    s.SpentKept (s.closeMonitor frozen i) :=
  .ite _ (.trans (.ite _ (s.countMonitor_spentKept i) (.refl s)) (.of_journal rfl)) (.refl s)

theorem State.closeMonitors_spentKept : s.SpentKept s.closeMonitors :=
  State.SpentKept.foldl _ (fun t i => t.closeMonitor_spentKept _ i) _ s

/-! ## Spare control and the store -/

theorem State.writeSlot_spentKept (k : Fin 8) (i : Nat) (x : Slot) :
    s.SpentKept (s.writeSlot k i x) :=
  State.SpentKept.foldl (fun s b => s.setSlot b i x) (fun _ _ => .of_journal rfl) _ s

theorem State.enterSpare_spentKept (new : SpareState) (cause : SpareCause) (b : Fin 8) :
    s.SpentKept (s.enterSpare new cause b) :=
  .trans (t := s.modSpare _) (.of_journal rfl) (State.post_spentKept _ _ _ _)

theorem State.settleSpare_spentKept : s.SpentKept s.settleSpare := by
  unfold State.settleSpare
  split
  · exact .refl s
  · exact .ite _ (s.enterSpare_spentKept _ _ _) (.refl s)

theorem State.coverLine_spentKept (n : LineNo) : s.SpentKept (s.coverLine n) := by
  unfold State.coverLine
  split
  · exact .trans (t := s.setCover n _) (.of_journal rfl) (State.settleSpare_spentKept _)
  all_goals exact .refl s

theorem State.autoSwap_spentKept (b : Fin 9) : s.SpentKept (s.autoSwap b) := by
  unfold State.autoSwap
  split
  · exact .ite _ ((s.enterSpare_spentKept _ _ _).trans (State.settleSpare_spentKept _)) (.refl s)
  · exact .refl s

variable (n : LineNo)

theorem State.changeLine_spentKept (new : LineState) (cause : LineCause) :
    s.SpentKept (s.changeLine n new cause) :=
  (s.modLine_spentKept n _).trans (State.post_spentKept _ _ _ _)

theorem State.refill_spentKept (cause : LineCause) : s.SpentKept (s.refill n cause) :=
  (s.changeLine_spentKept n _ cause).trans <| (State.modLine_spentKept _ n _).trans <|
    (State.SpentKept.foldl _ (fun t _ => t.writeSlot_spentKept _ _ _) _ _).trans
      (State.coverLine_spentKept _ n)

/-! ## The window unit -/

theorem State.endWindow_spentKept : s.SpentKept (s.endWindow n) := by
  have hposted : ∀ (c : Bool) (t : State) k d, s.SpentKept t →
      s.SpentKept (if c = true then t.postLine k n d else t) :=
    fun c t k d h => .ite _ (h.trans (State.post_spentKept _ _ _ _)) h
  unfold State.endWindow
  exact (hposted _ _ _ _ (hposted _ _ _ _ (s.modLine_spentKept n _))).trans
    (State.modLine_spentKept _ n _)

theorem State.closeWindowFrame_spentKept (busTimed : Bool) :
    s.SpentKept (s.closeWindowFrame n busTimed) :=
  .ite _ (s.modLine_spentKept n _) (.ite _
    (.ite _ ((s.modLine_spentKept n _).trans (State.endWindow_spentKept _ n))
      (s.modLine_spentKept n _)) (.refl s))

/-! ## The reader -/

theorem State.enterDead_spentKept : s.SpentKept (s.enterDead n) :=
  ((s.modLine_spentKept n _).trans (State.changeLine_spentKept _ n _ _)).trans
    (State.coverLine_spentKept _ n)

theorem State.deadStage_spentKept : s.SpentKept (s.deadStage n) := by
  unfold State.deadStage
  dsimp only
  split
  · exact .refl s
  · exact .ite _ (.refl s) ((s.modLine_spentKept n _).trans (State.changeLine_spentKept _ n _ _))
  all_goals
    exact .ite _ (.ite _ (s.enterDead_spentKept n) (s.modLine_spentKept n _))
      (s.modLine_spentKept n _)

theorem State.countRead_spentKept (b : Fin 9) (x : SlotResult) :
    s.SpentKept (s.countRead n b x) := by
  unfold State.countRead
  split
  · exact .refl s
  all_goals exact .trans (t := s.setBank b _) (.of_journal rfl) (State.modLine_spentKept _ n _)

theorem State.startLine_spentKept (start : Bool) : s.SpentKept (s.startLine n start) :=
  .ite _ (s.changeLine_spentKept n _ _) (.refl s)

theorem State.tagMismatch_spentKept : s.SpentKept (s.tagMismatch n) :=
  (s.modLine_spentKept n _).trans (State.refill_spentKept _ n _)

variable (g : GroupPos)

theorem State.normalRead_spentKept (d : Decision) (fill : Nat) (start : Bool) :
    s.SpentKept (s.normalRead n g d fill start).state := by
  unfold State.normalRead
  dsimp only
  split
  · exact (s.countRead_spentKept n _ _).trans <| (State.startLine_spentKept _ n start).trans <|
      (State.post_spentKept _ _ _ _).trans <| (State.autoSwap_spentKept _ _).trans
        (State.modLine_spentKept _ n _)
  · split
    · exact (s.countRead_spentKept n _ _).trans (State.tagMismatch_spentKept _ n)
    · exact (s.countRead_spentKept n _ _).trans <| (State.startLine_spentKept _ n start).trans
        (State.modLine_spentKept _ n _)

theorem State.fillingAct_spentKept (fill : Nat) : s.SpentKept (s.fillingAct n g fill).state := by
  unfold State.fillingAct
  dsimp only
  split
  · split
    · exact s.normalRead_spentKept n g _ _ _
    · exact .refl s
  · split
    · exact .refl s
    · split
      · exact s.tagMismatch_spentKept n
      · split
        · exact (s.modLine_spentKept n _).trans (State.normalRead_spentKept _ n g _ _ _)
        · exact .refl s

theorem Acted.countSlip_spentKept {s : State} {a : Acted} (h : s.SpentKept a.state) (n : LineNo)
    (l : Line) (direction fill : Nat) : s.SpentKept (a.countSlip n l direction fill).state :=
  h.trans (.ite _ ((State.modLine_spentKept _ n _).trans (State.post_spentKept _ _ _ _))
    (State.modLine_spentKept _ n _))

theorem State.slipAct_spentKept (fill : Nat) : s.SpentKept (s.slipAct n g fill).state := by
  have hmoved : ∀ f d, s.SpentKept ((s.modLine n f).normalRead n g d fill false).state :=
    fun f d => (s.modLine_spentKept n f).trans (State.normalRead_spentKept _ n g _ _ _)
  unfold State.slipAct
  dsimp only
  split
  · exact Acted.countSlip_spentKept (hmoved _ _) n _ _ _
  · split
    · exact Acted.countSlip_spentKept (hmoved _ _) n _ _ _
    · exact s.normalRead_spentKept n g _ _ _

theorem State.runningAct_spentKept (fill : Nat) : s.SpentKept (s.runningAct n g fill).state := by
  unfold State.runningAct
  dsimp only
  split
  · exact s.slipAct_spentKept n g fill
  · split
    · exact s.slipAct_spentKept n g fill
    · split
      · exact (s.modLine_spentKept n _).trans (State.refill_spentKept _ n _)
      · exact s.normalRead_spentKept n g _ _ _

theorem State.readerAct_spentKept (fill : Nat) : s.SpentKept (s.readerAct n g fill).state := by
  unfold State.readerAct
  dsimp only
  refine (s.modLine_spentKept n fun l =>
    { l with reader := { l.reader with recentrePending := false } }).trans ?_
  split
  · exact .refl _
  · exact .refl _
  · exact .refl _
  · split
    · exact State.refill_spentKept _ n _
    · exact State.fillingAct_spentKept _ n g fill
  · split
    · exact State.refill_spentKept _ n _
    · exact State.runningAct_spentKept _ n g fill

theorem State.handOver_spentKept {s : State} {a : Acted} (h : s.SpentKept a.state) (n : LineNo)
    (fill : Nat) : s.SpentKept (State.handOver n fill a) := by
  refine h.trans (.of_journal ?_)
  unfold State.handOver State.handOctets
  dsimp only
  split <;> rfl

theorem State.readerEvent_spentKept : s.SpentKept (s.readerEvent n g) :=
  State.handOver_spentKept (((s.deadStage_spentKept n).trans (State.modLine_spentKept _ n _)).trans
    (State.readerAct_spentKept _ n g _)) n _

/-! ## The tick, the selector and the hold latch -/

theorem State.sendOctets_spentKept : s.SpentKept s.sendOctets := by
  unfold State.sendOctets
  split
  · exact .refl s
  · exact .of_journal rfl

theorem State.openFrame_spentKept : s.SpentKept s.openFrame := by
  unfold State.openFrame
  exact .of_journal rfl

theorem State.tickLine_spentKept (busTimed : Bool) : s.SpentKept (s.tickLine busTimed g n) :=
  (s.closeWindowFrame_spentKept n busTimed).trans (State.readerEvent_spentKept _ n g)

theorem State.forLines_spentKept (f : LineNo → State → State)
    (h : ∀ n (s : State), s.SpentKept (f n s)) : s.SpentKept (s.forLines f) :=
  State.SpentKept.foldl (fun s n => f n s) (fun s n => h n s) _ s

theorem State.tick_spentKept : s.SpentKept s.tick := by
  have hticked : s.SpentKept (s.modTiming Timing.tick) := .of_journal rfl
  unfold State.tick
  exact hticked.trans (((State.closeMonitors_spentKept _).trans (State.openFrame_spentKept _)).trans
    ((State.forLines_spentKept _ _ fun n s => s.tickLine_spentKept n _ _).trans
      (State.sendOctets_spentKept _)))

theorem State.changeSelector_spentKept (new : SelectorState) (cause : SelectorCause) :
    s.SpentKept (s.changeSelector new cause) := by
  have hposted : ∀ k r d, s.SpentKept ((s.modTiming fun t => t.switch new).post k r d) :=
    fun k r d => .trans (t := s.modTiming _) (.of_journal rfl) (State.post_spentKept _ k r d)
  exact .ite _ ((hposted _ _ _).trans (State.tick_spentKept _)) (hposted _ _ _)

theorem State.takeSelector_spentKept (cause : SelectorCause) : s.SpentKept (s.takeSelector cause) :=
  .ite _ (.refl s) (s.changeSelector_spentKept _ _)

theorem State.latchHold_spentKept : s.SpentKept s.latchHold :=
  .ite _ (.refl s) <| .trans (t := s.modTiming _) (.of_journal rfl) <|
    (State.post_spentKept _ _ _ _).trans (State.takeSelector_spentKept _ _)

/-- With no post in progress and no stop to come, the hold latch leaves none in progress. -/
theorem State.latchHold_current (hc : s.journal.current = none) (hp : s.journal.plans = []) :
    s.latchHold.journal.current = none := by
  have hspent : s.latchHold.Spent 0 :=
    s.latchHold_spentKept 0 (.of_none hc (by rw [Journal.stopsAhead, hp]; exact Nat.le_refl 0))
  by_contra h
  exact Nat.not_lt_zero _ (hspent.2 h)

theorem State.setHoldreq_of_eq {level : Bool} (h : s.holdreq = level) : s.setHoldreq level = s := by
  subst h
  rfl

/-- Once taken, HOLDREQ is latched (R96). -/
theorem State.latchHold_holdLatch : s.latchHold.timing.holdLatch = true := by
  cases h : s.timing.holdLatch with
  | true => rw [s.latchHold_of_set h, h]
  | false =>
    rw [s.latchHold_of_clear h, State.takeSelector_holdLatch, State.post_timing]
    rfl

theorem exec_holdLatch_of_ne (h : s.phase ≠ .inReset) :
    exec .holdLatch s = .next (s.setHoldreq true).latchHold := by
  show execHoldLatch s = _
  rw [execHoldLatch, State.outOfReset_of_ne h, if_pos rfl]

theorem exec_localCycle_of_ne (holdreq : Bool) (strikes : List Strike) (h : s.phase ≠ .inReset) :
    exec (.localOscillatorCycle holdreq strikes) s = .next (s.localCycle holdreq strikes) := by
  show execLocalOscillatorCycle holdreq strikes s = _
  rw [execLocalOscillatorCycle, State.outOfReset_of_ne h, if_pos rfl]

/-- With no post in progress and nothing that strikes, the cycle latches HOLDREQ first (R96). -/
theorem State.localCycle_of_idle (h : s.journal.current = none) :
    s.localCycle true [] =
      (((s.setHoldreq true).latchHold.cycleBus .a).cycleBus .b).cycleNco.cyclePatrol [] := by
  rw [State.localCycle, List.foldl_nil, State.goOn_of_none h]
  rfl

end Sys2Proof.Machine
end

section
/-!
PROOFS. HOLDREQ sets the hold latch and takes the selector to HOLDOVER.
-/
namespace Sys2Proof.Proofs

open Sys2Proof.Machine

/-- Settles O19: the latch by the two cases of its state, the local cycle by what it latches first, and
the pin alone while RESETn is asserted. -/
theorem holdreqLatchesTheSelectorInHoldover : Obligations.HoldreqLatchesTheSelectorInHoldover := by
  unfold Obligations.HoldreqLatchesTheSelectorInHoldover
  refine ⟨fun s hs => ⟨fun hl => ?_, fun hl => ?_⟩, fun s u hs hc hp hu => ?_, fun holdreq s hs => ?_⟩
  · rw [exec_holdLatch_of_ne s hs, State.latchHold_of_set (s.setHoldreq true) hl]
    rfl
  · refine ⟨_, exec_holdLatch_of_ne s hs, State.latchHold_of_clear _ hl,
      State.latchHold_holdLatch _, ?_⟩
    rw [State.latchHold_of_clear (s.setHoldreq true) hl, State.takeSelector_selector, State.post_timing]
    exact Timing.nextSelector_of_latch _ rfl
  · rw [exec_holdLatch_of_ne s hs] at hu
    cases hu
    have hkept := (s.setHoldreq true).latchHold_kept
    have hcurrent := (s.setHoldreq true).latchHold_current hc hp
    have hholdreq : (s.setHoldreq true).latchHold.setHoldreq true = (s.setHoldreq true).latchHold :=
      State.setHoldreq_of_eq _ hkept.holdreq
    rw [exec_localCycle_of_ne _ _ _ hs, exec_localCycle_of_ne _ _ _ (by rw [hkept.phase]; exact hs),
      State.localCycle_of_idle _ hc, State.localCycle_of_idle _ hcurrent, hholdreq,
      State.latchHold_of_set _ (State.latchHold_holdLatch _)]
  · show execLocalOscillatorCycle holdreq [] s = _
    rw [execLocalOscillatorCycle, if_neg (by simp [State.outOfReset, hs])]
    rfl

end Sys2Proof.Proofs
end

section
/-!
SUPPORT. Spare control: the marks a start sets, what a start of MIRROR or RESTORE writes, the store
request's checks, and the read that finds a slot UNCORRECTABLE.
-/
namespace Sys2Proof.Machine

/-! ## Coverage marks -/

theorem foldl_set_getElem {α : Type} {m : Nat} (f : Fin m → α) (l : List (Fin m))
    (v : Vector α m) (i : Fin m) :
    (l.foldl (fun v n => v.set n.val (f n)) v)[i] = if i ∈ l then f i else v[i] := by
  induction l generalizing v with
  | nil => simp
  | cons a l ih =>
    rw [List.foldl_cons, ih]
    by_cases hl : i ∈ l
    · simp [hl]
    · by_cases ha : i = a
      · simp [ha]
      · have hne : a.val ≠ i.val := fun h => ha (Fin.ext h.symm)
        simp [hl, ha, Vector.getElem_set_ne, hne]

/-- The marks and counts of R120, line by line. -/
theorem State.startCoverage_eq (s : State) (k : Fin 8) :
    s.startCoverage k = Vector.ofFn fun n => { mark := startMark k (s.line n) } := by
  ext1 i hi
  have hset := foldl_set_getElem (fun n : LineNo => ({ mark := startMark k (s.line n) } : Coverage))
    (List.finRange 64) clearedCoverage ⟨i, hi⟩
  rw [if_pos (List.mem_finRange _)] at hset
  rw [Vector.getElem_ofFn]
  exact hset

theorem clearedCoverage_eq : clearedCoverage = Vector.ofFn fun _ => { mark := .notConcerned } := by
  ext1 i hi
  simp [clearedCoverage]

/-- A line's mark at a start on bank k, by whether a frame is still to come from it (R120). -/
theorem startMark_eq (k : Fin 8) (l : Line) :
    startMark k l = if ¬l.placement.bank = k then .notConcerned
      else if l.state = .hunting ∨ l.state = .filling ∨ l.state = .running then .pending
      else .covered := by
  unfold startMark
  split
  · cases hl : l.state <;> simp
  · rfl

/-- The same mark, by whether no frame can come from the line (R120). -/
theorem startMark_eq_of_out (k : Fin 8) (l : Line) :
    startMark k l = if l.placement.bank ≠ k then .notConcerned
      else if l.state = .out ∨ l.state = .dead then .covered else .pending := by
  unfold startMark
  split
  · next h => cases hl : l.state <;> simp [h]
  · rfl

theorem startMark_eq_pending_iff (k : Fin 8) (l : Line) :
    startMark k l = .pending ↔
      l.placement.bank = k ∧ (l.state = .hunting ∨ l.state = .filling ∨ l.state = .running) := by
  rw [startMark_eq]
  split
  · next h => simp [h]
  · next h => split <;> simp_all

theorem Spare.outstanding_eq_zero_iff (x : Spare) :
    x.outstanding = 0 ↔ ∀ n : LineNo, x.coverage[n].mark ≠ .pending := by
  simp [Spare.outstanding, List.countP_eq_zero]

/-! ## Starts -/

/-- Some line of bank k would be PENDING at a start on it (R120). -/
abbrev State.outstandingOn (s : State) (k : Fin 8) : Prop :=
  ∃ n : LineNo, (s.line n).placement.bank = k ∧
    ((s.line n).state = .hunting ∨ (s.line n).state = .filling ∨ (s.line n).state = .running)

/-- An operation completes into a state without one (R122). -/
theorem SpareState.completed_operating (x : SpareState) : x.completed.operating = none := by
  cases x <;> rfl

section
variable (s : State)

/-- Spare control put in a state with its marks and its cause, every count 0, and SPARE_PHASE posted
(R120, R129). -/
def State.putSpare (new : SpareState) (marks : LineNo → Mark) (cause : SpareCause)
    (detail : List Word) : State :=
  ({ s with spare := { s.spare with
    state := new, lastCause := cause
    coverage := Vector.ofFn fun n => { mark := marks n } } } : State).post .sparePhase 2 detail

theorem State.putSpare_spare (new : SpareState) (marks : LineNo → Mark) (cause : SpareCause)
    (detail : List Word) :
    (s.putSpare new marks cause detail).spare = { s.spare with
      state := new, lastCause := cause
      coverage := Vector.ofFn fun n => { mark := marks n } } := by
  rw [State.putSpare, State.post_spare]

theorem State.enterSpare_of_operating {new : SpareState} {k : Fin 8} (h : new.operating = some k)
    (cause : SpareCause) (bank : Fin 8) :
    s.enterSpare new cause bank = s.putSpare new (fun n => startMark k (s.line n)) cause
      [word s.spare.state.code, word new.code, word bank.val, word cause.code] := by
  unfold State.enterSpare State.putSpare
  rw [h, ← s.startCoverage_eq]
  rfl

theorem State.enterSpare_of_none {new : SpareState} (h : new.operating = none)
    (cause : SpareCause) (bank : Fin 8) :
    s.enterSpare new cause bank = s.putSpare new (fun _ => .notConcerned) cause
      [word s.spare.state.code, word new.code, word bank.val, word cause.code] := by
  unfold State.enterSpare State.putSpare
  rw [h, ← clearedCoverage_eq]
  rfl

theorem State.enterSpare_state (new : SpareState) (cause : SpareCause) (bank : Fin 8) :
    (s.enterSpare new cause bank).spare.state = new := by
  simp [State.enterSpare, State.modSpare]

/-- With the marks of a start on bank k set, nothing is outstanding just where no line of k is active
(R121). -/
theorem State.putSpare_outstanding_eq_zero_iff (new : SpareState) (k : Fin 8) (cause : SpareCause)
    (detail : List Word) :
    (s.putSpare new (fun n => startMark k (s.line n)) cause detail).spare.outstanding = 0 ↔
      ¬s.outstandingOn k := by
  simp [Spare.outstanding_eq_zero_iff, State.putSpare_spare, startMark_eq_pending_iff]

/-- A start on bank k sets the marks of R120, and with no line PENDING completes at once (R122,
R129). -/
theorem State.startSpare_eq {new : SpareState} {k : Fin 8} (h : new.operating = some k)
    (cause : SpareCause) (bank : Fin 8) :
    s.startSpare new cause bank =
      let started := s.putSpare new (fun n => startMark k (s.line n)) cause
        [word s.spare.state.code, word new.code, word bank.val, word cause.code]
      if s.outstandingOn k then started
      else started.putSpare new.completed (fun _ => .notConcerned) .complete
        [word new.code, word new.completed.code, word k.val, 3] := by
  unfold State.startSpare State.settleSpare
  rw [s.enterSpare_state, h]
  dsimp only
  rw [State.enterSpare_of_none _ new.completed_operating, s.enterSpare_state,
    s.enterSpare_of_operating h]
  simp only [s.putSpare_outstanding_eq_zero_iff, ite_not]
  rfl

theorem State.takeReturn_of_spared {k : Fin 8} (h : s.spare.state = .spared k) :
    s.takeReturn = s.startSpare (.restore k) .returned k := by
  unfold State.takeReturn
  rw [h]

/-- Where an operation may complete, spare control stays as it is or takes the state it completes into
(R122). -/
theorem State.settleSpare_state :
    s.settleSpare.spare.state = s.spare.state ∨
      s.settleSpare.spare.state = s.spare.state.completed := by
  unfold State.settleSpare
  split
  · exact .inl rfl
  · split
    · exact .inr (s.enterSpare_state _ _ _)
    · exact .inl rfl

theorem State.coverLine_state (n : LineNo) :
    (s.coverLine n).spare.state = s.spare.state ∨
      (s.coverLine n).spare.state = s.spare.state.completed := by
  unfold State.coverLine
  split
  · exact (s.setCover n _).settleSpare_state
  · exact .inl rfl
  · exact .inl rfl

/-- An action taken while READY is 1 does what it does or nothing (R156). -/
theorem State.whenReady_eq_or {t u : State} (h : s.whenReady t = .next u) : u = t ∨ u = s := by
  cases h
  exact ite_eq_or_eq _ _ _

theorem State.takeCancel_of_mirror {k : Fin 8} (h : s.spare.state = .mirror k) :
    s.takeCancel = s.enterSpare .standby .cancel k := by
  unfold State.takeCancel
  rw [h]

/-! ## The automatic swap -/

/-- The spare bank's count, a count below AUTO_LIMIT, and any count with spare control out of STANDBY
or AUTO_LIMIT 0 start nothing (R127). -/
theorem State.autoSwap_of_not {b : Fin 9} (h : b = 8 ∨ s.spare.state ≠ .standby ∨
    s.spare.autoLimit = 0 ∨ (s.bank b).uncorrected.toNat < s.spare.autoLimit) :
    s.autoSwap b = s := by
  unfold State.autoSwap
  split
  · next hb =>
    refine if_neg ?_
    rintro ⟨hstandby, hlimit, hcount⟩
    rcases h with h | h | h | h
    · rw [h] at hb
      exact absurd hb (by decide)
    · exact h hstandby
    · exact hlimit h
    · omega
  · rfl

/-- A working bank's count at the limit starts a swap of it in STANDBY (R127). -/
theorem State.autoSwap_of_reached {b : Fin 9} {k : Fin 8} (hb : b.val = k.val)
    (hstandby : s.spare.state = .standby) (hlimit : s.spare.autoLimit ≠ 0)
    (hcount : s.spare.autoLimit ≤ (s.bank b).uncorrected.toNat) :
    s.autoSwap b = s.startSpare (.mirror k) .auto k := by
  have hk : (⟨b.val, hb ▸ k.isLt⟩ : Fin 8) = k := Fin.ext hb
  unfold State.autoSwap
  rw [dif_pos (hb ▸ k.isLt), if_pos ⟨hstandby, hlimit, hcount⟩, hk]

theorem State.autoSwap_line (b : Fin 9) (n : LineNo) : (s.autoSwap b).line n = s.line n :=
  (s.autoSwap_linesKept (own := ∅) b).line n (Set.notMem_empty n)

/-! ## Store requests -/

section
variable (q : StoreRequest)

/-- The checks of a store request in their order (R123, R159). -/
theorem State.checkStore_eq :
    s.checkStore q =
      if 3 < q.spareAction.toNat then .refused .badField 1
      else if 1 < q.clearBankCounts.toNat then .refused .badField 3
      else if q.spareAction = 1 ∧ 7 < q.swapBank.toNat then .refused .badBank 0
      else match s.spare.state.refuses q.spareAction.toNat with
        | some r => .refused r 0
        | none => .accepted (movedMask [(4, q.limit != q.autoLimit.toNat)]) := by
  unfold State.checkStore
  simp only [firstBadField_cons, firstBadField_nil, decide_eq_true_eq, ← Nat.not_lt, ite_not]
  by_cases haction : 3 < q.spareAction.toNat
  · simp only [if_pos haction]
    rfl
  by_cases hclear : 1 < q.clearBankCounts.toNat
  · simp only [if_neg haction, if_pos hclear]
    rfl
  simp only [if_neg haction, if_neg hclear] <;> rfl

theorem StoreRequest.limit_eq : q.limit = min 255 q.autoLimit.toNat := by
  rw [StoreRequest.limit, clamp_eq (by decide)]
  omega

/-- An accepted store request leaves the common heads alone. -/
theorem State.applyStore_head (r : Record) : (s.applyStore q).head r = s.head r := by
  rw [State.head, State.head, (s.applyStore_quiet q).reportHeads]

/-- Without a spare action an accepted store request changes only AUTO_LIMIT of spare control (R123). -/
theorem State.applyStore_spare_of_none (ha : q.spareAction = 0) :
    (s.applyStore q).spare = { s.spare with autoLimit := min 255 q.autoLimit.toNat } := by
  unfold State.applyStore
  rw [ha, q.limit_eq]
  dsimp only
  rw [if_neg (by decide), if_neg (by decide), if_neg (by decide)]
  split <;> rfl

/-- A store request taken without a spare action leaves the state of spare control, and where its
fields are in their lists puts AUTO_LIMIT in force (R123, R127). -/
theorem State.takeStoreRequest_spare_of_none (ha : q.spareAction = 0) :
    (s.takeStoreRequest q).spare = if q.clearBankCounts.toNat ≤ 1 then
      { s.spare with autoLimit := min 255 q.autoLimit.toNat } else s.spare := by
  rw [State.takeStoreRequest, State.checkStore_eq, ha, if_neg (by decide)]
  by_cases hclear : 1 < q.clearBankCounts.toNat
  · rw [if_pos hclear, if_neg (Nat.not_le.mpr hclear), State.answerRequest_refused,
      State.setHead_spare, State.post_spare]
  · rw [if_neg hclear, if_pos (Nat.not_lt.mp hclear), if_neg (fun h => absurd h.1 (by decide))]
    exact s.applyStore_spare_of_none q ha

/-- RETURN suits SPARED alone (R125). -/
theorem SpareState.refuses_return {x : SpareState} (h : ∀ k, x ≠ .spared k) :
    x.refuses 2 = some .spareBusy := by
  cases x with
  | spared k => exact absurd rfl (h k)
  | standby => rfl
  | mirror k => rfl
  | restore k => rfl

/-- The checks of a request with RETURN whose fields are in their lists (R123, R125). -/
theorem State.checkStore_of_return (ha : q.spareAction = 2) (hc : q.clearBankCounts = 0) :
    s.checkStore q = match s.spare.state.refuses 2 with
      | some r => .refused r 0
      | none => .accepted (movedMask [(4, q.limit != q.autoLimit.toNat)]) := by
  rw [State.checkStore_eq, ha, hc, if_neg (by decide), if_neg (by decide),
    if_neg (fun h => absurd h.1 (by decide))]
  rfl

/-- A store request with RETURN taken in SPARED (R125). -/
theorem State.takeStoreRequest_of_return (ha : q.spareAction = 2) (hc : q.clearBankCounts = 0)
    (hlimit : q.autoLimit.toNat ≤ 255) {k : Fin 8} (hk : s.spare.state = .spared k) :
    s.takeStoreRequest q =
      ({ s with spare := { s.spare with autoLimit := q.autoLimit.toNat } } : State).takeReturn.setHead
        .store { s.head .store with
          appser := q.serial, actser := q.serial, result := .accepted, reason := .none
          detail := 0 } := by
  have happlied : s.applyStore q =
      ({ s with spare := { s.spare with autoLimit := q.autoLimit.toNat } } : State).takeReturn := by
    rw [State.applyStore, ha, hc, q.limit_eq, Nat.min_eq_right hlimit]
    rfl
  have hmask : movedMask [(4, q.limit != q.autoLimit.toNat)] = 0 := by
    rw [q.limit_eq, Nat.min_eq_right hlimit, bne_self_eq_false]
    rfl
  have hcheck : s.checkStore q = .accepted 0 := by
    rw [s.checkStore_of_return q ha hc, hk, hmask]
    rfl
  rw [State.takeStoreRequest, hcheck, State.answerRequest, s.applyStore_head, happlied]
  rfl

/-- A store request with RETURN taken out of SPARED (R125, R159). -/
theorem State.takeStoreRequest_of_busy (ha : q.spareAction = 2) (hc : q.clearBankCounts = 0)
    (hk : ∀ k, s.spare.state ≠ .spared k) :
    s.takeStoreRequest q = (s.post .requestRefused 2 [q.serial, 7, 0]).setHead .store
      { s.head .store with
        appser := q.serial, result := .refused, reason := .spareBusy, detail := 0 } := by
  rw [State.takeStoreRequest, s.checkStore_of_return q ha hc, SpareState.refuses_return hk]
  exact s.answerRequest_refused _ _ _ _ _

end

/-! ## The read of an UNCORRECTABLE slot -/

theorem Slot.result_of_uncorrectable {x : Slot} (h : .uncorrectable ∈ x.conditions.toList) :
    x.result = .uncorrectable := by
  unfold Slot.result
  rw [if_pos (List.any_eq_true.mpr ⟨_, h, rfl⟩)]

theorem State.normalRead_of_uncorrectable (n : LineNo) (g : GroupPos) (d : Decision) (fill : Nat)
    (start : Bool) {b : Fin 9} {i : Nat}
    (hb : s.spare.state.readBank (s.line n).placement.bank = b)
    (hi : (s.line n).placement.slotAt (s.line n).ring.readIndex = i)
    (hx : (s.slot b i).result = .uncorrectable) :
    s.normalRead n g d fill start =
      { state := ((((s.countRead n b .uncorrectable).startLine n start).postLine .storeUncorrectable n
          [word b.val, word i, word (s.line n).ring.readIndex, word (s.slot b i).uncorrectableSet,
            word d.code]).autoSwap b).advanceRing n 1
        decision := d, fill := some fill, uncorrected := 1 } := by
  subst hb hi
  unfold State.normalRead
  simp only [hx]

theorem State.countRead_uncorrectable (n : LineNo) (b : Fin 9) :
    s.countRead n b .uncorrectable =
      (s.setBank b { s.bank b with uncorrected := (s.bank b).uncorrected + 1 }).setLine n
        { s.line n with counters := { (s.line n).counters with
          storeUncorrected := (s.line n).counters.storeUncorrected + 1 } } := rfl

theorem State.advanceRing_eq (n : LineNo) (k : Nat) {x : Ring} {p : Placement}
    (hx : (s.line n).ring = x) (hp : (s.line n).placement = p) :
    s.advanceRing n k = s.setLine n { s.line n with ring := x.advance p.capacity k } := by
  subst hx hp
  rfl

/-- The start of a FILLING line is its change to RUNNING with LINE_STATE (R48). -/
theorem State.startLine_setLine (n : LineNo) {m : Line} (start : Bool)
    (h : start = true → m.state = .filling) :
    (s.setLine n m).startLine n start =
      if start = true then
        (s.setLine n { m with state := .running, lastCause := .started }).post .lineState
          (16 + n.val) [2, 3, 5]
      else s.setLine n m := by
  unfold State.startLine
  split
  · next hs =>
    simp only [State.changeLine, State.modLine, State.setLine_line_same, State.setLine_setLine, h hs]
    rfl
  · rfl

theorem State.startLine_ring (n : LineNo) (start : Bool) :
    ((s.startLine n start).line n).ring = (s.line n).ring := by
  unfold State.startLine State.changeLine State.postLine
  split <;> simp

theorem State.startLine_placement (n : LineNo) (start : Bool) :
    ((s.startLine n start).line n).placement = (s.line n).placement := by
  unfold State.startLine State.changeLine State.postLine
  split <;> simp

end

end Sys2Proof.Machine
end

section
/-!
PROOFS. RETURN, and the automatic swap.
-/
namespace Sys2Proof.Proofs

open Sys2Proof.Machine

/-- Settles O50: RETURN by whether a line is PENDING at its start, the request by whether spare
control is in SPARED, which alone decides its checks. -/
theorem returnRestoresTheBank : Obligations.ReturnRestoresTheBank := by
  unfold Obligations.ReturnRestoresTheBank
  intro q s hs ha hc hlimit h
  have hexec (r : StoreRequest) : exec (.storeRequest r) s = .next (s.takeStoreRequest r) :=
    s.whenReady_of_ready hs _
  refine ⟨?_, fun hbusy => ?_, fun bank => ?_⟩
  · intro k hk entered concerned active returned
    have hreturned (t : State) (ht : t.spare.state = .spared k) (hl : t.lines = s.lines) :
        t.takeReturn = returned t := by
      have hline (n : LineNo) : t.line n = s.line n := by rw [State.line, State.line, hl]
      have hmarks : (fun n => startMark k (t.line n)) = fun n => if ¬concerned n then .notConcerned
          else if active n then .pending else .covered :=
        funext fun n => by rw [hline, startMark_eq]
      have houtstanding : t.outstandingOn k ↔ ∃ n, concerned n ∧ active n := by
        simp only [State.outstandingOn, hline, concerned, active]
      rw [t.takeReturn_of_spared ht, t.startSpare_eq (k := k) rfl, ht, hmarks]
      exact if_congr houtstanding rfl rfl
    refine ⟨(s.whenReady_of_ready hs _).trans (congrArg _ (hreturned s hk rfl)), ?_⟩
    rw [hexec, s.takeStoreRequest_of_return q ha hc hlimit hk,
      hreturned { s with spare := { s.spare with autoLimit := q.autoLimit.toNat } } hk rfl]
  · rw [hexec, s.takeStoreRequest_of_busy q ha hc hbusy]
  · rw [hexec, hexec]
    by_cases hspared : ∃ k, s.spare.state = .spared k
    · obtain ⟨k, hk⟩ := hspared
      rw [s.takeStoreRequest_of_return q ha hc hlimit hk,
        s.takeStoreRequest_of_return { q with swapBank := bank } ha hc hlimit hk]
    · have hbusy := not_exists.mp hspared
      rw [s.takeStoreRequest_of_busy q ha hc hbusy,
        s.takeStoreRequest_of_busy { q with swapBank := bank } ha hc hbusy]

/-- Settles O51: the swap as a start of MIRROR, the read that counts by the order of its parts, and
what starts none by the state each leaves. -/
theorem automaticSwapStartsAMirror : Obligations.AutomaticSwapStartsAMirror := by
  unfold Obligations.AutomaticSwapStartsAMirror
  refine ⟨?_, ?_, ?_, ?_, ?_⟩
  · intro s b x count
    refine ⟨s.autoSwap_of_not, fun k hb hstandby hlimit hcount => ?_⟩
    intro cleared marks outstanding taken
    rw [s.autoSwap_of_reached hb hstandby hlimit hcount, s.startSpare_eq (k := k) rfl, hstandby]
    simp only [startMark_eq_of_out]
    refine ⟨fun ho => if_pos ho, fun ho => (if_neg ho).trans ?_⟩
    rw [State.putSpare, State.putSpare_spare, ← clearedCoverage_eq]
    rfl
  · intro s n g d fill l b i x hstate hx m counted started swapped
    have hstarted :
        (s.countRead n b .uncorrectable).startLine n (l.state == .filling) = started := by
      rw [State.countRead_uncorrectable, State.startLine_setLine _ n _ beq_iff_eq.mp]
      simp only [beq_iff_eq]
      rfl
    have hline : swapped.line n = started.line n :=
      (State.autoSwap_line _ b n).trans (State.post_line _ _ _ _ n)
    have hring : (swapped.line n).ring = l.ring := by
      rw [hline, ← hstarted, State.startLine_ring, State.countRead_uncorrectable,
        State.setLine_line_same]
    have hplacement : (swapped.line n).placement = l.placement := by
      rw [hline, ← hstarted, State.startLine_placement, State.countRead_uncorrectable,
        State.setLine_line_same]
    refine (s.normalRead_of_uncorrectable n g d fill _ rfl rfl
      (Slot.result_of_uncorrectable hx)).trans ?_
    rw [hstarted]
    congr 1
    exact swapped.advanceRing_eq n 1 hring hplacement
  · intro q s t hs ht ha
    cases (s.whenReady_of_ready hs _).symm.trans ht
    rw [s.takeStoreRequest_spare_of_none q ha]
    split <;> exact ⟨rfl, rfl⟩
  · intro s n k hk
    have hcovered := s.coverLine_state n
    rwa [hk] at hcovered
  · intro s t k hk ht
    rcases s.whenReady_eq_or ht with rfl | rfl
    · exact .inr (by rw [s.takeCancel_of_mirror hk, s.enterSpare_state])
    · exact .inl hk

end Sys2Proof.Proofs
end

section
/-!
SUPPORT. The monitor unit: what a line adds to a sample, a counted sample with its wrap, a monitor
request's checks, settings and actions, and what UNFREEZE clears.
-/
namespace Sys2Proof.Machine

/-! ## Samples -/

section
variable (level : Nat) (x : Gathered)

theorem lineSample_linesNotRunning :
    lineSample .linesNotRunning level x =
      if x.state = .hunting ∨ x.state = .filling ∨ x.state = .dead then 1 else 0 := by
  unfold lineSample bit
  simp only [Bool.or_eq_true, beq_iff_eq, or_assoc]

theorem lineSample_fillAtOrAbove [Decidable (∃ f, x.fill = some f ∧ level ≤ f)] :
    lineSample .fillAtOrAbove level x = if ∃ f, x.fill = some f ∧ level ≤ f then 1 else 0 := by
  obtain ⟨_, _, _, _, _, _, _, _, _, fill⟩ := x
  cases fill <;> simp [lineSample, bit]

theorem lineSample_fillBelow [Decidable (∃ f, x.fill = some f ∧ f < level)] :
    lineSample .fillBelow level x = if ∃ f, x.fill = some f ∧ f < level then 1 else 0 := by
  obtain ⟨_, _, _, _, _, _, _, _, _, fill⟩ := x
  cases fill <;> simp [lineSample, bit]

end

theorem MonitorUnit.sample_of_officeFrames (u : MonitorUnit) {c : MonitorSettings}
    (h : c.event = .officeFrames) : u.sample c = 1 := by
  unfold MonitorUnit.sample
  rw [h]

theorem MonitorUnit.sample_of_line (u : MonitorUnit) {c : MonitorSettings} {n : LineNo}
    (h : c.event ≠ .officeFrames) (hline : c.line = some n) :
    u.sample c = lineSample c.event c.level u.gathered[n] := by
  unfold MonitorUnit.sample
  rw [hline]
  split
  · next he => exact absurd he h
  · rfl

theorem MonitorUnit.sample_of_all_lines (u : MonitorUnit) {c : MonitorSettings}
    (h : c.event ≠ .officeFrames) (hline : c.line = none) :
    u.sample c =
      ((List.finRange 64).map fun n => lineSample c.event c.level u.gathered[n]).sum := by
  unfold MonitorUnit.sample
  rw [hline]
  split
  · next he => exact absurd he h
  · rfl

/-! ## Counting -/

theorem OverflowAction.freezes_iff (a : OverflowAction) :
    a.freezes = true ↔ a = .freezeAll ∨ a = .journalFreeze := by
  cases a <;> simp [OverflowAction.freezes]

theorem OverflowAction.posts_iff (a : OverflowAction) :
    a.posts = true ↔ a = .journal ∨ a = .journalFreeze := by
  cases a <;> simp [OverflowAction.posts]

theorem word_bit (b : Bool) : word (bit b) = if b = true then 1 else 0 := by
  cases b <;> rfl

theorem Monitor.increment_eq (m : Monitor) (x : Nat) :
    m.increment x = if m.settings.threshold = 0 then x
      else if m.settings.holds x && (!m.settings.edge || !m.edgeHistory) then 1 else 0 := by
  unfold Monitor.increment bit
  cases m.settings.edge <;> simp

/-- An armed monitor after a counted sample, its arming at the same tick included (R133, R137). -/
def Monitor.counted (m : Monitor) (x : Nat) : Monitor :=
  { m with
    count := m.count + BitVec.ofNat 32 (m.increment x)
    edgeHistory := m.nextHistory x
    overflow := m.overflow || decide (2 ^ 32 ≤ m.count.toNat + m.increment x)
    armed := true }

theorem ofNat_toNat_add {w : Nat} (c : BitVec w) (k : Nat) :
    BitVec.ofNat w (c.toNat + k) = c + BitVec.ofNat w k := by
  rw [BitVec.ofNat_add, BitVec.ofNat_toNat, BitVec.setWidth_eq]

section
variable (s : State) (i : MonitorNo)

theorem State.setMonitor_setMonitor (x y : Monitor) :
    (s.setMonitor i x).setMonitor i y = s.setMonitor i y := by
  simp [State.setMonitor]

/-- A report and a write to a monitor do not meet. -/
theorem State.post_setMonitor (x : Monitor) (k : Kind) (record : Nat) (detail : List Word) :
    (s.post k record detail).setMonitor i x = (s.setMonitor i x).post k record detail := by
  rw [State.post_of_agree (t := s.setMonitor i x) (s := s) rfl rfl rfl rfl rfl, State.post_frame]
  rfl

/-- What a wrap does besides setting OVF: the freeze and the report (R138). -/
def State.reportWrap (m : Monitor) : State :=
  let t := if m.settings.overflowAction.freezes then
      s.modMonitorUnit fun u => { u with freeze := true }
    else s
  if m.settings.overflowAction.posts then
    t.post .monitorOverflow (3 + i.val) (overflowDetail i m m.count t.monitorUnit.freeze)
  else t

theorem State.overflowMonitor_eq :
    s.overflowMonitor i =
      (s.setMonitor i { s.monitor i with overflow := true }).reportWrap i (s.monitor i) := rfl

theorem State.reportWrap_monitor (m : Monitor) (j : MonitorNo) :
    (s.reportWrap i m).monitor j = s.monitor j := by
  unfold State.reportWrap
  cases m.settings.overflowAction.freezes <;> cases m.settings.overflowAction.posts <;>
    simp [State.monitor]

theorem State.reportWrap_setMonitor (m x : Monitor) :
    (s.reportWrap i m).setMonitor i x = (s.setMonitor i x).reportWrap i m := by
  unfold State.reportWrap
  cases m.settings.overflowAction.freezes <;> cases m.settings.overflowAction.posts <;>
    simp only [Bool.false_eq_true, if_true, if_false, State.post_setMonitor] <;> rfl

theorem State.closeMonitor_of_disabled (frozen : Bool)
    (h : (s.monitor i).settings.enabled = false) : s.closeMonitor frozen i = s :=
  if_neg (by simp [h])

/-- A monitor that may not count is armed and no more (R133, R139). -/
theorem State.closeMonitor_of_standing {frozen : Bool}
    (h : (s.monitor i).settings.enabled = true)
    (hstands : (s.monitor i).armed = false ∨ frozen = true) :
    s.closeMonitor frozen i = s.setMonitor i { s.monitor i with armed := true } := by
  have hnot : ((s.monitor i).armed && !frozen) = false := by
    rcases hstands with h | h <;> simp [h]
  unfold State.closeMonitor
  rw [if_pos h, hnot]
  rfl

/-- An armed monitor that the freeze does not hold counts its sample (R137, R138). -/
theorem State.closeMonitor_of_armed (h : (s.monitor i).settings.enabled = true)
    (harmed : (s.monitor i).armed = true) :
    s.closeMonitor false i =
      let m := s.monitor i
      let x := s.monitorUnit.sample m.settings
      let t := s.setMonitor i (m.counted x)
      if 2 ^ 32 ≤ m.count.toNat + m.increment x then t.reportWrap i (m.counted x) else t := by
  have hclose : s.closeMonitor false i =
      (s.countMonitor i).setMonitor i { (s.countMonitor i).monitor i with armed := true } := by
    unfold State.closeMonitor
    rw [if_pos h, harmed]
    rfl
  rw [hclose, State.countMonitor]
  dsimp only
  split
  · next hwraps =>
    rw [if_pos (by omega), State.overflowMonitor_eq, State.reportWrap_monitor,
      State.reportWrap_setMonitor, Monitor.counted, decide_eq_true (by omega), Bool.or_true,
      ← ofNat_toNat_add]
    simp only [State.setMonitor_setMonitor, State.setMonitor_monitor_same]
    rfl
  · next hwraps =>
    rw [if_neg (by omega), State.setMonitor_setMonitor, State.setMonitor_monitor_same,
      Monitor.counted, decide_eq_false (by omega), Bool.or_false, ofNat_toNat_add]

end

/-! ## Monitor requests -/

/-- The number of the first field out of its list, 0 standing for none. -/
theorem firstBadField_getD_cons (i : Nat) (ok : Bool) (l : List (Nat × Bool)) :
    (firstBadField ((i, ok) :: l)).getD 0 = if ok = true then (firstBadField l).getD 0 else i := by
  cases ok <;> rfl

theorem fst_mem_of_firstBadField {l : List (Nat × Bool)} {i : Nat} (h : firstBadField l = some i) :
    i ∈ l.map (·.1) := by
  obtain ⟨f, hf, rfl⟩ := Option.map_eq_some_iff.mp h
  exact List.mem_map_of_mem (List.mem_of_find?_eq_some hf)

theorem monitorEventOf_code (e : MonitorEvent) : monitorEventOf e.code = some e := by
  cases e <;> rfl

theorem overflowActionOf_code (a : OverflowAction) : overflowActionOf a.code = some a := by
  cases a <;> rfl

theorem MonitorSettings.sameCondition_iff (a b : MonitorSettings) :
    a.sameCondition b = true ↔ b.event = a.event ∧ b.line = a.line ∧ b.level = a.level ∧
      b.threshold = a.threshold ∧ b.less = a.less ∧ b.edge = a.edge := by
  simp only [MonitorSettings.sameCondition, Bool.and_eq_true, beq_iff_eq, and_assoc]
  constructor <;> rintro ⟨he, hl, hv, ht, hs, hd⟩ <;>
    exact ⟨he.symm, hl.symm, hv.symm, ht.symm, hs.symm, hd.symm⟩

/-- New settings arm no monitor taken from OFF to ON, and keep the edge history of an unchanged
condition alone (R134). -/
theorem Monitor.configure_eq (m : Monitor) (c : MonitorSettings) :
    m.configure c =
      let turnedOn := c.enabled = true ∧ m.settings.enabled = false
      { m with
        settings := c
        armed := m.armed && decide (¬turnedOn)
        edgeHistory := m.edgeHistory && decide (¬turnedOn ∧ c.event = m.settings.event ∧
          c.line = m.settings.line ∧ c.level = m.settings.level ∧
          c.threshold = m.settings.threshold ∧ c.less = m.settings.less ∧
          c.edge = m.settings.edge) } := by
  have hon : decide (¬(c.enabled = true ∧ m.settings.enabled = false)) =
      !(c.enabled && !m.settings.enabled) := by
    cases c.enabled <;> cases m.settings.enabled <;> rfl
  simp only [Monitor.configure, Bool.decide_and, hon, Bool.and_assoc]
  simp only [← Bool.decide_and, ← MonitorSettings.sameCondition_iff, Bool.decide_eq_true]

section
variable (q : MonitorRequest)

/-- The number of the first field of a monitor request out of its list, 0 where none is (R134). -/
def MonitorRequest.badField : Nat :=
  if 1 < q.enable.toNat then 1 else if 11 < q.event.toNat then 2
  else if 63 < q.line.toNat ∧ q.line.toNat ≠ 255 then 3 else if 1 < q.sense.toNat then 6
  else if 1 < q.edge.toNat then 7 else if 3 < q.ovfAction.toNat then 8
  else if 1 < q.loadPreset.toNat then 11 else if 1 < q.clearOverflow.toNat then 12 else 0

/-- The value of a monitor request's mask of moved words (R134, R151). -/
def MonitorRequest.movedBits : Nat :=
  16 * bit (10240 < q.level.toNat) + 32 * bit (255 < q.threshold.toNat)

theorem MonitorRequest.movedBits_lt : q.movedBits < 65536 := by
  have := bit_le_one (10240 < q.level.toNat)
  have := bit_le_one (255 < q.threshold.toNat)
  unfold MonitorRequest.movedBits
  omega

/-- A value clamped below is moved where it is above the bound. -/
theorem clamp_zero_bne (high x : Nat) : (clamp 0 high x != x) = decide (high < x) := by
  rw [clamp_eq (Nat.zero_le _), Nat.zero_max]
  by_cases h : high < x
  · rw [Nat.min_eq_left h.le, decide_eq_true h]
    exact bne_iff_ne.mpr h.ne
  · rw [Nat.min_eq_right (Nat.not_lt.mp h), decide_eq_false h, bne_self_eq_false]

/-- The checks of a monitor request (R134). -/
theorem checkMonitor_eq :
    checkMonitor q = if q.badField = 0 then .accepted (word q.movedBits)
      else .refused .badField (word q.badField) := by
  have hmoved : movedMask [(4, q.settings.level != q.level.toNat),
      (5, q.settings.threshold != q.threshold.toNat)] = word q.movedBits := by
    simp only [MonitorRequest.settings, clamp_zero_bne, movedMask, pack, MonitorRequest.movedBits,
      List.map_cons, List.map_nil, List.foldl_cons, List.foldl_nil]
    congr 1
    omega
  have hline : (decide (q.line.toNat ≤ 63) || q.line.toNat == 255) = true ↔
      ¬(63 < q.line.toNat ∧ q.line.toNat ≠ 255) := by
    simp only [Bool.or_eq_true, decide_eq_true_eq, beq_iff_eq]
    omega
  have hbad : (firstBadField [(1, decide (q.enable.toNat ≤ 1)), (2, decide (q.event.toNat ≤ 11)),
      (3, decide (q.line.toNat ≤ 63) || q.line.toNat == 255), (6, decide (q.sense.toNat ≤ 1)),
      (7, decide (q.edge.toNat ≤ 1)), (8, decide (q.ovfAction.toNat ≤ 3)),
      (11, decide (q.loadPreset.toNat ≤ 1)), (12, decide (q.clearOverflow.toNat ≤ 1))]).getD 0 =
        q.badField := by
    simp only [firstBadField_getD_cons, hline]
    simp only [decide_eq_true_eq, ← Nat.not_lt, ite_not]
    rfl
  unfold checkMonitor
  split
  · next i hi =>
    rw [hi, Option.getD_some] at hbad
    have hi0 : i ≠ 0 := by
      rintro rfl
      simpa using fst_mem_of_firstBadField hi
    rw [← hbad, if_neg hi0]
  · next hi =>
    rw [hi, Option.getD_none] at hbad
    rw [if_pos hbad.symm, hmoved]

/-- The settings in force after an accepted monitor request are those its fields name (R134). -/
theorem MonitorRequest.settings_eq {c : MonitorSettings} (henabled : c.enabled = (q.enable == 1))
    (hevent : c.event.code = q.event.toNat)
    (hline : c.line.elim 255 (fun n => n.val) = q.line.toNat)
    (hlevel : c.level = min 10240 q.level.toNat) (hthreshold : c.threshold = min 255 q.threshold.toNat)
    (hless : c.less = (q.sense == 1)) (hedge : c.edge = (q.edge == 1))
    (haction : c.overflowAction.code = q.ovfAction.toNat)
    (hpreset : c.preset = q.presetHigh ++ q.presetLow) : q.settings = c := by
  have hlineOf : (if h : q.line.toNat < 64 then some (⟨q.line.toNat, h⟩ : LineNo) else none) =
      c.line := by
    cases hc : c.line with
    | none =>
      rw [hc, Option.elim_none] at hline
      exact dif_neg (by omega)
    | some n =>
      rw [hc, Option.elim_some] at hline
      rw [dif_pos (hline ▸ n.isLt)]
      exact congrArg some (Fin.ext hline.symm)
  unfold MonitorRequest.settings
  rw [← hevent, ← haction, monitorEventOf_code, overflowActionOf_code, hlineOf,
    clamp_eq (Nat.zero_le _), clamp_eq (Nat.zero_le _), Nat.zero_max, Nat.zero_max, ← henabled,
    ← hlevel, ← hthreshold, ← hless, ← hedge, ofHalves, ← hpreset]
  rfl

variable (s : State) (i : MonitorNo)

theorem State.setMonitor_loadPreset (x : Monitor) :
    (s.setMonitor i x).loadPreset i = s.setMonitor i { x with count := x.settings.preset } := by
  rw [State.loadPreset, State.setMonitor_setMonitor, State.setMonitor_monitor_same]

theorem State.setMonitor_clearOverflow (x : Monitor) :
    (s.setMonitor i x).clearOverflow i = s.setMonitor i { x with overflow := false } := by
  rw [State.clearOverflow, State.setMonitor_setMonitor, State.setMonitor_monitor_same]

/-- An accepted monitor request writes its monitor alone (R134, R140). -/
theorem State.applyMonitor_eq :
    s.applyMonitor i q = s.setMonitor i { (s.monitor i).configure q.settings with
      count := if q.loadPreset = 1 then q.settings.preset else (s.monitor i).count
      overflow := (s.monitor i).overflow && q.clearOverflow != 1 } := by
  have hloaded : (if q.loadPreset = 1 then
        (s.setMonitor i ((s.monitor i).configure q.settings)).loadPreset i
      else s.setMonitor i ((s.monitor i).configure q.settings)) =
      s.setMonitor i { (s.monitor i).configure q.settings with
        count := if q.loadPreset = 1 then q.settings.preset else (s.monitor i).count } := by
    split
    · exact s.setMonitor_loadPreset i _
    · rfl
  unfold State.applyMonitor
  dsimp only
  rw [hloaded]
  split
  · next hclear =>
    rw [State.setMonitor_clearOverflow, hclear, bne_self_eq_false, Bool.and_false]
  · next hclear =>
    rw [bne_iff_ne.mpr hclear, Bool.and_true]
    rfl

theorem State.applyMonitor_head (r : Record) : (s.applyMonitor i q).head r = s.head r := by
  rw [State.head, State.head, (s.applyMonitor_quiet i q).reportHeads]

/-- A monitor request refused (R134, R159). -/
theorem State.takeMonitorRequest_of_bad (h : q.badField ≠ 0) :
    s.takeMonitorRequest i q =
      (s.post .requestRefused (3 + i.val) [q.serial, 1, word q.badField]).setHead (.monitor i)
        { s.head (.monitor i) with appser := q.serial, result := .refused, reason := .badField
                                   detail := word q.badField } := by
  rw [State.takeMonitorRequest, checkMonitor_eq, if_neg h, State.answerRequest_refused]
  rfl

/-- A monitor request accepted (R134, R159). -/
theorem State.takeMonitorRequest_of_good (h : q.badField = 0) :
    s.takeMonitorRequest i q =
      (s.applyMonitor i q).setHead (.monitor i) { s.head (.monitor i) with
        appser := q.serial, actser := q.serial
        result := if q.movedBits = 0 then .accepted else .acceptedClamped
        reason := .none, detail := word q.movedBits } := by
  rw [State.takeMonitorRequest, checkMonitor_eq, if_pos h, State.answerRequest,
    State.applyMonitor_head, ReportHead.answer]
  simp only [word_eq_zero_iff q.movedBits_lt]

end

/-! ## The directory -/

/-- What the command of an action leaves in service, or the state itself where the action is not
asked for (R159). -/
theorem State.eq_ite_of_whenReady {c : Prop} [Decidable c] {s t u : State} (hs : s.phase = .ready)
    (h : if c then s.whenReady u = .next t else t = s) : t = if c then u else s := by
  split at h
  · next hc =>
    rw [s.whenReady_of_ready hs] at h
    cases h
    exact (if_pos hc).symm
  · next hc => rw [if_neg hc, h]

section
variable (s : State)

/-- A monitor holds the freeze: OVF stands under an action that includes it (R139). -/
theorem State.freezeHeld_iff :
    s.freezeHeld = true ↔ ∃ i, (s.monitor i).overflow = true ∧
      ((s.monitor i).settings.overflowAction = .freezeAll ∨
        (s.monitor i).settings.overflowAction = .journalFreeze) := by
  simp [State.freezeHeld, Monitor.holdsFreeze, OverflowAction.freezes_iff]

/-- UNFREEZE writes the freeze and the monitors alone (R139). -/
theorem State.unfreeze_frame :
    s.unfreeze = { s with monitorUnit := { s.monitorUnit with
      freeze := false, monitors := s.unfreeze.monitorUnit.monitors } } :=
  (State.foldl_setMonitor (fun m => { m with armed := false, edgeHistory := false })
    (List.nodup_finRange 8) (s.modMonitorUnit fun u => { u with freeze := false })).1

/-- UNFREEZE disarms every monitor and drops its edge history (R139). -/
theorem State.unfreeze_monitor (i : MonitorNo) :
    s.unfreeze.monitor i = { s.monitor i with armed := false, edgeHistory := false } :=
  ((State.foldl_setMonitor (fun m => { m with armed := false, edgeHistory := false })
    (List.nodup_finRange 8) (s.modMonitorUnit fun u => { u with freeze := false })).2 i).trans
    (if_pos (List.mem_finRange i))

variable (q : DirectoryRequest)

/-- The checks of a directory request in their order (R139, R162). -/
theorem State.checkDirectory_eq :
    s.checkDirectory q =
      if 1 < q.unfreeze.toNat then .refused .badField 2
      else if 1 < q.clearViolations.toNat then .refused .badField 3
      else if 1 < q.clearUnposted.toNat then .refused .badField 4
      else if q.unfreeze = 1 ∧ s.freezeHeld = true then .refused .overflowPending 0
      else .accepted 0 := by
  unfold State.checkDirectory
  simp only [firstBadField_cons, firstBadField_nil, decide_eq_true_eq, ← Nat.not_lt, ite_not]
  by_cases hunfreeze : 1 < q.unfreeze.toNat
  · simp only [if_pos hunfreeze]
    rfl
  by_cases hviolations : 1 < q.clearViolations.toNat
  · simp only [if_neg hunfreeze, if_pos hviolations]
    rfl
  by_cases hunposted : 1 < q.clearUnposted.toNat
  · simp only [if_neg hunfreeze, if_neg hviolations, if_pos hunposted]
    rfl
  simp only [if_neg hunfreeze, if_neg hviolations, if_neg hunposted]

/-- The state a directory request leaves before its UNFREEZE (R162). -/
def State.cleared : State :=
  let s1 := s.modJournal fun j => { j with kindMask := q.kindMask.setWidth 15 }
  let s2 := if q.clearViolations = 1 then s1.clearViolations else s1
  if q.clearUnposted = 1 then s2.clearUnposted else s2

theorem State.applyDirectory_eq :
    s.applyDirectory q = if q.unfreeze = 1 then (s.cleared q).unfreeze else s.cleared q := rfl

/-- The parts before UNFREEZE leave the phase, the heads and the monitors alone. -/
theorem State.cleared_kept :
    (s.cleared q).phase = s.phase ∧ (s.cleared q).reportHeads = s.reportHeads ∧
      (s.cleared q).monitorUnit = s.monitorUnit := by
  unfold State.cleared
  dsimp only
  split <;> split <;> exact ⟨rfl, rfl, rfl⟩

theorem State.cleared_freezeHeld : (s.cleared q).freezeHeld = s.freezeHeld := by
  obtain ⟨-, -, hmonitors⟩ := s.cleared_kept q
  unfold State.freezeHeld State.monitor
  rw [hmonitors]

/-- An accepted directory request leaves the common heads alone. -/
theorem State.applyDirectory_head (r : Record) : (s.applyDirectory q).head r = s.head r := by
  obtain ⟨-, hcleared, -⟩ := s.cleared_kept q
  have hheads : (s.applyDirectory q).reportHeads = s.reportHeads := by
    rw [State.applyDirectory_eq, ← hcleared]
    split
    · exact (State.unfreeze_quiet _).reportHeads
    · rfl
  rw [State.head, State.head, hheads]

/-- A directory request that its checks refuse (R159, R162). -/
theorem State.takeDirectoryRequest_refused {r : Reason} {detail : Word}
    (h : s.checkDirectory q = .refused r detail) :
    s.takeDirectoryRequest q =
      (s.post .requestRefused 0 [q.serial, word r.code, detail]).setHead .directory
        { s.head .directory with
          appser := q.serial, result := .refused, reason := r, detail := detail } := by
  rw [State.takeDirectoryRequest, h, State.answerRequest_refused]
  rfl

/-- A directory request accepted (R159, R162). -/
theorem State.takeDirectoryRequest_accepted (h : s.checkDirectory q = .accepted 0) :
    s.takeDirectoryRequest q =
      (s.applyDirectory q).setHead .directory { s.head .directory with
        appser := q.serial, actser := q.serial, result := .accepted, reason := .none
        detail := 0 } := by
  rw [State.takeDirectoryRequest, h, State.answerRequest, State.applyDirectory_head]
  rfl

end

end Sys2Proof.Machine
end

section
/-!
PROOFS. Monitor requests and actions, the tick of the monitors, and directory requests.
-/
namespace Sys2Proof.Proofs

open Sys2Proof.Machine

/-- Settles O52: the checks by the first field out of its list, the settings by the fields that name
them. -/
theorem monitorRequestIsCheckedAndApplied : Obligations.MonitorRequestIsCheckedAndApplied := by
  unfold Obligations.MonitorRequestIsCheckedAndApplied
  intro i q s hs m h bad moved
  have hexec : exec (.monitorRequest i q) s = .next (s.takeMonitorRequest i q) :=
    s.whenReady_of_ready hs _
  rw [hexec]
  refine ⟨fun hbad => congrArg _ (s.takeMonitorRequest_of_bad q i hbad), ?_⟩
  intro hgood c henabled hevent hline hlevel hthreshold hless hedge haction hpreset turnedOn same
  have hsettings : q.settings = c := by
    refine q.settings_eq henabled hevent ?_ hlevel hthreshold hless hedge haction hpreset
    rw [← hline]
    cases c.line <;> rfl
  rw [s.takeMonitorRequest_of_good q i hgood, State.applyMonitor_eq, hsettings, Monitor.configure_eq]
  rfl

/-- Settles O53: the request with LOAD_PRESET by `State.applyMonitor_eq`, the UNFREEZE by the monitor
that still holds the freeze. -/
theorem loadPresetAndClearOverflow : Obligations.LoadPresetAndClearOverflow := by
  unfold Obligations.LoadPresetAndClearOverflow
  intro i s hs m
  refine ⟨s.whenReady_of_ready hs _, s.whenReady_of_ready hs _, ?_, ?_⟩
  · intro q henable hevent hline hsense hedge haction hload hclear
    have hgood : q.badField = 0 := by
      have : q.loadPreset.toNat = 1 := congrArg BitVec.toNat hload
      unfold MonitorRequest.badField
      repeat rw [if_neg (by omega)]
    refine ⟨_, s.whenReady_of_ready hs _, ?_⟩
    rw [s.takeMonitorRequest_of_good q i hgood, State.applyMonitor_eq, if_pos hload,
      State.setHead_monitor, State.setMonitor_monitor_same]
    exact ⟨rfl, rfl, rfl, rfl⟩
  · intro q hunfreeze hviolations hunposted hfreeze hoverflow haction
    have hheld : s.freezeHeld = true := s.freezeHeld_iff.mpr ⟨i, hoverflow, haction⟩
    have hcheck : s.checkDirectory q = .refused .overflowPending 0 := by
      rw [State.checkDirectory_eq, hunfreeze, if_neg (by decide), if_neg (by omega),
        if_neg (by omega), if_pos ⟨rfl, hheld⟩]
    refine ⟨_, s.whenReady_of_ready hs _, ?_⟩
    rw [s.takeDirectoryRequest_refused q hcheck, State.setHead_head_same, State.setHead_monitorUnit,
      State.post_monitorUnit]
    exact ⟨rfl, rfl, rfl⟩

/-- Settles O54: the sample by its event, a tick by whether the monitor may count. -/
theorem monitorCountsAtTheTick : Obligations.MonitorCountsAtTheTick := by
  unfold Obligations.MonitorCountsAtTheTick
  refine ⟨?_, ?_⟩
  · intro u c adds
    have hadds (n : LineNo) : lineSample c.event c.level u.gathered[n] = adds n := by
      dsimp only [adds]
      cases c.event with
      | linesNotRunning => exact lineSample_linesNotRunning _ _
      | fillAtOrAbove => exact lineSample_fillAtOrAbove _ _
      | fillBelow => exact lineSample_fillBelow _ _
      | _ => rfl
    by_cases hevent : c.event = .officeFrames
    · rw [if_pos hevent, u.sample_of_officeFrames hevent]
    rw [if_neg hevent]
    cases hline : c.line with
    | none => rw [u.sample_of_all_lines hevent hline, funext hadds]
    | some n => exact (u.sample_of_line hevent hline).trans (hadds n)
  · intro s frozen i m c x holds add wraps counted freezes posts
    refine ⟨s.closeMonitor_of_disabled i frozen, s.closeMonitor_of_standing i, ?_⟩
    rintro henabled harmed rfl t u
    have hadd : m.increment x = add := m.increment_eq x
    have hcounted : m.counted x = counted := by
      rw [Monitor.counted, hadd]
      rfl
    refine (s.closeMonitor_of_armed i henabled harmed).trans ?_
    dsimp only
    rw [hadd, hcounted]
    by_cases hwraps : wraps
    · have hfrozen : (if counted.settings.overflowAction.freezes = true then
          t.modMonitorUnit fun u => { u with freeze := true } else t) = u :=
        if_congr (c.overflowAction.freezes_iff.trans (and_iff_right hwraps).symm) rfl rfl
      rw [if_pos hwraps, State.reportWrap, hfrozen, overflowDetail, word_bit]
      exact if_congr (c.overflowAction.posts_iff.trans (and_iff_right hwraps).symm) rfl rfl
    · rw [if_neg hwraps, if_neg (fun h => hwraps h.1)]
      exact (if_neg (fun h => hwraps h.1)).symm

/-- Settles O55: the checks in order, and the parts one by one as the commands of their own. -/
theorem directoryRequestIsCheckedAndApplied : Obligations.DirectoryRequestIsCheckedAndApplied := by
  unfold Obligations.DirectoryRequestIsCheckedAndApplied
  intro q s s1 s2 s3 hs h refused heldBack masked hs1 hs2 hs3
  have hheld : s.freezeHeld = true ↔ heldBack := s.freezeHeld_iff
  have hrefused {r : Reason} {detail : Word} (hr : s.checkDirectory q = .refused r detail) :
      exec (.directoryRequest q) s = .next (refused r detail) :=
    (s.whenReady_of_ready hs _).trans (congrArg _ (s.takeDirectoryRequest_refused q hr))
  have hcleared : s2 = s.cleared q := by
    have hmasked : masked = s.modJournal fun j => { j with kindMask := q.kindMask.setWidth 15 } := by
      rw [State.modJournal, BitVec.setWidth_eq_extractLsb' (by decide)]
    have hviolations : s1 = if q.clearViolations = 1 then masked.clearViolations else masked :=
      State.eq_ite_of_whenReady hs hs1
    have hs1ready : s1.phase = .ready := by
      rw [hviolations]
      split <;> exact hs
    rw [State.cleared, ← hmasked, ← hviolations]
    exact State.eq_ite_of_whenReady hs1ready hs2
  refine ⟨fun hu => hrefused ?_, fun hu hv => hrefused ?_, fun hu hv hp => hrefused ?_,
    fun hu hv hp => ⟨fun ⟨hon, hb⟩ => hrefused ?_, fun hfree => ?_⟩, s.whenReady_of_ready hs _,
    s.whenReady_of_ready hs _, fun hb => ?_, fun hb => ?_⟩
  · rw [State.checkDirectory_eq, if_pos hu]
  · rw [State.checkDirectory_eq, if_neg (by omega), if_pos hv]
  · rw [State.checkDirectory_eq, if_neg (by omega), if_neg (by omega), if_pos hp]
  · rw [State.checkDirectory_eq, if_neg (by omega), if_neg (by omega), if_neg (by omega),
      if_pos ⟨hon, hheld.mpr hb⟩]
  · have hcheck : s.checkDirectory q = .accepted 0 := by
      rw [State.checkDirectory_eq, if_neg (by omega), if_neg (by omega), if_neg (by omega),
        if_neg fun ⟨hon, hb⟩ => hfree ⟨hon, hheld.mp hb⟩]
    have happlied : s3 = s.applyDirectory q := by
      rw [State.applyDirectory_eq, ← hcleared]
      obtain ⟨hphase, -, -⟩ := s.cleared_kept q
      rw [State.eq_ite_of_whenReady (hcleared ▸ hphase.trans hs) hs3]
      split
      · next hon =>
        refine if_neg fun hb => hfree ⟨hon, hheld.mp ?_⟩
        rwa [hcleared, State.cleared_freezeHeld] at hb
      · rfl
    rw [happlied]
    exact (s.whenReady_of_ready hs _).trans (congrArg _ (s.takeDirectoryRequest_accepted q hcheck))
  · exact (s.whenReady_of_ready hs _).trans (congrArg _ (if_pos (hheld.mpr hb)))
  · exact ⟨s.unfreeze, (s.whenReady_of_ready hs _).trans (congrArg _ (if_neg (mt hheld.mp hb))),
      s.unfreeze_frame, s.unfreeze_monitor⟩

end Sys2Proof.Proofs
end

section
/-!
SUPPORT. The read-back of a struck slot (R166, R168): canonical memories are told apart by their words, a
word struck in one bit is mended, one struck in two makes the slot BAD, and what a post then comes to.
-/
namespace Sys2Proof.Machine

/-! ## Canonical memories -/

section
variable {α : Type} [DecidableEq α] {d : α} {m l : List (Nat × α)}

/-- A canonical memory lists nothing below the first entry of one that holds the same. -/
theorem cellsWf_not_lt {p : Nat × α} (hm : cellsWf d (p :: m))
    (h : ∀ a, cellGet d (p :: m) a = cellGet d l a) : ¬∀ q ∈ l, p.1 < q.1 := by
  intro hlt
  have hp : cellGet d (p :: m) p.1 = p.2 := if_pos rfl
  rw [h, cellGet_of_lt d hlt] at hp
  exact hm.2 p List.mem_cons_self hp.symm

/-- Memories in canonical form that hold the same everywhere are the same list. -/
theorem cellsWf_ext (hm : cellsWf d m) (hl : cellsWf d l)
    (h : ∀ a, cellGet d m a = cellGet d l a) : m = l := by
  induction m generalizing l with
  | nil =>
    cases l with
    | nil => rfl
    | cons q l => exact absurd (by simp) (cellsWf_not_lt hl fun a => (h a).symm)
  | cons p m ih =>
    cases l with
    | nil => exact absurd (by simp) (cellsWf_not_lt hm h)
    | cons q l =>
      obtain ⟨hpm, hm'⟩ := List.pairwise_cons.mp hm.1
      obtain ⟨hql, hl'⟩ := List.pairwise_cons.mp hl.1
      have hkey : p.1 = q.1 := by
        rcases Nat.lt_trichotomy p.1 q.1 with hlt | heq | hgt
        · exact (cellsWf_not_lt hm h
            (List.forall_mem_cons.mpr ⟨hlt, fun r hr => hlt.trans (hql r hr)⟩)).elim
        · exact heq
        · exact (cellsWf_not_lt hl (fun a => (h a).symm)
            (List.forall_mem_cons.mpr ⟨hgt, fun r hr => hgt.trans (hpm r hr)⟩)).elim
      have hvalue : p.2 = q.2 := by simpa [cellGet, hkey] using h q.1
      have htail : m = l := by
        refine ih ⟨hm', fun r hr => hm.2 r (List.mem_cons_of_mem p hr)⟩
          ⟨hl', fun r hr => hl.2 r (List.mem_cons_of_mem q hr)⟩ fun a => ?_
        by_cases ha : p.1 = a
        · rw [cellGet_of_lt d (ha ▸ hpm), cellGet_of_lt d (ha ▸ hkey ▸ hql)]
        · simpa [cellGet, ha, hkey ▸ ha] using h a
      rw [Prod.ext hkey hvalue, htail]

end

/-- Canonical control memories that hold the same words are the same. -/
theorem State.memory_eq_of_memWord {s t : State} (hs : Memory.wf s.memory) (ht : Memory.wf t.memory)
    (h : ∀ a, s.memWord a = t.memWord a) : s.memory = t.memory :=
  cellsWf_ext hs ht h

/-! ## Struck words -/

section
variable {w : MemWord} {b c : Nat}

/-- A clean word struck in one bit has that bit in error (R147). -/
theorem MemWord.struck_condition (hw : w.errors = []) : (w.struck b).condition = .single b :=
  MemWord.condition_of_singleton (by simp [MemWord.struck, hw, strikeBit])

/-- A clean word struck in two bits is uncorrectable (R147). -/
theorem MemWord.struck_struck_condition (hw : w.errors = []) (hbc : b ≠ c) :
    ((w.struck b).struck c).condition = .uncorrectable := by
  rcases Nat.lt_or_gt_of_ne hbc with h | h <;>
    simp [MemWord.condition, MemWord.struck, hw, strikeBit, hbc.symm, h, h.le]

end

section
variable (s : State) (i : Fin 128)

/-- Errors that strike a slot change control memory alone. -/
theorem State.strikeSlot_frame (hits : List (Fin 16 × Nat)) :
    s.strikeSlot i hits = { s with memory := (s.strikeSlot i hits).memory } := by
  unfold State.strikeSlot
  induction hits generalizing s with
  | nil => rfl
  | cons h hits ih => rw [List.foldl_cons, ih]; rfl

/-- Errors that strike a slot leave every other word as it was. -/
theorem State.strikeSlot_memWord_ne {hits : List (Fin 16 × Nat)} {a : Nat}
    (h : ∀ p ∈ hits, a ≠ journalBase i + p.1.val) : (s.strikeSlot i hits).memWord a = s.memWord a := by
  unfold State.strikeSlot
  induction hits generalizing s with
  | nil => rfl
  | cons p hits ih =>
    obtain ⟨hp, hhits⟩ := List.forall_mem_cons.mp h
    rw [List.foldl_cons, ih _ hhits, s.setMemWord_memWord_ne hp]

theorem State.strikeSlot_memWord_once (w : Fin 16) (b : Nat) :
    (s.strikeSlot i [(w, b)]).memWord (journalBase i + w.val) =
      (s.memWord (journalBase i + w.val)).struck b :=
  s.setMemWord_memWord_same _ _

theorem State.strikeSlot_memWord_twice (w : Fin 16) (b c : Nat) :
    (s.strikeSlot i [(w, b), (w, c)]).memWord (journalBase i + w.val) =
      ((s.memWord (journalBase i + w.val)).struck b).struck c := by
  rw [← s.strikeSlot_memWord_once i w b]
  exact State.setMemWord_memWord_same _ _ _

/-! ## The mending of a slot -/

variable {copy : List (Nat × Word)} {p : Nat × Word}

theorem State.mendSlot_cons_of_single {b : Nat}
    (h : (s.memWord (journalBase i + p.1)).condition = .single b) :
    s.mendSlot i (p :: copy) = (s.memWrite (journalBase i + p.1) p.2).mendSlot i copy := by
  unfold State.mendSlot
  rw [List.foldl_cons, h]

theorem State.mendSlot_cons_of_not_single
    (h : ∀ b, (s.memWord (journalBase i + p.1)).condition ≠ .single b) :
    s.mendSlot i (p :: copy) = s.mendSlot i copy := by
  unfold State.mendSlot
  rw [List.foldl_cons]
  cases hc : (s.memWord (journalBase i + p.1)).condition with
  | single b => exact absurd hc (h b)
  | clean => rfl
  | uncorrectable => rfl

/-- The mending of a slot changes control memory alone. -/
theorem State.mendSlot_frame (copy : List (Nat × Word)) :
    s.mendSlot i copy = { s with memory := (s.mendSlot i copy).memory } := by
  induction copy generalizing s with
  | nil => rfl
  | cons p copy ih =>
    by_cases h : ∃ b, (s.memWord (journalBase i + p.1)).condition = .single b
    · obtain ⟨b, hb⟩ := h
      rw [s.mendSlot_cons_of_single i hb, ih]
      rfl
    · rw [s.mendSlot_cons_of_not_single i (not_exists.mp h)]
      exact ih s

theorem State.mendSlot_memWord_ne {a : Nat} (h : ∀ p ∈ copy, a ≠ journalBase i + p.1) :
    (s.mendSlot i copy).memWord a = s.memWord a := by
  induction copy generalizing s with
  | nil => rfl
  | cons p copy ih =>
    obtain ⟨hp, hcopy⟩ := List.forall_mem_cons.mp h
    by_cases h : ∃ b, (s.memWord (journalBase i + p.1)).condition = .single b
    · obtain ⟨b, hb⟩ := h
      rw [s.mendSlot_cons_of_single i hb, ih _ hcopy, s.memWrite_memWord_ne hp]
    · rw [s.mendSlot_cons_of_not_single i (not_exists.mp h), ih _ hcopy]

/-- A slot that differs from a state that holds the copy only by single errors in words of the copy holds
the same as that state once it is mended (R166). -/
theorem State.mendSlot_restores {y : State}
    (hcopy : ∀ p ∈ copy, y.memWord (journalBase i + p.1) = { raw := p.2 })
    (h : ∀ a, s.memWord a = y.memWord a ∨
      (∃ b, (s.memWord a).condition = .single b) ∧ ∃ p ∈ copy, a = journalBase i + p.1) (a : Nat) :
    (s.mendSlot i copy).memWord a = y.memWord a := by
  induction copy generalizing s with
  | nil => exact (h a).resolve_right (by simp)
  | cons p copy ih =>
    obtain ⟨hp, hcopy⟩ := List.forall_mem_cons.mp hcopy
    by_cases hsingle : ∃ b, (s.memWord (journalBase i + p.1)).condition = .single b
    · obtain ⟨b, hb⟩ := hsingle
      rw [s.mendSlot_cons_of_single i hb]
      refine ih _ hcopy fun a => ?_
      by_cases ha : a = journalBase i + p.1
      · rw [ha, s.memWrite_memWord_same, hp]
        exact .inl rfl
      · rw [s.memWrite_memWord_ne ha]
        exact (h a).imp_right fun ⟨hb, q, hq, hqa⟩ =>
          ⟨hb, q, (List.mem_cons.mp hq).resolve_left fun e => ha (e ▸ hqa), hqa⟩
    · rw [s.mendSlot_cons_of_not_single i (not_exists.mp hsingle)]
      refine ih _ hcopy fun a => (h a).imp_right fun ⟨hb, q, hq, hqa⟩ =>
        ⟨hb, q, (List.mem_cons.mp hq).resolve_left fun e => hsingle ?_, hqa⟩
      rw [← e, ← hqa]
      exact hb

end

/-! ## The placing of a report -/

theorem mem_readBackWords {w : Fin 16} (h2 : w ≠ 2) (h3 : w ≠ 3) : w.val ∈ readBackWords := by
  revert w
  decide

/-- Every word of the read-back is one that the post writes (R165, R166). -/
theorem exists_mem_postedWords (x : Report) (serial : Long) {k : Nat} (hk : k ∈ readBackWords) :
    ∃ p ∈ postedWords x serial, p.1 = k := by
  refine List.mem_map.mp ?_
  rw [postedWords_offsets]
  revert k
  decide

theorem mem_readBackWords_of_posted {x : Report} {serial : Long} {p : Nat × Word}
    (hp : p ∈ postedWords x serial) : p.1 ∈ readBackWords := by
  have hk : p.1 ∈ (postedWords x serial).map (·.1) := List.mem_map_of_mem hp
  rw [postedWords_offsets] at hk
  generalize p.1 = k at hk
  revert k
  decide

/-- The lowest-numbered FREE slot (R165). -/
theorem Journal.freeSlot_eq_some {j : Journal} {i : Fin 128} :
    j.freeSlot = some i ↔ j.slots[i].state = .free ∧ ∀ k, k < i → j.slots[k].state ≠ .free := by
  rw [Journal.freeSlot, ← List.ofFn_id]
  exact (List.find?_ofFn_eq_some_of_injective (f := id) Function.injective_id).trans (by simp)

/-! A change of the journal and the writing, striking and mending of words do not meet. -/

section
variable (s : State) (f : Journal → Journal) (i : Fin 128)

theorem State.setJournalSlot_eq_modJournal (x : JournalSlot) :
    s.setJournalSlot i x = s.modJournal fun j => { j with slots := j.slots.set i x } := rfl

theorem State.memWriteAll_modJournal (l : List (Nat × Word)) :
    (s.modJournal f).memWriteAll l = (s.memWriteAll l).modJournal f := by
  induction l generalizing s with
  | nil => rfl
  | cons p l ih => exact ih (s.memWrite p.1 p.2)

theorem State.strikeSlot_modJournal (hits : List (Fin 16 × Nat)) :
    (s.modJournal f).strikeSlot i hits = (s.strikeSlot i hits).modJournal f := by
  induction hits generalizing s with
  | nil => rfl
  | cons h hits ih => exact ih (s.strikeSlot i [h])

theorem State.slotFails_modJournal : (s.modJournal f).slotFails i = s.slotFails i := rfl

theorem State.mendSlot_modJournal (copy : List (Nat × Word)) :
    (s.modJournal f).mendSlot i copy = (s.mendSlot i copy).modJournal f := by
  induction copy generalizing s with
  | nil => rfl
  | cons p copy ih =>
    by_cases h : ∃ b, (s.memWord (journalBase i + p.1)).condition = .single b
    · obtain ⟨b, hb⟩ := h
      rw [s.mendSlot_cons_of_single i hb, (s.modJournal f).mendSlot_cons_of_single i hb]
      exact ih (s.memWrite (journalBase i + p.1) p.2)
    · have hb := not_exists.mp h
      rw [s.mendSlot_cons_of_not_single i hb, (s.modJournal f).mendSlot_cons_of_not_single i hb]
      exact ih s

end

section
variable (s : State) (i : Fin 128) (x : Report) (hits : List (Fin 16 × Nat))

/-- The slot of the next serial with the fourteen words of a report in it (R165). -/
def State.slotWritten : State := s.memWriteAll (slotWrites i x s.journal.nextSerial)

/-- The slot as the read-back finds it, struck after it was written (R166). -/
def State.slotStruck : State := (s.slotWritten i x).strikeSlot i hits

/-- The slot with its single errors mended from the writer's copy (R166). -/
def State.slotMended : State :=
  (s.slotStruck i x hits).mendSlot i (postedWords x s.journal.nextSerial)

/-- The state once a post into a slot is at an end: the slot's state, the serial consumed, the plan spent,
and control memory as given (R165, R166). -/
def State.filled (v : SlotState) (m : Memory) : State :=
  { s with
    memory := m
    journal := { s.journal with
      slots := s.journal.slots.set i { state := v, serial := s.journal.nextSerial }
      nextSerial := nextSerialAfter s.journal.nextSerial
      current := none
      plans := s.journal.plans.tail } }

@[simp] theorem State.filled_lets (v : SlotState) (m : Memory) (k : Kind) :
    (s.filled i v m).journal.lets k = s.journal.lets k := rfl

@[simp] theorem State.filled_plans (v : SlotState) (m : Memory) :
    (s.filled i v m).journal.plans = s.journal.plans.tail := rfl

/-- The writing, the striking and the mending of a slot change control memory alone. -/
theorem State.slotMended_frame :
    s.slotMended i x hits = { s with memory := (s.slotMended i x hits).memory } := by
  unfold State.slotMended State.slotStruck State.slotWritten
  rw [State.mendSlot_frame, State.strikeSlot_frame, State.memWriteAll_frame]

variable {s i}

@[simp] theorem State.filled_memWord (v : SlotState) (t : State) (a : Nat) :
    (s.filled i v t.memory).memWord a = t.memWord a := rfl

@[simp] theorem State.filled_journalSlot_same (v : SlotState) (m : Memory) :
    (s.filled i v m).journalSlot i = { state := v, serial := s.journal.nextSerial } :=
  s.setJournalSlot_journalSlot_same i _

theorem State.filled_journalSlot_ne {j : Fin 128} (h : j ≠ i) (v : SlotState) (m : Memory) :
    (s.filled i v m).journalSlot j = s.journalSlot j :=
  s.setJournalSlot_journalSlot_ne h _

/-- The end of a post taken up with none in progress and one plan waiting (R165, R166). -/
theorem State.filled_of_idle {plan : WritePlan} (hc : s.journal.current = none)
    (hplans : s.journal.plans = [plan]) (v : SlotState) (m : Memory) :
    s.filled i v m = { s with
      memory := m
      journal := { s.journal with
        slots := s.journal.slots.set i { state := v, serial := s.journal.nextSerial }
        nextSerial :=
          if s.journal.nextSerial = 0xFFFFFFFF then 1 else s.journal.nextSerial + 1
        plans := [] } } := by
  simp only [State.filled, nextSerialAfter, hc, hplans, List.tail_cons]

/-- The lowest FREE slot once a lower one is taken (R165). -/
theorem State.filled_freeSlot {j : Fin 128} {v : SlotState} (m : Memory)
    (hj : (s.journalSlot j).state = .free) (hij : i ≠ j) (hv : v ≠ .free)
    (hbelow : ∀ k, k < j → k ≠ i → (s.journalSlot k).state ≠ .free) :
    (s.filled i v m).journal.freeSlot = some j := by
  refine Journal.freeSlot_eq_some.mpr ⟨?_, fun k hk => ?_⟩
  · exact (congrArg JournalSlot.state (State.filled_journalSlot_ne hij.symm v m)).trans hj
  · by_cases hki : k = i
    · rw [hki]
      exact (congrArg JournalSlot.state (State.filled_journalSlot_same v m)).trans_ne hv
    · exact (congrArg JournalSlot.state (State.filled_journalSlot_ne hki v m)).trans_ne
        (hbelow k hk hki)

/-- A report placed under a plan without stops: the slot is BAD where the read-back of its struck words
fails, and HELD otherwise (R165, R166). -/
theorem State.place_of_hits (stage : PostStage) (hi : s.journal.freeSlot = some i)
    (hplan : s.journal.plans.headD {} = { hits := hits }) :
    s.place x stage =
      if (s.slotStruck i x hits).slotFails i then
        (s.filled i .bad (s.slotMended i x hits).memory, .failed i s.journal.nextSerial)
      else (s.filled i .held (s.slotMended i x hits).memory, .stands) := by
  unfold State.place
  rw [hi]
  dsimp only
  unfold State.writeOn
  rw [hplan]
  dsimp only
  rw [State.writeUpTo_all _ rfl]
  simp only [State.setJournalSlot_eq_modJournal, State.memWriteAll_modJournal,
    State.strikeSlot_modJournal]
  unfold State.readBack
  simp only [State.mendSlot_modJournal, State.slotFails_modJournal]
  rw [show ((s.memWriteAll (slotWrites i x s.journal.nextSerial)).strikeSlot i hits).mendSlot i
    (postedWords x s.journal.nextSerial) = _ from s.slotMended_frame i x hits]
  simp only [State.modJournal, State.setJournalSlot, Vector.set_set]
  rfl

/-! ## What befalls the written slot -/

theorem State.slotWritten_errors {k : Nat} (hk : k ∈ readBackWords) :
    ((s.slotWritten i x).memWord (journalBase i + k)).errors = [] := by
  obtain ⟨p, hp, rfl⟩ := exists_mem_postedWords x s.journal.nextSerial hk
  rw [State.slotWritten, s.slotWrites_memWord x i s.journal.nextSerial hp]

/-- A slot that nothing strikes passes its read-back as it was written (R166). -/
theorem State.slotStruck_nil :
    (s.slotStruck i x []).slotFails i = false ∧ s.slotMended i x [] = s.slotWritten i x := by
  have hclean : ∀ k ∈ readBackWords,
      ((s.slotWritten i x).memWord (journalBase i + k)).condition = .clean :=
    fun k hk => MemWord.condition_of_nil (State.slotWritten_errors x hk)
  have hstruck : s.slotStruck i x [] = s.slotWritten i x := by
    rw [State.slotStruck, State.strikeSlot, List.foldl_nil]
  rw [State.slotMended, hstruck]
  exact ⟨State.slotFails_of_clean _ i hclean, State.mendSlot_of_clean _ i fun p hp =>
    hclean p.1 (mem_readBackWords_of_posted hp)⟩

variable {w : Fin 16} {b c : Nat}

/-- A single error fails no read-back (R166). -/
theorem State.slotStruck_single_slotFails (h2 : w ≠ 2) (h3 : w ≠ 3) :
    (s.slotStruck i x [(w, b)]).slotFails i = false := by
  refine List.any_eq_false.mpr fun k hk => ?_
  by_cases hkw : k = w.val
  · rw [hkw, State.slotStruck, State.strikeSlot_memWord_once,
      MemWord.struck_condition (State.slotWritten_errors x (mem_readBackWords h2 h3))]
    simp
  · rw [State.slotStruck, State.strikeSlot_memWord_ne _ i (by simpa using hkw),
      MemWord.condition_of_nil (State.slotWritten_errors x hk)]
    decide

/-- A word struck in one bit holds after the read-back what was written there, as does every other
(R166). -/
theorem State.slotMended_single_memWord (h2 : w ≠ 2) (h3 : w ≠ 3) (a : Nat) :
    (s.slotMended i x [(w, b)]).memWord a = (s.slotWritten i x).memWord a := by
  refine State.mendSlot_restores _ i (fun p hp => s.slotWrites_memWord x i _ hp) (fun a => ?_) a
  have hw := mem_readBackWords h2 h3
  by_cases ha : a = journalBase i + w.val
  · obtain ⟨p, hp, hpw⟩ := exists_mem_postedWords x s.journal.nextSerial hw
    refine .inr ⟨⟨b, ?_⟩, p, hp, hpw ▸ ha⟩
    rw [ha, State.slotStruck, State.strikeSlot_memWord_once,
      MemWord.struck_condition (State.slotWritten_errors x hw)]
  · exact .inl (State.strikeSlot_memWord_ne _ i (by simpa using ha))

/-- On a canonical control memory the mended slot leaves the very memory of the slot that nothing strikes
(R166). -/
theorem State.slotMended_single_memory (hm : Memory.wf s.memory) (h2 : w ≠ 2) (h3 : w ≠ 3) :
    (s.slotMended i x [(w, b)]).memory = (s.slotWritten i x).memory := by
  have hwritten : Memory.wf (s.slotWritten i x).memory := by
    rw [State.slotWritten]
    exact s.memWriteAll_wf hm _
  have hmended : Memory.wf (s.slotMended i x [(w, b)]).memory := by
    rw [State.slotMended, State.slotStruck]
    exact State.mendSlot_wf (State.strikeSlot_wf hwritten i _) i _
  exact State.memory_eq_of_memWord hmended hwritten (State.slotMended_single_memWord x h2 h3)

/-- A word struck in two bits fails the read-back (R166). -/
theorem State.slotStruck_double_slotFails (h2 : w ≠ 2) (h3 : w ≠ 3) (hbc : b ≠ c) :
    (s.slotStruck i x [(w, b), (w, c)]).slotFails i = true := by
  have hw := mem_readBackWords h2 h3
  refine List.any_eq_true.mpr ⟨w.val, hw, ?_⟩
  rw [State.slotStruck, State.strikeSlot_memWord_twice,
    MemWord.struck_struck_condition (State.slotWritten_errors x hw) hbc]
  rfl

/-- Nothing outside the words that a post writes changes, where it is they that are struck (R165,
R166). -/
theorem State.slotMended_double_memWord_ne (h2 : w ≠ 2) (h3 : w ≠ 3) {a : Nat}
    (ha : ∀ k ∈ readBackWords, a ≠ journalBase i + k) :
    (s.slotMended i x [(w, b), (w, c)]).memWord a = s.memWord a := by
  have haw := ha w.val (mem_readBackWords h2 h3)
  rw [State.slotMended, State.mendSlot_memWord_ne _ i fun p hp => ha _ (mem_readBackWords_of_posted hp),
    State.slotStruck, State.strikeSlot_memWord_ne _ i (by simp [haw]), State.slotWritten,
    s.slotWrites_memWord_ne x i _ ha]

/-! ## The outcome of a placing -/

variable (stage : PostStage)

/-- Under a plan that names nothing, or none, the report stands as it was written (R165, R166). -/
theorem State.place_unstruck (hi : s.journal.freeSlot = some i)
    (hplan : s.journal.plans.headD {} = {}) :
    s.place x stage = (s.filled i .held (s.slotWritten i x).memory, .stands) := by
  obtain ⟨hfails, hmended⟩ := State.slotStruck_nil (s := s) (i := i) x
  rw [State.place_of_hits x [] stage hi hplan, hfails, hmended]
  rfl

/-- Struck in one bit the report stands all the same, on a canonical memory in the same state (R166). -/
theorem State.place_single (hm : Memory.wf s.memory) (hi : s.journal.freeSlot = some i)
    (hplan : s.journal.plans.headD {} = { hits := [(w, b)] }) (h2 : w ≠ 2) (h3 : w ≠ 3) :
    s.place x stage = (s.filled i .held (s.slotWritten i x).memory, .stands) := by
  rw [State.place_of_hits x _ stage hi hplan, State.slotStruck_single_slotFails x h2 h3,
    State.slotMended_single_memory x hm h2 h3]
  rfl

/-- Struck in two bits of a word the slot is BAD and its serial consumed (R166). -/
theorem State.place_double (hi : s.journal.freeSlot = some i)
    (hplan : s.journal.plans.headD {} = { hits := [(w, b), (w, c)] }) (h2 : w ≠ 2) (h3 : w ≠ 3)
    (hbc : b ≠ c) :
    s.place x stage =
      (s.filled i .bad (s.slotMended i x [(w, b), (w, c)]).memory,
        .failed i s.journal.nextSerial) := by
  rw [State.place_of_hits x _ stage hi hplan, State.slotStruck_double_slotFails x h2 h3 hbc]
  rfl

theorem State.place_of_full (hi : s.journal.freeSlot = none) :
    s.place x stage = (s, .noSlot) := by
  unfold State.place
  rw [hi]

end

/-! ## Posts that the writer handles at once -/

/-- The part in service with no post in progress and the journal not halted. -/
structure State.Posting (s : State) : Prop where
  ready : s.phase = .ready
  idle : s.journal.current = none
  running : s.journal.halted = false

section
variable {s : State} {k : Kind} {i : Fin 128}

theorem State.Posting.filled (h : s.Posting) (i : Fin 128) (v : SlotState) (m : Memory) :
    (s.filled i v m).Posting := ⟨h.ready, rfl, h.running⟩

theorem State.Posting.noRoom (h : s.Posting) (k : Kind) : (s.noRoom k).Posting :=
  ⟨h.ready, h.idle, h.running⟩

/-- A report as a post made now hands it to the writer (R165). -/
def State.reportNow (s : State) (k : Kind) (record : Nat) (detail : List Word) : Report :=
  { kind := k, record := record, stamp := s.timing.stamp, detail := detail }

variable (record : Nat) (detail : List Word)

theorem State.filled_reportNow (v : SlotState) (m : Memory) :
    (s.filled i v m).reportNow k record detail = s.reportNow k record detail := rfl

/-- The report that a slot has gone bad, as a post of it (R166). -/
theorem State.slotBadReport_reportNow (s : State) (slot : Fin 128) (serial : Long) :
    slotBadReport (s.reportNow k record detail) s.timing.stamp slot serial =
      s.reportNow .journalSlotBad 0
        [word slot.val, highHalf serial, lowHalf serial, word k.code] := rfl

/-- A report let through is placed at once (R165, R166). -/
theorem State.Posting.post_eq (h : s.Posting) (hl : s.journal.lets k = true) :
    s.post k record detail =
      (s.reportNow k record detail).afterFirst (s.place (s.reportNow k record detail) .first) := by
  rw [State.post_of_ready k record detail h.ready, if_pos hl, State.handle_of_none h.idle,
    if_neg (by simp [h.running])]
  rfl

/-- Where no plan waits, the retry of a report is a post of it (R166). -/
theorem State.Posting.retry_eq_post (h : s.Posting) (hl : s.journal.lets k = true)
    (hplans : s.journal.plans = []) :
    s.retry (s.reportNow k record detail) = s.post k record detail := by
  rw [h.post_eq record detail hl, State.retry]
  cases hi : s.journal.freeSlot with
  | none => rw [State.place_of_full _ _ hi, State.place_of_full _ _ hi]; rfl
  | some i =>
    rw [State.place_unstruck _ _ hi (by rw [hplans]; rfl),
      State.place_unstruck _ _ hi (by rw [hplans]; rfl)]
    rfl

/-- Where no plan waits, JOURNAL_SLOT_BAD is posted, unless masked, and the report after it (R166). -/
theorem State.Posting.slotBad_eq_posts (h : s.Posting) (hl : s.journal.lets k = true)
    (hplans : s.journal.plans = []) (slot : Fin 128) (serial : Long) :
    (s.reportNow k record detail).afterFirst (s, .failed slot serial) =
      (s.post .journalSlotBad 0
        [word slot.val, highHalf serial, lowHalf serial, word k.code]).post k record detail := by
  by_cases hbad : s.journal.lets .journalSlotBad = true
  · rw [h.post_eq _ _ hbad, Report.afterFirst, if_pos hbad, s.slotBadReport_reportNow]
    cases hi : s.journal.freeSlot with
    | none =>
      rw [State.place_of_full _ _ hi, State.place_of_full _ _ hi]
      exact (h.noRoom .journalSlotBad).retry_eq_post record detail hl hplans
    | some i =>
      have hplan : s.journal.plans.headD {} = {} := by rw [hplans]; rfl
      rw [State.place_unstruck _ _ hi hplan, State.place_unstruck _ _ hi hplan, Report.afterFirst,
        ← (h.filled i .held _).retry_eq_post record detail ((s.filled_lets i .held _ k).trans hl)
          (congrArg List.tail hplans), State.filled_reportNow]
      rfl
  · rw [State.post_of_ready _ _ _ h.ready, if_neg hbad, ← h.retry_eq_post record detail hl hplans]
    exact if_neg hbad

/-! ## What a post under a plan comes to -/

/-- The state with nothing to befall the slot writes to come. -/
def State.withoutPlans (s : State) : State := { s with journal := { s.journal with plans := [] } }

theorem State.withoutPlans_filled {plan : WritePlan} (h : s.journal.plans = [plan]) (x : Report) :
    s.withoutPlans.filled i .held (s.withoutPlans.slotWritten i x).memory =
      s.filled i .held (s.slotWritten i x).memory := by
  have hwritten : (s.withoutPlans.slotWritten i x).memory = (s.slotWritten i x).memory := by
    show (s.withoutPlans.memWriteAll (slotWrites i x s.journal.nextSerial)).memory = _
    rw [show s.withoutPlans = s.modJournal fun j => { j with plans := [] } from rfl,
      State.memWriteAll_modJournal, State.modJournal_memory, State.slotWritten]
  rw [hwritten, State.filled, State.filled, h]
  rfl

variable {w : Fin 16} {b c : Nat}

/-- A word struck in one bit leaves, on a canonical memory, the post that nothing strikes (R166). -/
theorem State.Posting.post_of_single_strike (h : s.Posting) (hl : s.journal.lets k = true)
    (hm : Memory.wf s.memory) (hi : s.journal.freeSlot = some i)
    (hplans : s.journal.plans = [{ hits := [(w, b)] }]) (h2 : w ≠ 2) (h3 : w ≠ 3) :
    s.post k record detail =
      s.withoutPlans.post k record detail := by
  have ht : s.withoutPlans.Posting := ⟨h.ready, h.idle, h.running⟩
  rw [h.post_eq record detail hl, ht.post_eq record detail hl,
    State.place_single _ _ hm hi (by rw [hplans]; rfl) h2 h3,
    State.place_unstruck (s := s.withoutPlans) _ _ hi rfl, s.withoutPlans_filled hplans]
  rfl

/-- A word struck in two bits takes the slot out, nothing outside the slot changes, and JOURNAL_SLOT_BAD
is posted and then the report again (R166). -/
theorem State.Posting.post_of_double_strike (h : s.Posting) (hl : s.journal.lets k = true)
    (hi : s.journal.freeSlot = some i) (hplans : s.journal.plans = [{ hits := [(w, b), (w, c)] }])
    (h2 : w ≠ 2) (h3 : w ≠ 3) (hbc : b ≠ c) :
    ∃ m, s.post k record detail =
        ((s.filled i .bad m).post .journalSlotBad 0 [word i.val, highHalf s.journal.nextSerial,
          lowHalf s.journal.nextSerial, word k.code]).post k record detail ∧
      ∀ a, (∀ d ∈ readBackWords, a ≠ journalBase i + d) →
        (s.filled i .bad m).memWord a = s.memWord a := by
  refine ⟨(s.slotMended i (s.reportNow k record detail) [(w, b), (w, c)]).memory, ?_, fun a ha => ?_⟩
  · rw [h.post_eq record detail hl, State.place_double _ _ hi (by rw [hplans]; rfl) h2 h3 hbc,
      ← (h.filled i .bad _).slotBad_eq_posts record detail ((s.filled_lets i .bad _ k).trans hl)
        (congrArg List.tail hplans), State.filled_reportNow]
  · rw [State.filled_memWord, State.slotMended_double_memWord_ne _ h2 h3 ha]

variable {j l : Fin 128}

/-- Where the slot of JOURNAL_SLOT_BAD fails too, the journal halts and both reports are counted (R166,
R168). -/
theorem State.Posting.post_of_slotBad_struck (h : s.Posting) (hl : s.journal.lets k = true)
    (hbad : s.journal.lets .journalSlotBad = true) (hi : s.journal.freeSlot = some i)
    (hj : ∀ m, (s.filled i .bad m).journal.freeSlot = some j)
    (hplans : s.journal.plans = [{ hits := [(w, b), (w, c)] }, { hits := [(w, b), (w, c)] }])
    (h2 : w ≠ 2) (h3 : w ≠ 3) (hbc : b ≠ c) :
    ∃ m n, s.post k record detail =
      (((s.filled i .bad m).filled j .bad n).haltJournal.countUnposted .journalSlotBad).countUnposted
        k := by
  rw [h.post_eq record detail hl, State.place_double _ _ hi (by rw [hplans]; rfl) h2 h3 hbc,
    Report.afterFirst, State.filled_lets, if_pos hbad,
    State.place_double _ _ (hj _) (by rw [State.filled_plans, hplans]; rfl) h2 h3 hbc,
    Report.afterSlotBad]
  exact ⟨_, _, rfl⟩

/-- Where the retry's slot fails, the journal halts and the report is counted (R166, R168). -/
theorem State.Posting.post_of_retry_struck (h : s.Posting) (hl : s.journal.lets k = true)
    (hbad : s.journal.lets .journalSlotBad = true) (hi : s.journal.freeSlot = some i)
    (hj : ∀ m, (s.filled i .bad m).journal.freeSlot = some j)
    (hn : ∀ m n, ((s.filled i .bad m).filled j .held n).journal.freeSlot = some l)
    (hplans : s.journal.plans = [{ hits := [(w, b), (w, c)] }, {}, { hits := [(w, b), (w, c)] }])
    (h2 : w ≠ 2) (h3 : w ≠ 3) (hbc : b ≠ c) :
    ∃ m n p, s.post k record detail =
      ((((s.filled i .bad m).filled j .held n).filled l .bad p).haltJournal).countUnposted k := by
  rw [h.post_eq record detail hl, State.place_double _ _ hi (by rw [hplans]; rfl) h2 h3 hbc,
    Report.afterFirst, State.filled_lets, if_pos hbad,
    State.place_unstruck _ _ (hj _) (by rw [State.filled_plans, hplans]; rfl), Report.afterSlotBad,
    State.retry, State.place_double _ _ (hn _ _)
      (by rw [State.filled_plans, State.filled_plans, hplans]; rfl) h2 h3 hbc]
  exact ⟨_, _, _, rfl⟩

end

/-! ## The unposted counts -/

theorem Kind.index_injective : Function.Injective Kind.index := fun x y h => by
  have hindex (k : Kind) : k.index.val = k.ctorIdx := by cases k <;> rfl
  rw [← Kind.ofNat_ctorIdx x, ← hindex, h, hindex, Kind.ofNat_ctorIdx]

section
variable (s : State) (k : Kind)

@[simp] theorem State.countUnposted_journalSlot (i : Fin 128) :
    (s.countUnposted k).journalSlot i = s.journalSlot i := rfl

@[simp] theorem State.haltJournal_journalSlot (i : Fin 128) :
    s.haltJournal.journalSlot i = s.journalSlot i := rfl

@[simp] theorem State.countUnposted_same :
    (s.countUnposted k).journal.unposted[k.index] =
      min 65535 (s.journal.unposted[k.index] + 1) := by
  simp [State.countUnposted, State.modJournal, satAdd]

theorem State.countUnposted_ne {x : Kind} (h : x ≠ k) :
    (s.countUnposted k).journal.unposted[x.index] = s.journal.unposted[x.index] := by
  have hindex : k.index.val ≠ x.index.val := fun e => h (Kind.index_injective (Fin.ext e)).symm
  simp [State.countUnposted, State.modJournal, Vector.getElem_set_ne, hindex]

end

end Sys2Proof.Machine
end

section
/-!
PROOFS. The read-back of a post (R166, R168): its statement fails on a control memory out of canonical
form, and holds once its one clause that compares whole states asks for the canonical form.
-/
namespace Sys2Proof.Proofs

open Sys2Proof.Machine

/-- The part in service with words 5 and 3 of journal slot 0 listed out of order, in a memory that
`Memory.wf` excludes; `plans` is what befalls the slot writes to come. -/
def outOfOrder (plans : List WritePlan) : State :=
  { State.reset with
    phase := .ready
    memory := [(6149, { raw := 1 }), (6147, { raw := 1 })]
    journal := { plans := plans } }

/-- A post that nothing strikes lists slot word 4 before word 5, which it then takes out for its value 0,
and so leaves word 4 before word 3. -/
theorem outOfOrder_post_memory :
    ((outOfOrder []).post .slip 0 []).memory =
      [(6145, { raw := 1 }), (6148, { raw := 0x0100 }), (6147, { raw := 1 })] := by decide

/-- With word 4 struck in one bit, the read-back writes that word anew and lists it after word 3. -/
theorem outOfOrder_struck_post_memory :
    ((outOfOrder [{ hits := [(4, 0)] }]).post .slip 0 []).memory =
      [(6145, { raw := 1 }), (6147, { raw := 1 }), (6148, { raw := 0x0100 })] := by decide

/-- Refutes O13: its first clause claims equal states for every control memory, and the two posts of
`outOfOrder` list the same words in two orders. What it says of the manual stands:
`readBackMendsOrRetries` proves its first part for canonical control memories, the form that every write
keeps, and `secondFailedReadBackHalts` its second part as it is. -/
theorem not_readBackMendsRetriesOrHalts : ¬ Obligations.ReadBackMendsRetriesOrHalts := by
  unfold Obligations.ReadBackMendsRetriesOrHalts
  intro h
  have hpost := (h.1 (outOfOrder [{ hits := [(4, 0)] }]) .slip 0 [] 0 rfl (by decide) rfl rfl
    (by decide) (fun j hj => absurd hj (Fin.not_lt_zero j)) 4 0 1 (by decide) (by decide)
    (by decide)).1 rfl
  have hmemory : ((outOfOrder [{ hits := [(4, 0)] }]).post .slip 0 []).memory =
      ((outOfOrder []).post .slip 0 []).memory := congrArg State.memory hpost
  rw [outOfOrder_struck_post_memory, outOfOrder_post_memory] at hmemory
  exact absurd hmemory (by decide)

/-- The first part of O13, with the premise `Memory.wf` that its clause on a single error lacks. -/
theorem readBackMendsOrRetries (s : State) (k : Kind) (record : Nat) (detail : List Word)
    (i : Fin 128) (hs : s.phase = .ready) (hmask : s.journal.kindMask.getLsbD (k.code - 1) = true)
    (hc : s.journal.current = none) (hh : s.journal.halted = false)
    (hfree : (s.journalSlot i).state = .free) (hbelow : ∀ j, j < i → (s.journalSlot j).state ≠ .free)
    (w : Fin 16) (b c : Nat) (h2 : w ≠ 2) (h3 : w ≠ 3) (hbc : b ≠ c) :
    (Memory.wf s.memory → s.journal.plans = [{ hits := [(w, b)] }] → s.post k record detail =
      ({ s with journal := { s.journal with plans := [] } } : State).post k record detail) ∧
    (s.journal.plans = [{ hits := [(w, b), (w, c)] }] → ∃ u : State,
      s.post k record detail =
        (u.post .journalSlotBad 0 [word i.val, highHalf s.journal.nextSerial,
          lowHalf s.journal.nextSerial, word k.code]).post k record detail ∧
      u = { s with
        memory := u.memory
        journal := { s.journal with
          slots := s.journal.slots.set i { state := .bad, serial := s.journal.nextSerial }
          nextSerial :=
            if s.journal.nextSerial = 0xFFFFFFFF then 1 else s.journal.nextSerial + 1
          plans := [] } } ∧
      ∀ a, (∀ d, d < 16 → d ≠ 2 → d ≠ 3 → a ≠ 0x1800 + 16 * i.val + d) →
        u.memWord a = s.memWord a) := by
  have h : s.Posting := ⟨hs, hc, hh⟩
  have hi : s.journal.freeSlot = some i := Journal.freeSlot_eq_some.mpr ⟨hfree, hbelow⟩
  refine ⟨fun hm hplans => h.post_of_single_strike record detail hmask hm hi hplans h2 h3,
    fun hplans => ?_⟩
  obtain ⟨m, hposts, hwords⟩ := h.post_of_double_strike record detail hmask hi hplans h2 h3 hbc
  refine ⟨s.filled i .bad m, hposts, s.filled_of_idle hc hplans .bad m,
    fun a ha => hwords a fun d hd => ?_⟩
  have hoffset : ∀ d ∈ readBackWords, d < 16 ∧ d ≠ 2 ∧ d ≠ 3 := by decide
  obtain ⟨hlt, hd2, hd3⟩ := hoffset d hd
  exact ha d hlt hd2 hd3

/-- The second part of O13: a second failed read-back, of JOURNAL_SLOT_BAD or of the retry. -/
theorem secondFailedReadBackHalts (s : State) (k : Kind) (record : Nat) (detail : List Word)
    (hs : s.phase = .ready) (hmask : ∀ x : Kind, s.journal.kindMask.getLsbD (x.code - 1) = true)
    (hc : s.journal.current = none) (hh : s.journal.halted = false) (hk : k ≠ .journalSlotBad)
    (hfree : ∀ i, (s.journalSlot i).state = .free)
    (w : Fin 16) (b c : Nat) (h2 : w ≠ 2) (h3 : w ≠ 3) (hbc : b ≠ c) :
    let t := s.post k record detail
    let unposted := fun x : Kind => t.journal.unposted[x.index]
    (s.journal.plans = [{ hits := [(w, b), (w, c)] }, { hits := [(w, b), (w, c)] }] →
      t.journal.halted = true ∧ t.attention = { s.attention with critical := true } ∧
      (t.journalSlot 0).state = .bad ∧ (t.journalSlot 1).state = .bad ∧
      (∀ i, 2 ≤ i → t.journalSlot i = s.journalSlot i) ∧
      unposted k = min 65535 (s.journal.unposted[k.index] + 1) ∧
      unposted .journalSlotBad =
        min 65535 (s.journal.unposted[Kind.journalSlotBad.index] + 1)) ∧
    (s.journal.plans = [{ hits := [(w, b), (w, c)] }, {}, { hits := [(w, b), (w, c)] }] →
      t.journal.halted = true ∧ t.attention = { s.attention with critical := true } ∧
      (t.journalSlot 0).state = .bad ∧ (t.journalSlot 1).state = .held ∧
      (t.journalSlot 2).state = .bad ∧
      (∀ i, 3 ≤ i → t.journalSlot i = s.journalSlot i) ∧
      unposted k = min 65535 (s.journal.unposted[k.index] + 1) ∧
      unposted .journalSlotBad = s.journal.unposted[Kind.journalSlotBad.index]) := by
  have h : s.Posting := ⟨hs, hc, hh⟩
  have hfree0 : s.journal.freeSlot = some 0 :=
    Journal.freeSlot_eq_some.mpr ⟨hfree 0, fun j hj => absurd hj (Fin.not_lt_zero j)⟩
  have hfree1 (m : Memory) : (s.filled 0 .bad m).journal.freeSlot = some 1 :=
    s.filled_freeSlot m (hfree 1) (by decide) (by decide) fun j hj hne => by omega
  have hfree2 (m n : Memory) : ((s.filled 0 .bad m).filled 1 .held n).journal.freeSlot = some 2 := by
    refine State.filled_freeSlot n ?_ (by decide) (by decide) fun j hj hne => ?_
    · rw [State.filled_journalSlot_ne (by decide), hfree]
    · rw [show j = 0 by omega, State.filled_journalSlot_same]
      nofun
  dsimp only
  refine ⟨fun hplans => ?_, fun hplans => ?_⟩
  · obtain ⟨m, n, ht⟩ := h.post_of_slotBad_struck record detail (hmask k) (hmask .journalSlotBad)
      hfree0 hfree1 hplans h2 h3 hbc
    simp only [ht, State.countUnposted_journalSlot, State.haltJournal_journalSlot]
    refine ⟨rfl, rfl, ?_, ?_, fun i hi => ?_, ?_, ?_⟩
    · rw [State.filled_journalSlot_ne (by decide), State.filled_journalSlot_same]
    · rw [State.filled_journalSlot_same]
    · rw [State.filled_journalSlot_ne (by omega), State.filled_journalSlot_ne (by omega)]
    · rw [State.countUnposted_same, State.countUnposted_ne _ _ hk]
      rfl
    · rw [State.countUnposted_ne _ _ hk.symm, State.countUnposted_same]
      rfl
  · obtain ⟨m, n, p, ht⟩ := h.post_of_retry_struck record detail (hmask k) (hmask .journalSlotBad)
      hfree0 hfree1 hfree2 hplans h2 h3 hbc
    simp only [ht, State.countUnposted_journalSlot, State.haltJournal_journalSlot]
    refine ⟨rfl, rfl, ?_, ?_, ?_, fun i hi => ?_, ?_, ?_⟩
    · rw [State.filled_journalSlot_ne (by decide), State.filled_journalSlot_ne (by decide),
        State.filled_journalSlot_same]
    · rw [State.filled_journalSlot_ne (by decide), State.filled_journalSlot_same]
    · rw [State.filled_journalSlot_same]
    · rw [State.filled_journalSlot_ne (by omega), State.filled_journalSlot_ne (by omega),
        State.filled_journalSlot_ne (by omega)]
    · rw [State.countUnposted_same]
      rfl
    · rw [State.countUnposted_ne _ _ hk.symm]
      rfl

end Sys2Proof.Proofs
end

section
/-!
SUPPORT. What the steps keep of the memories, the lines and spare control, in one relation from state to
state: the rules for one line given new items, and for spare control.
-/
namespace Sys2Proof.Machine

/-! ## The promises kept together -/

/-- No line is concerned outside an operation (R120): the part of `Spare.settled` that holds in the midst
of an event as well. -/
abbrev Spare.marked (x : Spare) : Prop := x.state.operating = none → x.coverage = clearedCoverage

theorem Spare.settled.marked {x : Spare} (h : x.settled) : x.marked := h.1

/-- From line l to line k the ring stays legal and the framer in agreement. -/
structure Line.KeepsItems (l k : Line) : Prop where
  ring : l.ringLegal → k.ringLegal
  framer : l.framerAgrees → k.framerAgrees

/-- From line l to line k the slots the line holds in service stay the same as well. -/
structure Line.KeepsSound (l k : Line) : Prop extends Line.KeepsItems l k where
  service : k.state.inService = l.state.inService
  placement : k.placement = l.placement

theorem Line.KeepsSound.refl (l : Line) : l.KeepsSound l := ⟨⟨id, id⟩, rfl, rfl⟩

/-- From s to t the memories stay canonical and spare control marked. -/
structure State.KeepsStores (s t : State) : Prop where
  memory : Memory.wf s.memory → Memory.wf t.memory
  slots : SlotStore.wf s.slots → SlotStore.wf t.slots
  marked : s.spare.marked → t.spare.marked

/-- From s to t each promise about the memories, each line and spare control that s meets is met. -/
structure State.KeepsItems (s t : State) : Prop extends State.KeepsStores s t where
  rings : s.ringsLegal → t.ringsLegal
  framers : s.framersAgree → t.framersAgree
  settled : s.spare.settled → t.spare.settled

/-- From s to t the rings of the lines in service stay disjoint as well. -/
structure State.KeepsSound (s t : State) : Prop extends State.KeepsItems s t where
  disjoint : s.ringsDisjoint → t.ringsDisjoint

section
variable {s t u : State}

theorem State.KeepsStores.refl (s : State) : s.KeepsStores s := ⟨id, id, id⟩

theorem State.KeepsStores.trans (h : s.KeepsStores t) (k : t.KeepsStores u) : s.KeepsStores u :=
  ⟨k.memory ∘ h.memory, k.slots ∘ h.slots, k.marked ∘ h.marked⟩

theorem State.KeepsItems.trans (h : s.KeepsItems t) (k : t.KeepsItems u) : s.KeepsItems u :=
  ⟨h.toKeepsStores.trans k.toKeepsStores, k.rings ∘ h.rings, k.framers ∘ h.framers,
    k.settled ∘ h.settled⟩

theorem State.KeepsSound.refl (s : State) : s.KeepsSound s := ⟨⟨.refl s, id, id, id⟩, id⟩

theorem State.KeepsSound.trans (h : s.KeepsSound t) (k : t.KeepsSound u) : s.KeepsSound u :=
  ⟨h.toKeepsItems.trans k.toKeepsItems, k.disjoint ∘ h.disjoint⟩

theorem State.KeepsSound.ite (c : Prop) [Decidable c] (ht : s.KeepsSound t) (hu : s.KeepsSound u) :
    s.KeepsSound (if c then t else u) := by
  split
  · exact ht
  · exact hu

theorem State.KeepsSound.foldl {β : Type} (f : State → β → State)
    (h : ∀ (s : State) b, s.KeepsSound (f s b)) (l : List β) (s : State) :
    s.KeepsSound (l.foldl f s) := by
  induction l generalizing s with
  | nil => exact .refl s
  | cons b l ih => exact (h s b).trans (ih _)

/-- Lines that each keep their items keep them all. -/
theorem State.KeepsItems.of_lines (hs : s.KeepsStores t) (hset : s.spare.settled → t.spare.settled)
    (h : ∀ n, (s.line n).KeepsItems (t.line n)) : s.KeepsItems t :=
  ⟨hs, fun hr n => (h n).ring (hr n), fun hf n => (h n).framer (hf n), hset⟩

/-- Lines that each stay sound keep the rings disjoint. -/
theorem State.KeepsSound.of_lines (hs : s.KeepsStores t) (hset : s.spare.settled → t.spare.settled)
    (h : ∀ n, (s.line n).KeepsSound (t.line n)) : s.KeepsSound t where
  toKeepsItems := .of_lines hs hset fun n => (h n).toKeepsItems
  disjoint hd n m hnm hn hm := by
    rw [(h n).placement, (h m).placement]
    exact hd n m hnm ((h n).service ▸ hn) ((h m).service ▸ hm)

/-- Nothing but the memory, the journal, the control plane and the timing differs. -/
theorem State.KeepsSound.of_eq (hm : Memory.wf s.memory → Memory.wf t.memory) (hl : t.lines = s.lines)
    (hs : t.slots = s.slots) (hsp : t.spare = s.spare) : s.KeepsSound t :=
  .of_lines ⟨hm, hs ▸ id, hsp ▸ id⟩ (hsp ▸ id) fun n => by
    have : t.line n = s.line n := by simp [State.line, hl]
    exact this ▸ .refl _

end

/-- From s to t line n is given the items l, and no other line changes. -/
structure State.Puts (n : LineNo) (l : Line) (s t : State) : Prop extends State.KeepsStores s t where
  line : t.line n = l
  other : ∀ m, m ≠ n → t.line m = s.line m
  settled : s.spare.settled → t.spare.settled

section
variable {s t u : State} {n : LineNo} {l k : Line}

theorem State.Puts.refl (s : State) (n : LineNo) : State.Puts n (s.line n) s s :=
  ⟨.refl s, rfl, fun _ _ => rfl, id⟩

theorem State.Puts.trans (h : State.Puts n l s t) (g : State.Puts n k t u) : State.Puts n k s u :=
  ⟨h.toKeepsStores.trans g.toKeepsStores, g.line, fun m hm => (g.other m hm).trans (h.other m hm),
    g.settled ∘ h.settled⟩

/-- An event of one line is sound where the line stays sound. -/
theorem State.Puts.keepsSound (h : State.Puts n l s t) (hl : (s.line n).KeepsSound l) :
    s.KeepsSound t :=
  .of_lines h.toKeepsStores h.settled fun m => by
    by_cases hm : m = n
    · rw [hm, h.line]
      exact hl
    · rw [h.other m hm]
      exact .refl _

/-- An event of one line keeps every item where it keeps the line's. -/
theorem State.Puts.keepsItems (h : State.Puts n l s t) (hl : (s.line n).KeepsItems l) :
    s.KeepsItems t :=
  .of_lines h.toKeepsStores h.settled fun m => by
    by_cases hm : m = n
    · rw [hm, h.line]
      exact hl
    · rw [h.other m hm]
      exact ⟨id, id⟩

theorem State.Puts.ite (c : Prop) [Decidable c] (ht : State.Puts n l s t) (hu : State.Puts n k s u) :
    State.Puts n (if c then l else k) s (if c then t else u) := by
  split
  · exact ht
  · exact hu

end

/-! ## One line -/

section
variable (s : State) (n : LineNo)

theorem State.setLine_puts (l : Line) : State.Puts n l s (s.setLine n l) :=
  ⟨⟨id, id, id⟩, by simp, fun _ h => s.setLine_line_ne h l, id⟩

theorem State.modLine_puts (f : Line → Line) : State.Puts n (f (s.line n)) s (s.modLine n f) :=
  s.setLine_puts n _

theorem State.post_puts (k : Kind) (record : Nat) (detail : List Word) :
    State.Puts n (s.line n) s (s.post k record detail) where
  memory h := State.post_wf h k record detail
  slots h := by simpa using h
  marked h := by simpa using h
  line := by simp
  other _ _ := by simp
  settled h := by simpa using h

theorem State.setBank_puts (b : Fin 9) (c : BankCounts) :
    State.Puts n (s.line n) s (s.setBank b c) := ⟨⟨id, id, id⟩, rfl, fun _ _ => rfl, id⟩

theorem State.setGathered_puts (x : Gathered) :
    State.Puts n (s.line n) s (s.setGathered n x) := ⟨⟨id, id, id⟩, rfl, fun _ _ => rfl, id⟩

theorem State.setSlot_puts (b : Fin 9) (i : Nat) (x : Slot) :
    State.Puts n (s.line n) s (s.setSlot b i x) :=
  ⟨⟨id, fun h => State.setSlot_wf s h b i x, id⟩, rfl, fun _ _ => rfl, id⟩

theorem State.Puts.foldl {β : Type} (f : State → β → State)
    (h : ∀ (s : State) b, State.Puts n (s.line n) s (f s b)) (l : List β) (s : State) :
    State.Puts n (s.line n) s (l.foldl f s) := by
  induction l generalizing s with
  | nil => exact .refl s n
  | cons b l ih => exact (h s b).line ▸ (h s b).trans (ih _)

theorem State.writeSlot_puts (k : Fin 8) (i : Nat) (x : Slot) :
    State.Puts n (s.line n) s (s.writeSlot k i x) :=
  State.Puts.foldl n _ (fun t b => t.setSlot_puts n b i x) _ s

/-- The items of a line that changes state (section 1.5, R16). -/
def Line.changed (l : Line) (new : LineState) (cause : LineCause) : Line :=
  { l with state := new, lastCause := if l.state = new then l.lastCause else cause }

theorem State.changeLine_eq (new : LineState) (cause : LineCause) :
    s.changeLine n new cause = (s.setLine n ((s.line n).changed new cause)).post .lineState
      (16 + n.val) [word (s.line n).state.code, word new.code, word cause.code] := rfl

theorem State.changeLine_puts (new : LineState) (cause : LineCause) :
    State.Puts n ((s.line n).changed new cause) s (s.changeLine n new cause) := by
  have h := s.setLine_puts n ((s.line n).changed new cause)
  exact h.line ▸ h.trans (State.post_puts _ n _ _ _)

end

/-! ## Spare control -/

section
variable (s : State)

theorem State.enterSpare_marked (new : SpareState) (cause : SpareCause) (bank : Fin 8) :
    (s.enterSpare new cause bank).spare.marked := by
  intro h
  rw [State.enterSpare_state] at h
  rw [s.enterSpare_of_none h, State.putSpare_spare, clearedCoverage_eq]

/-- Where no operation goes on, or a line is PENDING, spare control that is marked is settled. -/
theorem State.settleSpare_settled (h : s.spare.marked) : s.settleSpare.spare.settled := by
  unfold State.settleSpare
  split
  · next hn => exact ⟨h, fun hne => absurd hn hne⟩
  · next k hk =>
    split
    · have hstate := s.enterSpare_state s.spare.state.completed .complete k
      refine ⟨State.enterSpare_marked s _ _ _, fun hne => absurd ?_ hne⟩
      rw [hstate]
      exact SpareState.completed_operating _
    · next ho => exact ⟨h, fun _ => ho⟩

theorem State.enterSpare_stores (new : SpareState) (cause : SpareCause) (bank : Fin 8) :
    s.KeepsStores (s.enterSpare new cause bank) where
  memory h := State.post_wf (by exact h) _ _ _
  slots h := by simpa [State.enterSpare] using h
  marked _ := s.enterSpare_marked new cause bank

theorem State.enterSpare_line (new : SpareState) (cause : SpareCause) (bank : Fin 8) (n : LineNo) :
    (s.enterSpare new cause bank).line n = s.line n := by simp [State.enterSpare]

theorem State.settleSpare_stores : s.KeepsStores s.settleSpare := by
  unfold State.settleSpare
  split
  · exact .refl s
  · split
    · exact s.enterSpare_stores _ _ _
    · exact .refl s

@[simp] theorem State.settleSpare_line (n : LineNo) : s.settleSpare.line n = s.line n := by
  unfold State.settleSpare
  split
  · rfl
  · split
    · exact s.enterSpare_line _ _ _ n
    · rfl

theorem State.startSpare_puts (new : SpareState) (cause : SpareCause) (bank : Fin 8) (n : LineNo) :
    State.Puts n (s.line n) s (s.startSpare new cause bank) where
  toKeepsStores := (s.enterSpare_stores _ _ _).trans (State.settleSpare_stores _)
  line := by simp [State.startSpare, State.enterSpare_line]
  other m _ := by simp [State.startSpare, State.enterSpare_line]
  settled _ := State.settleSpare_settled _ (s.enterSpare_marked _ _ _)

/-- An entry to a state in which no operation goes on leaves spare control settled. -/
theorem State.enterSpare_puts {new : SpareState} (h : new.operating = none) (cause : SpareCause)
    (bank : Fin 8) (n : LineNo) : State.Puts n (s.line n) s (s.enterSpare new cause bank) where
  toKeepsStores := s.enterSpare_stores _ _ _
  line := s.enterSpare_line _ _ _ n
  other m _ := s.enterSpare_line _ _ _ m
  settled _ := ⟨s.enterSpare_marked _ _ _, fun hne => by
    rw [State.enterSpare_state] at hne
    exact absurd h hne⟩

theorem State.autoSwap_puts (b : Fin 9) (n : LineNo) :
    State.Puts n (s.line n) s (s.autoSwap b) := by
  unfold State.autoSwap
  split
  · split
    · exact s.startSpare_puts _ _ _ n
    · exact .refl s n
  · exact .refl s n

theorem State.takeSwap_puts (k : Fin 8) (n : LineNo) : State.Puts n (s.line n) s (s.takeSwap k) := by
  unfold State.takeSwap
  split
  · exact s.startSpare_puts _ _ _ n
  all_goals exact .refl s n

theorem State.takeReturn_puts (n : LineNo) : State.Puts n (s.line n) s s.takeReturn := by
  unfold State.takeReturn
  split
  · exact .refl s n
  · exact .refl s n
  · exact s.startSpare_puts _ _ _ n
  · exact .refl s n

theorem State.takeCancel_puts (n : LineNo) : State.Puts n (s.line n) s s.takeCancel := by
  unfold State.takeCancel
  split
  · exact .refl s n
  · exact s.enterSpare_puts rfl _ _ n
  · exact .refl s n
  · exact s.enterSpare_puts rfl _ _ n

theorem State.setCover_line_cover (n : LineNo) (c : Coverage) (m : LineNo) :
    (s.setCover n c).spare.coverage[m] = if m = n then c else s.spare.coverage[m] := by
  by_cases h : m = n
  · rw [if_pos h, h]
    exact s.setCover_cover_same n c
  · rw [if_neg h]
    exact s.setCover_cover_ne h c

/-- New coverage for a line of an operation keeps spare control marked. -/
theorem State.setCover_stores {n : LineNo} (c : Coverage)
    (h : s.spare.marked → s.spare.state.operating ≠ none) : s.KeepsStores (s.setCover n c) :=
  ⟨id, id, fun hm hn => absurd hn (h hm)⟩

theorem State.operating_of_pending {n : LineNo} (hm : s.spare.marked)
    (h : (s.cover n).mark = .pending) : s.spare.state.operating ≠ none := by
  intro hn
  have hc := hm hn
  rw [State.cover, hc, clearedCoverage_eq] at h
  simp at h

theorem State.coverLine_puts (n m : LineNo) : State.Puts m (s.line m) s (s.coverLine n) := by
  unfold State.coverLine
  split
  · next hp =>
    have hs : s.KeepsStores (s.setCover n { s.cover n with mark := .covered }) :=
      s.setCover_stores _ fun hm => s.operating_of_pending hm hp
    exact ⟨hs.trans (State.settleSpare_stores _), by simp, fun _ _ => by simp,
      fun h => State.settleSpare_settled _ (hs.marked h.marked)⟩
  · exact .refl s m
  · exact .refl s m

theorem State.countCoverage_puts (n : LineNo) : State.Puts n (s.line n) s (s.countCoverage n) := by
  unfold State.countCoverage
  split
  · exact .refl s n
  · next k hk =>
    split
    · have hop : s.spare.state.operating ≠ none := by simp [hk]
      have hput : State.Puts n (s.line n) s
          (s.setCover n { s.cover n with count := satAdd 32 (s.cover n).count 1 }) := by
        refine ⟨s.setCover_stores _ fun _ => hop, rfl, fun _ _ => rfl, fun h => ?_⟩
        obtain ⟨_, hout⟩ := h
        refine ⟨fun hn => absurd hn hop, fun _ hz => hout hop ?_⟩
        rw [Spare.outstanding_eq_zero_iff] at hz ⊢
        intro m
        have := hz m
        rw [State.setCover_line_cover] at this
        split at this
        · next hm => exact hm ▸ this
        · exact this
      dsimp only
      split
      · exact hput.line ▸ hput.trans (State.coverLine_puts _ n n)
      · exact hput
    · exact .refl s n

/-! ## Store reset -/

/-- The items of a line after a store reset with its entry to FILLING (R16, R34). -/
def Line.refilled (l : Line) (cause : LineCause) : Line :=
  { l.changed .filling cause with ring := { readIndex := l.placement.u, held := 0 } }

theorem State.storeReset_puts (n : LineNo) : State.Puts n
    { s.line n with ring := { readIndex := (s.line n).placement.u, held := 0 } } s
    (s.storeReset n) := by
  have hring := s.modLine_puts n fun l =>
    { l with ring := { readIndex := (s.line n).placement.u, held := 0 } }
  have hslots := State.Puts.foldl n (fun (t : State) j => t.writeSlot (s.line n).placement.bank
      ((s.line n).placement.slotAt j) {}) (fun t j => t.writeSlot_puts n _ _ _)
      (List.range (s.line n).placement.u) (s.modLine n fun l =>
        { l with ring := { readIndex := (s.line n).placement.u, held := 0 } })
  have hboth := hring.trans (hring.line ▸ hslots)
  exact hboth.line ▸ hboth.trans (State.coverLine_puts _ n n)

theorem State.refill_puts (n : LineNo) (cause : LineCause) :
    State.Puts n ((s.line n).refilled cause) s (s.refill n cause) := by
  have h := s.changeLine_puts n .filling cause
  have hr := State.storeReset_puts (s.changeLine n .filling cause) n
  rw [h.line] at hr
  exact h.trans hr

end

end Sys2Proof.Machine
end

section
/-!
SUPPORT. The promises about the memories, the lines and spare control across the events of one line: its
framer, its writer, its window unit and its reader.
-/
namespace Sys2Proof.Machine

/-! ## Lines given new items -/

section
variable {l k : Line}

/-- Items that no promise about a line speaks of have changed. -/
theorem Line.KeepsSound.of_kept (hs : k.state = l.state) (hp : k.placement = l.placement)
    (hr : k.ring.held = l.ring.held) (hlow : k.reader.adopt.tLow = l.reader.adopt.tLow)
    (hhigh : k.reader.adopt.tHigh = l.reader.adopt.tHigh) (hheld : k.framer.held = l.framer.held)
    (hlocked : k.framer.state = .locked ↔ l.framer.state = .locked) : l.KeepsSound k where
  ring h := by
    unfold Line.ringLegal at h ⊢
    rw [hs, hp, hr, hlow, hhigh]
    exact h
  framer h := by
    unfold Line.framerAgrees at h ⊢
    rw [hs, hheld, hlocked]
    exact h
  service := by rw [hs]
  placement := hp

/-- The held count, the framer or the state has changed under the same placement and thresholds. -/
theorem Line.KeepsSound.of_ring (hp : k.placement = l.placement)
    (hlow : k.reader.adopt.tLow = l.reader.adopt.tLow)
    (hhigh : k.reader.adopt.tHigh = l.reader.adopt.tHigh)
    (hr : l.ringLegal → k.ring.held ≤ l.placement.heldMax
      ∧ (k.state = .out ∨ k.state = .hunting ∨ k.state = .dead → k.ring.held = 0))
    (hf : l.framerAgrees → k.framerAgrees) (hs : k.state.inService = l.state.inService) :
    l.KeepsSound k where
  ring h := by
    obtain ⟨hheld, hempty⟩ := hr h
    obtain ⟨hlegal, _, _, hfit⟩ := h
    unfold Line.ringLegal
    rw [hp, hlow, hhigh]
    exact ⟨hlegal, hheld, hempty, hfit⟩
  framer := hf
  service := hs
  placement := hp

/-- A line whose ring is empty meets its bounds under the same placement and thresholds. -/
theorem Line.KeepsSound.of_empty (hp : k.placement = l.placement)
    (hlow : k.reader.adopt.tLow = l.reader.adopt.tLow)
    (hhigh : k.reader.adopt.tHigh = l.reader.adopt.tHigh) (hr : k.ring.held = 0)
    (hf : l.framerAgrees → k.framerAgrees) (hs : k.state.inService = l.state.inService) :
    l.KeepsSound k :=
  .of_ring hp hlow hhigh (fun _ => ⟨hr ▸ Nat.zero_le _, fun _ => hr⟩) hf hs

/-- A new framer that is held and LOCKED as the old one was. -/
theorem Line.KeepsSound.of_framer (l : Line) (c : Nat) {f : Framer} (hheld : f.held = l.framer.held)
    (hlocked : f.state = .locked ↔ l.framer.state = .locked) :
    l.KeepsSound { l with bitCount := c, framer := f } :=
  .of_kept rfl rfl rfl rfl rfl hheld hlocked

/-- A FILLING or RUNNING line that is refilled (R34). -/
theorem Line.refilled_keepsSound (h : l.state = .filling ∨ l.state = .running) (cause : LineCause) :
    l.KeepsSound (l.refilled cause) :=
  .of_empty rfl rfl rfl rfl
    (fun hf => by
      unfold Line.framerAgrees at hf ⊢
      rcases h with h | h <;> simpa [Line.refilled, Line.changed, h] using hf)
    (by rcases h with h | h <;> rw [h] <;> rfl)

end

/-! ## The framer and the writer -/

section
variable (s : State) (n : LineNo)

theorem State.post_keepsSound (k : Kind) (record : Nat) (detail : List Word) :
    s.KeepsSound (s.post k record detail) := (s.post_puts 0 k record detail).keepsSound (.refl _)

theorem State.modLine_keepsSound {f : Line → Line} (h : (s.line n).KeepsSound (f (s.line n))) :
    s.KeepsSound (s.modLine n f) := (s.modLine_puts n f).keepsSound h

theorem State.recordBit_keepsSound (b : Bool) : s.KeepsSound (s.recordBit n b) := by
  refine s.modLine_keepsSound n (.of_framer _ _ ?_ ?_) <;> split <;> simp [Framer.push]

theorem State.recordOctet_keepsSound (o : Octet) : s.KeepsSound (s.recordOctet n o) :=
  .foldl (fun t b => t.recordBit n b) (fun t b => t.recordBit_keepsSound n b) _ s

theorem Framer.huntExamine_kept (f : Framer) (h : f.state = .hunt) :
    f.huntExamine.held = f.held ∧ f.huntExamine.state ≠ .locked := by
  unfold Framer.huntExamine
  split
  · exact ⟨rfl, by rw [h]; decide⟩
  · split
    · exact ⟨rfl, by simp⟩
    · exact ⟨rfl, by rw [h]; decide⟩

theorem State.huntExamine_keepsSound (h : (s.line n).framer.state = .hunt) :
    s.KeepsSound (s.setFramer n (s.line n).framer.huntExamine) := by
  obtain ⟨hheld, hstate⟩ := Framer.huntExamine_kept _ h
  exact s.modLine_keepsSound n (.of_framer _ _ hheld (by simp [hstate, h]))

theorem State.writeFrame_keepsSound (payload : List Octet) (tag : GroupPos) :
    s.KeepsSound (s.writeFrame n payload tag) := by
  unfold State.writeFrame
  dsimp only
  split
  · next hstate =>
    split
    · next hroom =>
      have hslot := s.writeSlot_puts n (s.line n).placement.bank ((s.line n).placement.slotAt
        ((s.line n).ring.readIndex + (s.line n).ring.held))
        { payload := payload, position := tag, filler := false }
      refine .trans (hslot.keepsSound (.refl _)) ?_
      refine .trans (State.modLine_keepsSound _ n ?_)
        ((State.countCoverage_puts _ n).keepsSound (.refl _))
      rw [hslot.line]
      refine .of_ring rfl rfl rfl (fun _ => ⟨hroom, fun h => ?_⟩) id rfl
      rcases hstate with hs | hs <;> simp [hs] at h
    · exact (s.modLine_keepsSound n (.of_kept rfl rfl rfl rfl rfl rfl .rfl)).trans
        ((State.setGathered_puts _ n _).keepsSound (.refl _))
  · exact .refl s

theorem State.deliver_keepsSound : s.KeepsSound (s.deliver n) :=
  (s.modLine_keepsSound n (.of_kept rfl rfl rfl rfl rfl rfl .rfl)).trans
    (State.writeFrame_keepsSound _ n _ _)

theorem Framer.resume_kept (f : Framer) : f.resume.held = f.held ∧ f.resume.state ≠ .locked := by
  unfold Framer.resume
  split
  · exact ⟨rfl, by simp⟩
  · exact ⟨rfl, by simp⟩

theorem Framer.confirmExamine_held (f : Framer) (c : Nat) : (f.confirmExamine c).held = f.held := by
  unfold Framer.confirmExamine
  split
  · split <;> rfl
  · exact f.resume_kept.1

/-- A line whose framer is in CONFIRM and not held is HUNTING (R2). -/
theorem Line.framerAgrees.hunting {l : Line} (h : l.framerAgrees) (hheld : l.framer.held = false)
    (hstate : l.framer.state = .confirm) : l.state = .hunting := by
  obtain ⟨hout, hlocked⟩ := h
  rw [hheld] at hout
  rw [hstate] at hlocked
  cases hl : l.state <;> simp [hl] at hout hlocked ⊢

theorem State.confirmCheck_keepsSound (hheld : (s.line n).framer.held = false)
    (hstate : (s.line n).framer.state = .confirm) : s.KeepsSound (s.confirmCheck n) := by
  have hkept := Framer.confirmExamine_held (s.line n).framer (s.line n).confirmCount
  unfold State.confirmCheck
  dsimp only
  split
  · next hlocked =>
    have hput := s.modLine_puts n fun l =>
      { l with framer := (s.line n).framer.confirmExamine (s.line n).confirmCount }
    unfold State.reportLocked State.setFramer
    rw [hput.line]
    cases hl : (s.line n).state with
    | hunting =>
      have hrefill := State.refill_puts (s.modLine n fun l =>
        { l with framer := (s.line n).framer.confirmExamine (s.line n).confirmCount }) n .locked
      rw [hput.line] at hrefill
      refine (hput.trans hrefill).keepsSound (.of_empty rfl rfl rfl rfl (fun _ => ?_) (by rw [hl]; rfl))
      unfold Line.framerAgrees
      simp [Line.refilled, Line.changed, hkept, hheld, hlocked]
    | out | filling | running | dead =>
      refine hput.keepsSound (.of_ring rfl rfl rfl (fun h => ⟨h.2.1, h.2.2.1⟩) (fun hf => ?_) rfl)
      have := hf.hunting hheld hstate
      simp [hl] at this
  · next hnot =>
    exact s.modLine_keepsSound n (.of_framer _ _ hkept (by simp [hnot, hstate]))

theorem State.countAlignError_puts : ∃ c : LineCounters,
    State.Puts n { s.line n with counters := c } s (s.countAlignError n) := by
  have h := s.modLine_puts n fun l =>
    { l with counters := { l.counters with alignErrors := l.counters.alignErrors + 1 } }
  exact ⟨_, h.line ▸ h.trans (State.setGathered_puts _ n _)⟩

/-- A line whose framer is LOCKED is FILLING or RUNNING (R2). -/
theorem Line.framerAgrees.serving {l : Line} (h : l.framerAgrees) (hstate : l.framer.state = .locked) :
    l.state = .filling ∨ l.state = .running := h.2.mp hstate

theorem State.lockedCheck_keepsSound (hstate : (s.line n).framer.state = .locked) : s.KeepsSound (s.lockedCheck n) := by
  obtain ⟨c, hcount⟩ := s.countAlignError_puts n
  unfold State.lockedCheck
  dsimp only
  split
  · exact s.modLine_keepsSound n (.of_framer _ _ rfl .rfl)
  · split
    · have hput := hcount.trans (State.modLine_puts _ n fun l => { l with framer := huntingFramer false })
      rw [hcount.line] at hput
      unfold State.reportLost State.setFramer
      rw [hput.line]
      have hlost : (s.line n).state = .filling ∨ (s.line n).state = .running →
          s.KeepsSound ((((s.countAlignError n).modLine n fun l =>
            { l with framer := huntingFramer false }).emptyRing n).changeLine n .hunting .lost) := by
        intro hserving
        have hempty := hput.trans (State.modLine_puts _ n fun l => { l with ring := { l.ring with held := 0 } })
        rw [hput.line] at hempty
        have hchange := State.changeLine_puts (((s.countAlignError n).modLine n fun l =>
            { l with framer := huntingFramer false }).emptyRing n) n .hunting .lost
        unfold State.emptyRing at hchange
        rw [hempty.line] at hchange
        refine (hempty.trans hchange).keepsSound (.of_empty rfl rfl rfl rfl (fun _ => ?_) ?_)
        · unfold Line.framerAgrees
          simp [Line.changed, huntingFramer]
        · rcases hserving with h | h <;> rw [h] <;> rfl
      cases hl : (s.line n).state with
      | filling => exact hlost (.inl hl)
      | running => exact hlost (.inr hl)
      | out | hunting | dead =>
        refine hput.keepsSound (.of_ring rfl rfl rfl (fun h => ⟨h.2.1, h.2.2.1⟩) (fun hf => ?_) rfl)
        have := hf.serving hstate
        simp [hl] at this
    · have hput := hcount.trans (State.modLine_puts _ n fun l =>
        { l with framer := { (s.line n).framer with
          errorCount := (s.line n).framer.errorCount + 1, framePosition := 8, payload := [] } })
      rw [hcount.line] at hput
      exact hput.keepsSound (.of_kept rfl rfl rfl rfl rfl rfl .rfl)

theorem State.framerStep_keepsSound (hheld : (s.line n).framer.held = false) :
    s.KeepsSound (s.framerStep n) := by
  unfold State.framerStep
  dsimp only
  split
  · next h => exact s.huntExamine_keepsSound n h
  · next h =>
    split
    · exact s.confirmCheck_keepsSound n hheld h
    · exact .refl s
  · next h =>
    split
    · exact s.lockedCheck_keepsSound n h
    · split
      · exact s.deliver_keepsSound n
      · split <;> exact s.modLine_keepsSound n (.of_framer _ _ rfl .rfl)

theorem State.recordBit_framer (b : Bool) :
    ((s.recordBit n b).line n).framer.held = (s.line n).framer.held ∧
    ((s.recordBit n b).line n).framer.state = (s.line n).framer.state := by
  unfold State.recordBit
  rw [State.modLine_line_same]
  dsimp only
  split <;> simp [Framer.push]

theorem State.recordOctet_framer (o : Octet) :
    ((s.recordOctet n o).line n).framer.held = (s.line n).framer.held ∧
    ((s.recordOctet n o).line n).framer.state = (s.line n).framer.state := by
  unfold State.recordOctet
  generalize bitsOf o = bits
  induction bits generalizing s with
  | nil => exact ⟨rfl, rfl⟩
  | cons b bits ih =>
    obtain ⟨hheld, hstate⟩ := s.recordBit_framer n b
    rw [List.foldl_cons, (ih _).1, (ih _).2]
    exact ⟨hheld, hstate⟩

theorem State.takeBit_keepsSound (b : Bool) : s.KeepsSound (s.takeBit n b) := by
  unfold State.takeBit
  dsimp only
  split
  · exact s.recordBit_keepsSound n b
  · next h =>
    refine (s.recordBit_keepsSound n b).trans (State.framerStep_keepsSound _ n ?_)
    rw [(s.recordBit_framer n b).1]
    simpa using h

/-! ## The window unit -/

theorem State.endWindow_keepsSound : s.KeepsSound (s.endWindow n) := by
  have hwindow : ∀ (t : State) (f : Line → Window),
      t.KeepsSound (t.modLine n fun l => { l with window := f l }) :=
    fun t f => t.modLine_keepsSound n (.of_kept rfl rfl rfl rfl rfl rfl .rfl)
  have hpost : ∀ (t : State) (c : Bool) (k : Kind) (detail : List Word),
      t.KeepsSound (if c = true then t.postLine k n detail else t) :=
    fun t c k detail => .ite _ (t.post_keepsSound _ _ _) (.refl t)
  unfold State.endWindow
  dsimp only
  refine .trans ?_ (hwindow _ _)
  exact ((hwindow s _).trans (hpost _ _ _ _)).trans (hpost _ _ _ _)

theorem State.closeWindowFrame_keepsSound (busTimed : Bool) :
    s.KeepsSound (s.closeWindowFrame n busTimed) := by
  have hwindow : ∀ f : Line → Window, s.KeepsSound (s.modLine n fun l => { l with window := f l }) :=
    fun f => s.modLine_keepsSound n (.of_kept rfl rfl rfl rfl rfl rfl .rfl)
  unfold State.closeWindowFrame
  dsimp only
  split
  · exact hwindow _
  · split
    · split
      · exact (hwindow _).trans (State.endWindow_keepsSound _ n)
      · exact hwindow _
    · exact .refl s

/-! ## The reader -/

/-- Entry to DEAD of a line in service (R10). -/
theorem State.enterDead_keepsSound (h : (s.line n).state.inService = true) :
    s.KeepsSound (s.enterDead n) := by
  have hput := s.modLine_puts n fun l =>
    { l with deadCount := Config.deadFrames, framer := huntingFramer true,
             ring := { l.ring with held := 0 } }
  have hchange := hput.trans (State.changeLine_puts _ n .dead .dead)
  rw [hput.line] at hchange
  refine State.KeepsSound.trans (hchange.keepsSound (.of_empty rfl rfl rfl rfl (fun _ => ?_) h.symm))
    ((State.coverLine_puts _ n n).keepsSound (.refl _))
  unfold Line.framerAgrees
  simp [Line.changed, huntingFramer]

/-- A DEAD line that received bits passes to HUNTING (R11). -/
theorem State.revive_keepsSound (h : (s.line n).state = .dead) :
    s.KeepsSound ((s.modLine n fun l => { l with deadCount := 0, framer := huntingFramer false }).changeLine
      n .hunting .alive) := by
  have hput := s.modLine_puts n fun l => { l with deadCount := 0, framer := huntingFramer false }
  have hchange := hput.trans (State.changeLine_puts _ n .hunting .alive)
  rw [hput.line] at hchange
  refine hchange.keepsSound (.of_ring rfl rfl rfl (fun hr => ?_) (fun _ => ?_) (by rw [h]; rfl))
  · obtain ⟨_, hheld, hempty, _⟩ := hr
    exact ⟨hheld, fun _ => hempty (.inr (.inr h))⟩
  · unfold Line.framerAgrees
    simp [Line.changed, huntingFramer]

theorem State.deadStage_keepsSound : s.KeepsSound (s.deadStage n) := by
  have hcount : ∀ f : Line → Nat, s.KeepsSound (s.modLine n fun l => { l with deadCount := f l }) :=
    fun f => s.modLine_keepsSound n (.of_kept rfl rfl rfl rfl rfl rfl .rfl)
  have hserved : (s.line n).state.inService = true → s.KeepsSound
      (if (s.line n).bitCount = 0 then
        if Config.deadFrames ≤ (s.line n).deadCount + 1 then s.enterDead n
        else s.modLine n fun l => { l with deadCount := l.deadCount + 1 }
      else s.modLine n fun l => { l with deadCount := 0 }) := fun h =>
    .ite _ (.ite _ (s.enterDead_keepsSound n h) (hcount _)) (hcount _)
  unfold State.deadStage
  dsimp only
  split
  · exact .refl s
  · next h => exact .ite _ (.refl s) (s.revive_keepsSound n h)
  all_goals next h => exact hserved (by rw [h]; rfl)

theorem State.countRead_puts (b : Fin 9) (x : SlotResult) : ∃ c : LineCounters,
    State.Puts n { s.line n with counters := c } s (s.countRead n b x) := by
  unfold State.countRead
  cases x with
  | clean => exact ⟨_, .refl s n⟩
  | corrected =>
    exact ⟨_, (s.setBank_puts n b _).trans (State.modLine_puts (s.setBank b _) n fun l =>
      { l with counters := { l.counters with storeCorrected := l.counters.storeCorrected + 1 } })⟩
  | uncorrectable =>
    exact ⟨_, (s.setBank_puts n b _).trans (State.modLine_puts (s.setBank b _) n fun l =>
      { l with counters := { l.counters with storeUncorrected := l.counters.storeUncorrected + 1 } })⟩

theorem State.advanceRing_keepsSound (k : Nat) : s.KeepsSound (s.advanceRing n k) :=
  s.modLine_keepsSound n <| .of_ring rfl rfl rfl
    (fun ⟨_, hheld, hempty, _⟩ => ⟨(Nat.sub_le _ _).trans hheld, fun h => by
      simp only [Ring.advance]
      rw [hempty h, Nat.zero_sub]⟩) id rfl

theorem State.tagMismatch_keepsSound (h : (s.line n).state = .filling ∨ (s.line n).state = .running) :
    s.KeepsSound (s.tagMismatch n) := by
  have hput := s.modLine_puts n fun l =>
    { l with counters := { l.counters with misalign := l.counters.misalign + 1 } }
  refine (hput.keepsSound (.of_kept rfl rfl rfl rfl rfl rfl .rfl)).trans
    ((State.refill_puts _ n .tagMismatch).keepsSound (Line.refilled_keepsSound ?_ _))
  rw [hput.line]
  exact h

theorem State.startLine_keepsSound {start : Bool} (h : start = true → (s.line n).state = .filling) :
    s.KeepsSound (s.startLine n start) := by
  unfold State.startLine
  split
  · next hstart =>
    have hs := h hstart
    refine (s.changeLine_puts n _ _).keepsSound (.of_ring rfl rfl rfl (fun hr => ?_) (fun hf => ?_)
      (by rw [hs]; rfl))
    · exact ⟨hr.2.1, by simp [Line.changed]⟩
    · unfold Line.framerAgrees at hf ⊢
      simpa [Line.changed, hs] using hf
  · exact .refl s

theorem State.normalRead_keepsSound (g : GroupPos) (d : Decision) (fill : Nat) {start : Bool}
    (h : (s.line n).state = .filling ∨ (s.line n).state = .running)
    (hstart : start = true → (s.line n).state = .filling) :
    s.KeepsSound (s.normalRead n g d fill start).state := by
  unfold State.normalRead
  dsimp only
  generalize s.spare.state.readBank (s.line n).placement.bank = b
  generalize (s.slot b ((s.line n).placement.slotAt (s.line n).ring.readIndex)) = x
  obtain ⟨c, hcount⟩ := s.countRead_puts n b x.result
  have hread : s.KeepsSound (s.countRead n b x.result) :=
    hcount.keepsSound (.of_kept rfl rfl rfl rfl rfl rfl .rfl)
  have hline : ((s.countRead n b x.result).line n).state = (s.line n).state := by rw [hcount.line]
  have hbegun := hread.trans (State.startLine_keepsSound _ n (start := start) (hline ▸ hstart))
  split
  · exact hbegun.trans <| (State.post_keepsSound _ _ _ _).trans <|
      ((State.autoSwap_puts _ b n).keepsSound (.refl _)).trans (State.advanceRing_keepsSound _ n 1)
  · split
    · exact hread.trans (State.tagMismatch_keepsSound _ n (hline ▸ h))
    · exact hbegun.trans (State.advanceRing_keepsSound _ n 1)

theorem State.fillingAct_keepsSound (g : GroupPos) (fill : Nat) (h : (s.line n).state = .filling) :
    s.KeepsSound (s.fillingAct n g fill).state := by
  unfold State.fillingAct
  dsimp only
  split
  · split
    · exact s.normalRead_keepsSound n g _ _ (.inl h) fun _ => h
    · exact .refl s
  · split
    · exact .refl s
    · split
      · exact s.tagMismatch_keepsSound n (.inl h)
      · split
        · have hs : ∀ k, ((s.advanceRing n k).line n).state = .filling := fun k => by
            simp [State.advanceRing, h]
          exact (s.advanceRing_keepsSound n _).trans
            (State.normalRead_keepsSound _ n g _ _ (.inl (hs _)) fun _ => hs _)
        · exact .refl s

theorem Acted.countSlip_keepsSound {s : State} {a : Acted} (h : s.KeepsSound a.state) (n : LineNo)
    (l : Line) (direction fill : Nat) : s.KeepsSound (a.countSlip n l direction fill).state := by
  unfold Acted.countSlip
  exact h.trans <| (State.modLine_keepsSound _ n (.of_kept rfl rfl rfl rfl rfl rfl .rfl)).trans
    (.ite _ (State.post_keepsSound _ _ _ _) (.refl _))

/-- The bounds leave room for a repeat below T_low (R42, R49): H + u is less than C − u. -/
theorem Line.ringLegal.back_le {l : Line} (h : l.ringLegal) (hstaged : l.reader.staged = none)
    (hlow : 320 * l.ring.held < l.reader.tLow) : l.ring.held + l.placement.u ≤ l.placement.heldMax := by
  obtain ⟨_, _, _, hfit⟩ := h
  have hadopt : l.reader.adopt = l.reader := by simp [Reader.adopt, hstaged]
  rw [hadopt] at hfit
  unfold thresholdsFit at hfit
  unfold Placement.heldMax
  omega

theorem State.slipAct_keepsSound (g : GroupPos) {fill : Nat} (h : (s.line n).state = .running)
    (hstaged : (s.line n).reader.staged = none) (hfill : 320 * (s.line n).ring.held ≤ fill) :
    s.KeepsSound (s.slipAct n g fill).state := by
  have hread : ∀ (t : State) (d : Decision), (t.line n).state = .running →
      t.KeepsSound (t.normalRead n g d fill false).state := fun t d ht =>
    t.normalRead_keepsSound n g d fill (.inr ht) (by simp)
  unfold State.slipAct
  dsimp only
  split
  · next hlow =>
    refine Acted.countSlip_keepsSound (.trans (s.modLine_keepsSound n ?_)
      (hread _ _ (by simp [h]))) n _ _ _
    refine .of_ring rfl rfl rfl (fun hr => ⟨hr.back_le hstaged (by omega), by simp [h]⟩) id rfl
  · split
    · exact Acted.countSlip_keepsSound ((s.advanceRing_keepsSound n _).trans
        (hread _ _ (by simp [State.advanceRing, h]))) n _ _ _
    · exact hread s _ h

theorem State.refill_keepsSound (h : (s.line n).state = .filling ∨ (s.line n).state = .running)
    (cause : LineCause) : s.KeepsSound (s.refill n cause) :=
  (s.refill_puts n cause).keepsSound (Line.refilled_keepsSound h cause)

theorem State.underrun_keepsSound (h : (s.line n).state = .running) :
    s.KeepsSound (s.underrun n).state :=
  (s.modLine_keepsSound n (.of_kept rfl rfl rfl rfl rfl rfl .rfl)).trans
    (State.refill_keepsSound _ n (.inr (by simp [h])) .underrun)

theorem State.runningAct_keepsSound (g : GroupPos) {fill : Nat} (h : (s.line n).state = .running)
    (hstaged : (s.line n).reader.staged = none) (hfill : 320 * (s.line n).ring.held ≤ fill) :
    s.KeepsSound (s.runningAct n g fill).state := by
  unfold State.runningAct
  dsimp only
  split
  · exact s.slipAct_keepsSound n g h hstaged hfill
  · split
    · exact s.slipAct_keepsSound n g h hstaged hfill
    · split
      · exact s.underrun_keepsSound n h
      · exact s.normalRead_keepsSound n g _ _ (.inr h) (by simp)

theorem State.readerAct_keepsSound (g : GroupPos) {fill : Nat}
    (hstaged : (s.line n).reader.staged = none) (hfill : 320 * (s.line n).ring.held ≤ fill) :
    s.KeepsSound (s.readerAct n g fill).state := by
  have hdrop : s.KeepsSound (s.modLine n fun l =>
      { l with reader := { l.reader with recentrePending := false } }) :=
    s.modLine_keepsSound n (.of_kept rfl rfl rfl (by simp [Reader.adopt, hstaged])
      (by simp [Reader.adopt, hstaged]) rfl .rfl)
  have hrefill : (s.line n).state = .filling ∨ (s.line n).state = .running → s.KeepsSound
      ((s.modLine n fun l => { l with reader := { l.reader with recentrePending := false } }).refill n
        .recentre) := fun h => hdrop.trans (State.refill_keepsSound _ n (by simpa using h) _)
  unfold State.readerAct
  dsimp only
  split
  · exact hdrop
  · exact hdrop
  · exact hdrop
  · next h =>
    split
    · exact hrefill (.inl h)
    · exact hdrop.trans (State.fillingAct_keepsSound _ n g fill (by simp [h]))
  · next h =>
    split
    · exact hrefill (.inr h)
    · exact hdrop.trans (State.runningAct_keepsSound _ n g (by simp [h]) (by simp [hstaged])
        (by simpa using hfill))

theorem State.handOctets_keepsSound (octets : List Octet) : s.KeepsSound (s.handOctets n octets) := by
  unfold State.handOctets
  split
  · exact .of_eq id rfl rfl rfl
  · exact .refl s

theorem Reader.adopt_adopt (x : Reader) : x.adopt.adopt = x.adopt := by
  unfold Reader.adopt
  cases h : x.staged <;> simp [h]

theorem Reader.adopt_staged (x : Reader) : x.adopt.staged = none := by
  unfold Reader.adopt
  split
  · rfl
  · next h => exact h

theorem Reader.adopt_thresholds {x y : Reader} (hs : y.staged = x.staged) (hl : y.tLow = x.tLow)
    (hh : y.tHigh = x.tHigh) : y.adopt.tLow = x.adopt.tLow ∧ y.adopt.tHigh = x.adopt.tHigh := by
  unfold Reader.adopt
  rw [hs]
  cases x.staged <;> simp [hl, hh]

theorem State.handOver_keepsSound {s : State} {a : Acted} (h : s.KeepsSound a.state) (n : LineNo)
    (fill : Nat) : s.KeepsSound (State.handOver n fill a) := by
  refine h.trans <| State.KeepsSound.trans (State.modLine_keepsSound _ n ?_) <|
    ((State.setGathered_puts _ n _).keepsSound (.refl _)).trans (State.handOctets_keepsSound _ n _)
  obtain ⟨hlow, hhigh⟩ := Reader.adopt_thresholds (x := (a.state.line n).reader)
    (y := { (a.state.line n).reader with
      lastDecision := a.decision, lastFill := fill, lastSubstituted := a.substituted }) rfl rfl rfl
  exact .of_kept rfl rfl rfl hlow hhigh rfl .rfl

theorem State.readerEvent_keepsSound (g : GroupPos) : s.KeepsSound (s.readerEvent n g) := by
  unfold State.readerEvent
  dsimp only
  refine State.handOver_keepsSound (.trans (s.deadStage_keepsSound n) (.trans
    (State.modLine_keepsSound _ n (.of_kept rfl rfl rfl ?_ ?_ rfl .rfl))
    (State.readerAct_keepsSound _ n g ?_ ?_))) n _
  · rw [Reader.adopt_adopt]
  · rw [Reader.adopt_adopt]
  · simp [Reader.adopt_staged]
  · exact Nat.le_add_right _ _

end

end Sys2Proof.Machine
end

section
/-!
SUPPORT. The promises about the memories, the lines and spare control across the tick, the timing unit, the
requests and the actions.
-/
namespace Sys2Proof.Machine

section
variable (s : State)

/-! ## Monitors and highways -/

theorem State.setMonitor_keepsSound (i : MonitorNo) (x : Monitor) : s.KeepsSound (s.setMonitor i x) :=
  .of_eq id rfl rfl rfl

theorem State.modMonitorUnit_keepsSound (f : MonitorUnit → MonitorUnit) :
    s.KeepsSound (s.modMonitorUnit f) := .of_eq id rfl rfl rfl

theorem State.modTiming_keepsSound (f : Timing → Timing) : s.KeepsSound (s.modTiming f) :=
  .of_eq id rfl rfl rfl

theorem State.modHighway_keepsSound (f : Highway → Highway) : s.KeepsSound (s.modHighway f) :=
  .of_eq id rfl rfl rfl

theorem State.overflowMonitor_keepsSound (i : MonitorNo) : s.KeepsSound (s.overflowMonitor i) := by
  unfold State.overflowMonitor
  dsimp only
  have hset := s.setMonitor_keepsSound i { s.monitor i with overflow := true }
  have hfreeze := hset.trans (.ite ((s.monitor i).settings.overflowAction.freezes = true)
    (State.modMonitorUnit_keepsSound _ fun u => { u with freeze := true }) (.refl _))
  exact .ite _ (hfreeze.trans (State.post_keepsSound _ _ _ _)) hfreeze

theorem State.countMonitor_keepsSound (i : MonitorNo) : s.KeepsSound (s.countMonitor i) :=
  .ite _ ((s.setMonitor_keepsSound i _).trans (State.overflowMonitor_keepsSound _ i))
    (s.setMonitor_keepsSound i _)

theorem State.closeMonitor_keepsSound (frozen : Bool) (i : MonitorNo) :
    s.KeepsSound (s.closeMonitor frozen i) :=
  .ite _ (.trans (.ite _ (s.countMonitor_keepsSound i) (.refl s))
    (State.setMonitor_keepsSound _ i _)) (.refl s)

theorem State.closeMonitors_keepsSound : s.KeepsSound s.closeMonitors :=
  .foldl _ (fun t i => t.closeMonitor_keepsSound _ i) _ s

theorem State.unfreeze_keepsSound : s.KeepsSound s.unfreeze :=
  (s.modMonitorUnit_keepsSound _).trans
    (.foldl _ (fun t i => t.setMonitor_keepsSound i _) _ _)

theorem State.sendOctets_keepsSound : s.KeepsSound s.sendOctets := by
  unfold State.sendOctets
  split
  · exact .refl s
  · exact s.modHighway_keepsSound _

theorem State.tickLine_keepsSound (busTimed : Bool) (g : GroupPos) (n : LineNo) :
    s.KeepsSound (s.tickLine busTimed g n) :=
  (s.closeWindowFrame_keepsSound n busTimed).trans (State.readerEvent_keepsSound _ n g)

theorem State.openFrame_keepsSound : s.KeepsSound s.openFrame := by
  unfold State.openFrame
  exact s.modHighway_keepsSound _

theorem State.tick_keepsSound : s.KeepsSound s.tick := by
  have hopened : s.KeepsSound s.opened := by
    unfold State.opened
    exact ((s.modTiming_keepsSound _).trans (State.closeMonitors_keepsSound _)).trans
      (State.openFrame_keepsSound _)
  have hserved : s.opened.KeepsSound s.served :=
    State.KeepsSound.foldl (fun t n => t.tickLine s.timing.busTimed s.timing.tick.position n)
      (fun t n => t.tickLine_keepsSound _ _ n) _ _
  rw [State.tick_eq]
  exact (hopened.trans hserved).trans (State.sendOctets_keepsSound _)

/-! ## Office bits -/

theorem State.nextPhase_keepsSound (f : Timing → Timing) :
    s.KeepsSound (s.modTiming f).sendOctets :=
  (s.modTiming_keepsSound f).trans (State.sendOctets_keepsSound _)

theorem State.wrapPhase_keepsSound : s.KeepsSound s.wrapPhase :=
  .ite _ (s.nextPhase_keepsSound _) ((s.modTiming_keepsSound _).trans (State.tick_keepsSound _))

theorem State.closeRealign_keepsSound : s.KeepsSound s.closeRealign :=
  (s.modTiming_keepsSound _).trans (State.tick_keepsSound _)

theorem State.busBit_keepsSound (fly : Nat) : s.KeepsSound (s.busBit fly) :=
  .ite _ (.ite _ s.closeRealign_keepsSound (s.nextPhase_keepsSound _))
    (.ite _ s.wrapPhase_keepsSound (s.nextPhase_keepsSound _))

theorem State.ncoBit_keepsSound : s.KeepsSound s.ncoBit :=
  .ite _ s.wrapPhase_keepsSound (s.nextPhase_keepsSound _)

/-! ## The timing unit -/

theorem State.changeSelector_keepsSound (new : SelectorState) (cause : SelectorCause) :
    s.KeepsSound (s.changeSelector new cause) := by
  have hpost := (s.modTiming_keepsSound fun t => t.switch new).trans (State.post_keepsSound _ .selector 1
    [word s.timing.selector.code, word new.code, word cause.code, word (s.timing.switch new).buildOut,
      signedWord (s.timing.switch new).hv, word (s.timing.switch new).history.length])
  exact .ite _ (hpost.trans (State.tick_keepsSound _)) hpost

theorem State.takeSelector_keepsSound (cause : SelectorCause) : s.KeepsSound (s.takeSelector cause) :=
  .ite _ (.refl s) (s.changeSelector_keepsSound _ _)

theorem State.changeBus_keepsSound (x : Bus) (new : MonitorState) (cause : BusCause) :
    s.KeepsSound (s.changeBus x new cause) := by
  unfold State.changeBus
  dsimp only
  refine .trans ?_ (State.takeSelector_keepsSound _ _)
  have hpost := (s.modTiming_keepsSound _).trans (State.post_keepsSound
    (s.modBus x fun m => { m with state := new, goodCount := 0, badCount := 0, windowPassed := false })
    .busState 1 [word (busCode x), word (s.timing.bus x).state.code, word new.code, word cause.code,
      signedWord (s.timing.bus x).lastX])
  exact .ite _ (hpost.trans (State.modTiming_keepsSound _ _)) hpost

theorem State.judgeFrame_keepsSound (x : Bus) (good : Bool) : s.KeepsSound (s.judgeFrame x good) := by
  have hbus : ∀ f, s.KeepsSound (s.modBus x f) := fun f => s.modTiming_keepsSound _
  unfold State.judgeFrame
  dsimp only
  split
  · exact .ite _ (hbus _) (.ite _ (s.changeBus_keepsSound x _ _) (hbus _))
  all_goals exact .ite _ (.ite _ (s.changeBus_keepsSound x _ _) (hbus _)) (hbus _)

theorem State.loseClock_keepsSound (x : Bus) : s.KeepsSound (s.loseClock x) := by
  unfold State.loseClock
  dsimp only
  split
  · exact s.modTiming_keepsSound _
  all_goals exact (s.modTiming_keepsSound _).trans (State.changeBus_keepsSound _ x _ _)

theorem State.beginTimingWindow_keepsSound (x : Bus) : s.KeepsSound (s.beginTimingWindow x) := by
  unfold State.beginTimingWindow
  exact s.modTiming_keepsSound _

theorem State.endTimingWindow_keepsSound (x : Bus) (cycles : Nat) :
    s.KeepsSound (s.endTimingWindow x cycles) := by
  have hbus : ∀ f, s.KeepsSound (s.modBus x f) := fun f => s.modTiming_keepsSound _
  have hchange : ∀ f new cause, s.KeepsSound ((s.modBus x f).changeBus x new cause) :=
    fun f new cause => (hbus f).trans (State.changeBus_keepsSound _ x _ _)
  have hcredit : ∀ f g, s.KeepsSound ((s.modBus x f).modTiming g) :=
    fun f g => (hbus f).trans (State.modTiming_keepsSound _ g)
  rw [State.endTimingWindow_eq]
  refine .trans (.ite _ (.ite _ (.ite _ ?_ (hcredit _ _)) (hchange _ _ _)) (.ite _ (.ite _
    (hchange _ _ _) (hbus _)) (hbus _))) (State.beginTimingWindow_keepsSound _ x)
  exact (hcredit _ _).trans (State.takeSelector_keepsSound _ _)

theorem State.countEdge_keepsSound (x : Bus) : s.KeepsSound (s.countEdge x) := by
  unfold State.countEdge
  split
  · exact s.beginTimingWindow_keepsSound x
  · exact .ite _ (s.endTimingWindow_keepsSound x _) (s.modTiming_keepsSound _)

theorem State.busEdge_keepsSound (x : Bus) (pulse : Bool) : s.KeepsSound (s.busEdge x pulse) := by
  unfold State.busEdge
  dsimp only
  refine .trans ?_ (State.countEdge_keepsSound _ x)
  have hbit := (s.modTiming_keepsSound fun t => t.setBus x ((s.timing.bus x).edge pulse).1).trans
    (.ite (s.timing.selector = .on x) (State.busBit_keepsSound _
      (((s.timing.bus x).edge pulse).1.flywheel.getD 0)) (.refl _))
  split
  · exact hbit.trans (State.judgeFrame_keepsSound _ x _)
  · exact hbit

theorem State.latchHold_keepsSound : s.KeepsSound s.latchHold :=
  .ite _ (.refl s) (((s.modTiming_keepsSound _).trans (State.post_keepsSound _ _ _ _)).trans
    (State.takeSelector_keepsSound _ _))

theorem State.cycleBus_keepsSound (x : Bus) : s.KeepsSound (s.cycleBus x) :=
  .ite _ ((s.modTiming_keepsSound _).trans (State.loseClock_keepsSound _ x)) (s.modTiming_keepsSound _)

theorem State.cycleNco_keepsSound : s.KeepsSound s.cycleNco := by
  unfold State.cycleNco
  split
  · exact .refl s
  all_goals
    exact .ite _ ((s.modTiming_keepsSound _).trans (State.ncoBit_keepsSound _)) (s.modTiming_keepsSound _)

theorem State.applyTiming_keepsSound (q : TimingRequest) : s.KeepsSound (s.applyTiming q) :=
  .trans ((s.modTiming_keepsSound _).trans (State.takeSelector_keepsSound _ _))
    (.ite _ (State.modTiming_keepsSound _ _) (.refl _))

theorem State.clearLatch_keepsSound : s.KeepsSound s.clearLatch :=
  (s.modTiming_keepsSound _).trans (State.takeSelector_keepsSound _ _)

/-! ## Service -/

theorem Placement.shares_comm (p q : Placement) : p.shares q = q.shares p := by
  unfold Placement.shares
  rw [Bool.eq_iff_iff]
  simp only [Bool.and_eq_true, beq_iff_eq, decide_eq_true_eq]
  constructor <;> rintro ⟨⟨h, h1⟩, h2⟩ <;> exact ⟨⟨h.symm, h2⟩, h1⟩

theorem State.overlapping_eq_none {n : LineNo} {p : Placement} (h : s.overlapping n p = none)
    {m : LineNo} (hm : m ≠ n) (hin : (s.line m).state.inService = true) :
    p.shares (s.line m).placement = false := by
  have := List.find?_eq_none.mp h m (List.mem_finRange m)
  simpa [hm, hin] using this

/-- The rings stay disjoint where the one line that changes is out of service or shares no slot with
another (R27). -/
theorem State.ringsDisjoint_of_line {s t : State} {n : LineNo} (hd : s.ringsDisjoint)
    (hother : ∀ m, m ≠ n → t.line m = s.line m)
    (hn : (t.line n).state.inService = true → ∀ m, m ≠ n → (s.line m).state.inService = true →
      (t.line n).placement.shares (s.line m).placement = false) : t.ringsDisjoint := by
  intro i j hij hi hj
  by_cases hin : i = n
  · subst hin
    have hji : j ≠ i := fun h => hij h.symm
    rw [hother j hji] at hj ⊢
    exact hn hi j hji hj
  · rw [hother i hin] at hi ⊢
    by_cases hjn : j = n
    · subst hjn
      rw [Placement.shares_comm]
      exact hn hj i hin hi
    · rw [hother j hjn] at hj ⊢
      exact hd i j hij hi hj

/-- The items of a line that leaves service (R12, R35, R71). -/
def Line.left (l : Line) : Line :=
  { l with
    deadCount := 0
    framer := huntingFramer true
    ring := { l.ring with held := 0 }
    window := l.window.stop }

theorem Line.left_keepsItems (l : Line) (cause : LineCause) :
    l.KeepsItems (l.left.changed .out cause) where
  ring h := by
    obtain ⟨hlegal, _, _, hfit⟩ := h
    exact ⟨hlegal, Nat.zero_le _, fun _ => rfl, hfit⟩
  framer _ := by
    unfold Line.framerAgrees
    simp [Line.left, Line.changed, huntingFramer]

theorem State.leaveService_puts (n : LineNo) :
    State.Puts n (if (s.line n).state.inService then (s.line n).left.changed .out .serviceOut
      else s.line n) s (s.leaveService n) := by
  refine .ite _ ?_ (.refl s n)
  have hput := s.modLine_puts n Line.left
  have hchange := hput.trans (State.changeLine_puts _ n .out .serviceOut)
  rw [hput.line] at hchange
  exact hchange.line ▸ hchange.trans (State.coverLine_puts _ n n)

/-- A line that is told to leave service is OUT. -/
theorem State.leaveService_out (n : LineNo) : ((s.leaveService n).line n).state = .out := by
  rw [(s.leaveService_puts n).line]
  split
  · rfl
  · next h => simpa [LineState.inService] using h

theorem State.leaveService_keepsSound (n : LineNo) : s.KeepsSound (s.leaveService n) where
  toKeepsItems := (s.leaveService_puts n).keepsItems <| by
    split
    · exact Line.left_keepsItems _ _
    · exact ⟨id, id⟩
  disjoint hd := State.ringsDisjoint_of_line hd (s.leaveService_puts n).other fun h => by
    rw [s.leaveService_out n] at h
    simp [LineState.inService] at h

/-- The items of a line that enters service (R12, R69). -/
def Line.entered (l : Line) : Line :=
  { l with deadCount := 0, framer := huntingFramer false, window := l.window.causeStart }

theorem State.enterService_puts (n : LineNo) :
    State.Puts n (if (s.line n).state.inService then s.line n
      else (s.line n).entered.changed .hunting .serviceIn) s (s.enterService n) := by
  refine .ite _ (.refl s n) ?_
  have hput := s.modLine_puts n Line.entered
  have hchange := hput.trans (State.changeLine_puts _ n .hunting .serviceIn)
  rw [hput.line] at hchange
  exact hchange

theorem State.enterService_keepsItems (n : LineNo) : s.KeepsItems (s.enterService n) := by
  refine (s.enterService_puts n).keepsItems ?_
  split
  · exact ⟨id, id⟩
  · next h =>
    have hout : (s.line n).state = .out := by simpa [LineState.inService] using h
    refine ⟨fun hr => ?_, fun _ => ?_⟩
    · obtain ⟨hlegal, hheld, hempty, hfit⟩ := hr
      exact ⟨hlegal, hheld, fun _ => hempty (.inl hout), hfit⟩
    · unfold Line.framerAgrees
      simp [Line.entered, Line.changed, huntingFramer]

theorem State.enterService_placement (n : LineNo) :
    ((s.enterService n).line n).placement = (s.line n).placement := by
  rw [(s.enterService_puts n).line]
  split <;> rfl

theorem State.enterService_keepsSound {n : LineNo}
    (h : s.overlapping n (s.line n).placement = none) : s.KeepsSound (s.enterService n) where
  toKeepsItems := s.enterService_keepsItems n
  disjoint hd := State.ringsDisjoint_of_line hd (s.enterService_puts n).other fun _ m hm hin => by
    rw [s.enterService_placement n]
    exact s.overlapping_eq_none h hm hin

/-- The items of a line that RESTART_LINE sends to HUNTING (R15). -/
def Line.reset (l : Line) : Line :=
  { l with deadCount := 0, framer := huntingFramer false, ring := { l.ring with held := 0 } }

theorem State.restartLine_keepsSound (n : LineNo) : s.KeepsSound (s.restartLine n) := by
  have hmove : (s.line n).state.inService = true →
      s.KeepsSound ((s.modLine n Line.reset).changeLine n .hunting .restartLine) := fun hin => by
    have hput := s.modLine_puts n Line.reset
    have hchange := hput.trans (State.changeLine_puts _ n .hunting .restartLine)
    rw [hput.line] at hchange
    refine hchange.keepsSound (.of_empty rfl rfl rfl rfl (fun _ => ?_) hin.symm)
    unfold Line.framerAgrees
    simp [Line.reset, Line.changed, huntingFramer]
  unfold State.restartLine
  split
  · exact .refl s
  · next h =>
    refine s.modLine_keepsSound n (.of_ring rfl rfl rfl (fun hr => ⟨hr.2.1, hr.2.2.1⟩) (fun _ => ?_) rfl)
    unfold Line.framerAgrees
    simp [h, huntingFramer]
  all_goals next h => exact hmove (by rw [h]; rfl)

/-! ## Line settings -/

/-- The items of a line under a new placement, before any store reset (R14, R28, R69). -/
def Line.moved (l : Line) (p : Placement) : Line :=
  { l with
    placement := p
    window := if l.state.inService then l.window.causeStart else l.window }

/-- The items of a line after a structural change (R14, R28). -/
def Line.placed (l : Line) (p : Placement) : Line :=
  match l.state with
  | .filling | .running => (l.moved p).refilled .structural
  | .out | .hunting | .dead => l.moved p

/-- A structural change keeps the service of the line and has the placement in force (R28). -/
theorem Line.placed_eq (l : Line) (p : Placement) :
    (l.placed p).placement = p ∧ (l.placed p).state.inService = l.state.inService ∧
    (l.placed p).reader = l.reader := by
  unfold Line.placed
  split
  · next h => exact ⟨rfl, by rw [h]; rfl, rfl⟩
  · next h => exact ⟨rfl, by rw [h]; rfl, rfl⟩
  all_goals exact ⟨rfl, rfl, rfl⟩

theorem State.moveCoverage_stores (n : LineNo) : s.KeepsStores (s.moveCoverage n) := by
  unfold State.moveCoverage
  split
  · exact .refl s
  · next k hk => exact s.setCover_stores _ fun _ => by simp [hk]

theorem State.moveCoverage_line (n m : LineNo) : (s.moveCoverage n).line m = s.line m := by
  unfold State.moveCoverage
  split <;> rfl

/-- A structural change before the operation is settled (R121). -/
def State.placeLine (s : State) (n : LineNo) (p : Placement) : State :=
  let moved := (s.modLine n fun l => l.moved p).moveCoverage n
  match (s.line n).state with
  | .filling | .running => moved.refill n .structural
  | .out | .hunting | .dead => moved

theorem State.changePlacement_eq (n : LineNo) (p : Placement) :
    s.changePlacement n p = (s.placeLine n p).settleSpare := rfl

/-- The coverage mark may leave no line PENDING until the operation is settled (R121, R122). -/
theorem State.placeLine_stores (n : LineNo) (p : Placement) : s.KeepsStores (s.placeLine n p) ∧
    (s.placeLine n p).line n = (s.line n).placed p ∧
    ∀ m, m ≠ n → (s.placeLine n p).line m = s.line m := by
  have hput := s.modLine_puts n fun l => l.moved p
  have hstores := hput.toKeepsStores.trans (State.moveCoverage_stores _ n)
  have hline := (State.moveCoverage_line _ n n).trans hput.line
  have hother := fun m (hm : m ≠ n) => (State.moveCoverage_line _ n m).trans (hput.other m hm)
  have hrefill := State.refill_puts ((s.modLine n fun l => l.moved p).moveCoverage n) n .structural
  rw [hline] at hrefill
  unfold State.placeLine Line.placed
  dsimp only
  cases (s.line n).state with
  | filling | running =>
    exact ⟨hstores.trans hrefill.toKeepsStores, hrefill.line,
      fun m hm => (hrefill.other m hm).trans (hother m hm)⟩
  | out | hunting | dead => exact ⟨hstores, hline, hother⟩

theorem State.changePlacement_puts (n : LineNo) (p : Placement) :
    State.Puts n ((s.line n).placed p) s (s.changePlacement n p) := by
  obtain ⟨hstores, hline, hother⟩ := s.placeLine_stores n p
  rw [State.changePlacement_eq]
  exact ⟨hstores.trans (State.settleSpare_stores _), by rw [State.settleSpare_line, hline],
    fun m hm => by rw [State.settleSpare_line, hother m hm],
    fun h => State.settleSpare_settled _ (hstores.marked h.marked)⟩

/-- The items of a line whose new counts, idle code and staged thresholds are in force (R14, R43). -/
def Line.tuned (l : Line) (v : LineSettings) : Line :=
  { l with
    confirmCount := v.confirmCount
    lossCount := v.lossCount
    idleCode := v.idleCode
    reader := { l.reader with staged := some v.thresholds } }

/-- The items of a line with the settings of a request in force (R14, R67). -/
def Line.configured (l : Line) (v : LineSettings) : Line :=
  let placed := if v.placement = l.placement then l.tuned v else (l.tuned v).placed v.placement
  { placed with window :=
    placed.window.settings v.windowLength v.windowMode v.reportWindows v.horizonLimit }

theorem State.applyLineSettings_puts (n : LineNo) (v : LineSettings) :
    State.Puts n ((s.line n).configured v) s (s.applyLineSettings n v) := by
  have htuned := s.modLine_puts n fun l => l.tuned v
  have hplaced := State.changePlacement_puts (s.modLine n fun l => l.tuned v) n v.placement
  rw [htuned.line] at hplaced
  have hboth := State.Puts.ite (v.placement = (s.line n).placement) htuned (htuned.trans hplaced)
  have hwindow := State.modLine_puts (if v.placement = (s.line n).placement then
      s.modLine n fun l => l.tuned v
    else (s.modLine n fun l => l.tuned v).changePlacement n v.placement) n fun l =>
      { l with
        window := l.window.settings v.windowLength v.windowMode v.reportWindows v.horizonLimit }
  rw [hboth.line] at hwindow
  exact hboth.trans hwindow

/-- The settings of a request, whose placement is in force and whose thresholds are those of the next
reader event, keep the line in its service (R28, R43). -/
theorem Line.configured_eq (l : Line) (v : LineSettings) :
    (l.configured v).placement = v.placement ∧
    (l.configured v).state.inService = l.state.inService ∧
    (l.configured v).reader.adopt.tLow = v.thresholds.tLow ∧
    (l.configured v).reader.adopt.tHigh = v.thresholds.tHigh := by
  unfold Line.configured
  dsimp only
  split
  · next h => exact ⟨h.symm, rfl, rfl, rfl⟩
  · obtain ⟨hp, hs, hr⟩ := (l.tuned v).placed_eq v.placement
    rw [hp, hs, hr]
    exact ⟨rfl, rfl, rfl, rfl⟩

theorem Line.configured_ring {l : Line} {v : LineSettings} (hr : l.ringLegal)
    (hlegal : v.placement.legal) (hfit : thresholdsFit v.placement v.thresholds.tLow v.thresholds.tHigh) :
    (l.configured v).ringLegal := by
  obtain ⟨hp, _, hlow, hhigh⟩ := l.configured_eq v
  obtain ⟨_, hheld, hempty, _⟩ := hr
  unfold Line.ringLegal
  rw [hlow, hhigh, hp]
  refine ⟨hlegal, ?_, ?_, hfit⟩
  · unfold Line.configured Line.placed
    dsimp only
    split
    · next h => exact h ▸ hheld
    · cases hs : l.state <;> simp [Line.tuned, Line.moved, Line.refilled, hs, hs ▸ hempty]
  · unfold Line.configured Line.placed
    dsimp only
    split
    · exact hempty
    · cases hs : l.state <;> simp [Line.tuned, Line.moved, Line.refilled, Line.changed, hs, hs ▸ hempty]

theorem Line.configured_framer {l : Line} (v : LineSettings) (hf : l.framerAgrees) :
    (l.configured v).framerAgrees := by
  unfold Line.framerAgrees at hf ⊢
  unfold Line.configured Line.placed
  dsimp only
  split
  · exact hf
  · cases hs : l.state <;> rw [hs] at hf <;>
      simpa [Line.tuned, Line.moved, Line.refilled, Line.changed, hs] using hf

/-! ## Line requests -/

/-- The checks of a line request that a new placement rests on (R26). -/
theorem State.checkLine_accepted {n : LineNo} {q : LineRequest} {mask : Word}
    (h : s.checkLine n q = .accepted mask) : q.badField = none ∧ q.capacityLegal = true ∧
    q.base.toNat + q.capacity.toNat ≤ 256 ∧ (q.isIn = true → s.overlapping n q.placement = none) := by
  unfold State.checkLine at h
  split at h
  · simp at h
  · next hbad =>
    split_ifs at h with hbank hcap hbase hconf hin
    · refine ⟨hbad, by simpa using hcap, by omega, fun _ => ?_⟩
      split at h
      · simp at h
      · assumption
    · exact ⟨hbad, by simpa using hcap, by omega, fun hi => absurd hi hin⟩

/-- The placement of a request that passes the checks is legal (R24, R26). -/
theorem LineRequest.settings_legal {q : LineRequest} (hcap : q.capacityLegal = true)
    (hbase : q.base.toNat + q.capacity.toNat ≤ 256) : q.settings.placement.legal := by
  unfold LineRequest.capacityLegal at hcap
  refine ⟨hbase, ?_⟩
  show q.capacity.toNat ≤ 32 ∧ (if (if q.slipUnit = 1 then SlipUnit.group else .frame) = .group
    then 12 else 4) ≤ q.capacity.toNat
  split at hcap <;> simp_all

/-- The clamped thresholds of a request fit its placement (R42). -/
theorem LineRequest.settings_fit {q : LineRequest} (hcap : q.capacityLegal = true) :
    thresholdsFit q.settings.placement q.settings.thresholds.tLow q.settings.thresholds.tHigh := by
  have hroom : 320 * q.placement.u + 480 ≤ q.placement.usable := by
    unfold LineRequest.capacityLegal at hcap
    unfold Placement.usable Placement.heldMax
    show 320 * (if q.slipUnit = 1 then SlipUnit.group else .frame).slots + 480 ≤
      320 * (q.capacity.toNat - (if q.slipUnit = 1 then SlipUnit.group else .frame).slots)
    by_cases hunit : q.slipUnit = 1 <;>
      simp only [hunit, if_true, if_false, Bool.and_eq_true, decide_eq_true_eq, SlipUnit.slots] at hcap ⊢
    all_goals omega
  have husable : q.placement.usable = 320 * (q.placement.capacity - q.placement.u) := rfl
  show 320 ≤ lowThreshold q.placement q.tLow.toNat ∧
    lowThreshold q.placement q.tLow.toNat + 320 * q.placement.u ≤
      highThreshold q.placement (lowThreshold q.placement q.tLow.toNat) q.tHigh.toNat ∧
    highThreshold q.placement (lowThreshold q.placement q.tLow.toNat) q.tHigh.toNat + 160 ≤
      320 * (q.placement.capacity - q.placement.u)
  rw [← husable]
  unfold lowThreshold highThreshold clamp
  split_ifs <;> omega

theorem LineRequest.service_of_good {q : LineRequest} (h : q.badField = none) :
    q.isOut = !q.isIn := by
  have hle : q.service.toNat ≤ 1 := by
    unfold LineRequest.badField at h
    rw [firstBadField_cons] at h
    by_contra hn
    simp [hn] at h
  unfold LineRequest.isOut LineRequest.isIn
  rcases (by omega : q.service.toNat = 0 ∨ q.service.toNat = 1) with h0 | h1
  · have : q.service = 0 := BitVec.eq_of_toNat_eq h0
    simp [this]
  · have : q.service = 1 := BitVec.eq_of_toNat_eq h1
    simp [this]

/-- The part of a line request before its settings (R12). -/
def State.applyService (s : State) (n : LineNo) (q : LineRequest) : State :=
  if q.isOut then s.leaveService n else if q.hasRestart then s.restartLine n else s

/-- The part of a line request that its items of service and placement come from (R12). -/
def State.applyEntry (s : State) (n : LineNo) (q : LineRequest) : State :=
  let placed := (s.applyService n q).applyLineSettings n q.settings
  if q.isIn then placed.enterService n else placed

theorem State.applyLine_eq (n : LineNo) (q : LineRequest) : s.applyLine n q =
    let recentred := if q.hasRecentre then (s.applyEntry n q).pendRecentre n else s.applyEntry n q
    let armed := if q.hasArm then recentred.armWindow n else recentred
    if q.hasClear then armed.clearCounts n else armed := rfl

theorem State.applyService_keepsSound (n : LineNo) (q : LineRequest) :
    s.KeepsSound (s.applyService n q) :=
  .ite _ (s.leaveService_keepsSound n) (.ite _ (s.restartLine_keepsSound n) (.refl s))

theorem State.applyEntry_keepsSound {n : LineNo} {q : LineRequest} {mask : Word}
    (h : s.checkLine n q = .accepted mask) : s.KeepsSound (s.applyEntry n q) := by
  obtain ⟨hbad, hcap, hbase, hover⟩ := s.checkLine_accepted h
  have hserved := s.applyService_keepsSound n q
  have hput := State.applyLineSettings_puts (s.applyService n q) n q.settings
  obtain ⟨hp, hservice, _, _⟩ := ((s.applyService n q).line n).configured_eq q.settings
  have hplaced : (s.applyService n q).KeepsItems ((s.applyService n q).applyLineSettings n q.settings) :=
    hput.keepsItems ⟨fun hr => Line.configured_ring hr (q.settings_legal hcap hbase) (q.settings_fit hcap),
      fun hf => Line.configured_framer _ hf⟩
  have hentered := State.enterService_puts ((s.applyService n q).applyLineSettings n q.settings) n
  have hsrv : ∀ m, m ≠ n → (s.applyService n q).line m = s.line m := fun m hm => by
    unfold State.applyService
    split
    · exact (s.leaveService_puts n).other m hm
    · split
      · unfold State.restartLine
        split
        · rfl
        · exact s.setLine_line_ne hm _
        all_goals
          rw [(State.changeLine_puts _ n _ _).other m hm]
          exact s.setLine_line_ne hm _
      · rfl
  unfold State.applyEntry
  dsimp only
  split
  · next hin =>
    refine ⟨(hserved.toKeepsItems.trans hplaced).trans (State.enterService_keepsItems _ n), fun hd => ?_⟩
    refine State.ringsDisjoint_of_line (n := n) hd (fun m hm => ?_) fun _ m hm hm' => ?_
    · rw [hentered.other m hm, hput.other m hm, hsrv m hm]
    · rw [State.enterService_placement, hput.line, hp]
      exact s.overlapping_eq_none (hover hin) hm hm'
  · next hin =>
    refine ⟨hserved.toKeepsItems.trans hplaced, fun hd => ?_⟩
    refine State.ringsDisjoint_of_line (n := n) hd (fun m hm => ?_) fun hn => ?_
    · rw [hput.other m hm, hsrv m hm]
    · have hout : q.isOut = true := by simp [LineRequest.service_of_good hbad, hin]
      rw [hput.line, hservice] at hn
      simp [State.applyService, hout, State.leaveService_out, LineState.inService] at hn

theorem State.pendRecentre_keepsSound (n : LineNo) : s.KeepsSound (s.pendRecentre n) := by
  obtain ⟨hlow, hhigh⟩ := Reader.adopt_thresholds (x := (s.line n).reader)
    (y := { (s.line n).reader with recentrePending := true }) rfl rfl rfl
  exact s.modLine_keepsSound n (.of_kept rfl rfl rfl hlow hhigh rfl .rfl)

theorem State.armWindow_keepsSound (n : LineNo) : s.KeepsSound (s.armWindow n) :=
  s.modLine_keepsSound n (.of_kept rfl rfl rfl rfl rfl rfl .rfl)

theorem State.clearCounts_keepsSound (n : LineNo) : s.KeepsSound (s.clearCounts n) :=
  s.modLine_keepsSound n (.of_kept rfl rfl rfl rfl rfl rfl .rfl)

theorem State.applyLine_keepsSound {n : LineNo} {q : LineRequest} {mask : Word}
    (h : s.checkLine n q = .accepted mask) : s.KeepsSound (s.applyLine n q) := by
  rw [State.applyLine_eq]
  exact ((s.applyEntry_keepsSound h).trans <| .trans
    (.ite _ (State.pendRecentre_keepsSound _ n) (.refl _))
    (.ite _ (State.armWindow_keepsSound _ n) (.refl _))).trans
    (.ite _ (State.clearCounts_keepsSound _ n) (.refl _))

/-! ## The other requests -/

theorem State.clearBankCounts_keepsSound : s.KeepsSound s.clearBankCounts := .of_eq id rfl rfl rfl

/-- AUTO_LIMIT is no part of what spare control keeps. -/
theorem State.setLimit_keepsSound (limit : Nat) :
    s.KeepsSound (s.modSpare fun x => { x with autoLimit := limit }) :=
  .of_lines ⟨id, id, id⟩ id fun _ => .refl _

theorem State.takeSwap_keepsSound (k : Fin 8) : s.KeepsSound (s.takeSwap k) :=
  (s.takeSwap_puts k 0).keepsSound (.refl _)

theorem State.takeReturn_keepsSound : s.KeepsSound s.takeReturn :=
  (s.takeReturn_puts 0).keepsSound (.refl _)

theorem State.takeCancel_keepsSound : s.KeepsSound s.takeCancel :=
  (s.takeCancel_puts 0).keepsSound (.refl _)

theorem State.applyStore_keepsSound (q : StoreRequest) : s.KeepsSound (s.applyStore q) := by
  unfold State.applyStore
  dsimp only
  refine (s.setLimit_keepsSound q.limit).trans (.trans (.ite (q.clearBankCounts = 1)
    (State.clearBankCounts_keepsSound _) (.refl _)) ?_)
  exact .ite _ (State.takeSwap_keepsSound _ _) (.ite _ (State.takeReturn_keepsSound _)
    (.ite _ (State.takeCancel_keepsSound _) (.refl _)))

theorem State.applyMonitor_keepsSound (m : MonitorNo) (q : MonitorRequest) :
    s.KeepsSound (s.applyMonitor m q) :=
  (s.setMonitor_keepsSound m _).trans <|
    (.trans (.ite _ (State.setMonitor_keepsSound _ m _) (.refl _))
      (.ite _ (State.setMonitor_keepsSound _ m _) (.refl _)))

theorem State.applyDirectory_keepsSound (q : DirectoryRequest) : s.KeepsSound (s.applyDirectory q) := by
  rw [State.applyDirectory_eq]
  have hcleared : s.KeepsSound (s.cleared q) := by
    unfold State.cleared
    split_ifs <;> exact .of_eq id rfl rfl rfl
  exact .ite _ (hcleared.trans (State.unfreeze_keepsSound _)) hcleared

theorem State.answerRequest_keepsSound (r : Record) (serial : Word) {v : Verdict} {accepted : State}
    (h : ∀ mask, v = .accepted mask → s.KeepsSound accepted) :
    s.KeepsSound (s.answerRequest r serial v accepted) := by
  have hhead : ∀ (t : State) x, t.KeepsSound (t.setHead r x) := fun t x => .of_eq id rfl rfl rfl
  cases v with
  | refused reason detail => exact (s.post_keepsSound _ _ _).trans (hhead _ _)
  | accepted mask => exact (h mask rfl).trans (hhead _ _)

theorem State.takeLineRequest_keepsSound (n : LineNo) (q : LineRequest) :
    s.KeepsSound (s.takeLineRequest n q) :=
  s.answerRequest_keepsSound _ _ fun _ h => s.applyLine_keepsSound h

theorem State.takeRequest_keepsSound (r : Record) (l : List Word) : s.KeepsSound (s.takeRequest r l) := by
  cases r with
  | directory => exact s.answerRequest_keepsSound _ _ fun _ _ => s.applyDirectory_keepsSound _
  | timing => exact s.answerRequest_keepsSound _ _ fun _ _ => s.applyTiming_keepsSound _
  | store => exact s.answerRequest_keepsSound _ _ fun _ _ => s.applyStore_keepsSound _
  | monitor m => exact s.answerRequest_keepsSound _ _ fun _ _ => s.applyMonitor_keepsSound m _
  | line n => exact s.takeLineRequest_keepsSound n _

end

end Sys2Proof.Machine
end

section
/-!
SUPPORT. What every step of the model keeps: a relation that the grants of the patrol's work keep is kept by
the whole of it, and the two relations it is used for, the one of lines, spare control and memories and the one
of the prompt queue, the bad-word list and the patrol's steps.
-/
namespace Sys2Proof.Machine

/-! ## The patrol's work, grant by grant -/

/-- A relation from state to state that every part of the patrol's work between two waits keeps. -/
structure PatrolClosed (R : State → State → Prop) : Prop where
  refl : ∀ s, R s s
  trans : ∀ {s t u}, R s t → R t u → R s u
  hostCycle : ∀ s c, R s (s.hostCycle c)
  goOn : ∀ s, R s s.goOn
  drainPosts : ∀ s, R s s.drainPosts
  memWrite : ∀ s a x, R s (s.memWrite a x)
  modScrub : ∀ s f, R s (s.modScrub f)
  setHead : ∀ s r x, R s (s.setHead r x)
  offerBadWord : ∀ s offset, R s (s.offerBadWord offset)
  takeRequest : ∀ s r l, R s (s.takeRequest r l)

/-- What the patrol's work comes to: its parts done, and then, while READY is 1, a wait of the step. -/
def State.WorksTo (R : State → State → Prop) (s t : State) : Prop :=
  ∃ u, R s u ∧ (t = u ∨ u.ready = true ∧ ∃ r w, t = u.suspend r w)

namespace PatrolClosed

variable {R : State → State → Prop} (hR : PatrolClosed R)
include hR

omit hR in
theorem ite {s t u : State} (c : Prop) [Decidable c] (ht : R s t) (hu : R s u) :
    R s (if c then t else u) := by
  split
  · exact ht
  · exact hu

theorem foldl {β : Type} (f : State → β → State) (h : ∀ s b, R s (f s b)) (l : List β) (s : State) :
    R s (l.foldl f s) := by
  induction l generalizing s with
  | nil => exact hR.refl s
  | cons b l ih => exact hR.trans (h s b) (ih _)

theorem hostBefore (s : State) (c : HostCycle) : R s (s.hostBefore c) :=
  ite _ (hR.trans (hR.hostCycle s c) (hR.goOn _)) (hR.hostCycle s c)

theorem serveBefore (s : State) (between : List (Nat × HostCycle)) (k : Nat) :
    R s (s.serveBefore between k) :=
  hR.foldl (fun (t : State) (c : Nat × HostCycle) => t.hostBefore c.2) (fun t c => hR.hostBefore t c.2) _ s

theorem readRequest (s : State) (r : Record) (i : Nat) : R s (s.readRequest r i).1 := by
  unfold State.readRequest
  split
  · exact hR.offerBadWord s _
  · exact hR.refl s
  · exact hR.refl s

theorem scrubWord (s : State) (a : Nat) : R s (s.scrubWord a) := by
  unfold State.scrubWord
  split
  · exact hR.refl s
  · exact hR.trans (hR.memWrite s a _) (hR.modScrub _ _)
  · split
    · exact hR.offerBadWord s _
    · exact hR.refl s
    · exact hR.memWrite s a _

theorem actOn (s : State) (r : Record) (j : Judgement) : R s (s.actOn r j) := by
  cases j with
  | torn | old => exact hR.refl s
  | poisonedSerial | poisonedField a i => exact hR.setHead s r _
  | new l => exact hR.takeRequest s r l

omit hR in
theorem worksTo {s t : State} (h : R s t) : s.WorksTo R t := ⟨t, h, .inl rfl⟩

theorem worksTo_trans {s t u : State} (h : R s t) (k : t.WorksTo R u) : s.WorksTo R u := by
  obtain ⟨v, hv, hu⟩ := k
  exact ⟨v, hR.trans h hv, hu⟩

omit hR in
/-- A step that waits has READY at 1 (R155). -/
theorem worksTo_suspend {s t : State} (h : R s t) {between : List (Nat × HostCycle)} {k : Nat}
    (hw : t.waitsAt between k = true) (r : Record) (w : StepWork) : s.WorksTo R (t.suspend r w) :=
  ⟨t, h, .inr ⟨(Bool.and_eq_true_iff.mp hw).1, r, w, rfl⟩⟩

theorem scrubStage (s : State) (between : List (Nat × HostCycle)) (r : Record) (left k : Nat) :
    s.WorksTo R (s.scrubStage between r left k).1 := by
  induction left generalizing s k with
  | zero =>
    show s.WorksTo R s.advanceScrub
    unfold State.advanceScrub
    exact worksTo (hR.modScrub s _)
  | succ left ih =>
    have hserved := hR.serveBefore s between k
    unfold State.scrubStage
    dsimp only
    split
    · next hw => exact worksTo_suspend hserved hw r _
    · exact hR.worksTo_trans (hR.trans hserved (hR.trans (hR.drainPosts _) (hR.scrubWord _ _))) (ih _ _)

theorem writeStage (s : State) (between : List (Nat × HostCycle)) (r : Record) (l : List (Nat × Word))
    (k : Nat) : s.WorksTo R (s.writeStage between r l k).1 := by
  induction l generalizing s k with
  | nil => exact hR.worksTo_trans (hR.setHead s r _) (hR.scrubStage _ between r _ k)
  | cons p rest ih =>
    have hserved := hR.serveBefore s between k
    unfold State.writeStage
    dsimp only
    split
    · next hw => exact worksTo_suspend hserved hw r _
    · exact hR.worksTo_trans (hR.trans hserved (hR.trans (hR.drainPosts _) (hR.memWrite _ _ _))) (ih _ _)

theorem judgeStage (s : State) (between : List (Nat × HostCycle)) (r : Record)
    (read : List (Option Word)) (k : Nat) : s.WorksTo R (s.judgeStage between r read k).1 := by
  unfold State.judgeStage
  dsimp only
  split
  · exact hR.scrubStage s between r _ k
  · exact hR.worksTo_trans (hR.actOn s r _) (hR.writeStage _ between r _ k)

theorem readStage (s : State) (between : List (Nat × HostCycle)) (r : Record)
    (read : List (Option Word)) (todo : List Nat) (k : Nat) :
    s.WorksTo R (s.readStage between r read todo k).1 := by
  induction todo generalizing s read k with
  | nil => exact hR.judgeStage s between r read k
  | cons i rest ih =>
    have hserved := hR.serveBefore s between k
    unfold State.readStage
    dsimp only
    split
    · next hw => exact worksTo_suspend hserved hw r _
    · exact hR.worksTo_trans (hR.trans hserved (hR.trans (hR.drainPosts _) (hR.readRequest _ _ _)))
        (ih _ _ _)

/-- The step in progress is taken off, and its work done. -/
theorem resumeStep (s : State) (between : List (Nat × HostCycle)) (k : Nat) :
    (s.modPatrol fun p => { p with step := none }).WorksTo R (s.resumeStep between k).1 := by
  cases hs : s.patrol.step with
  | none =>
    rw [State.resumeStep_of_none hs]
    have : (s.modPatrol fun p => { p with step := none }) = s := by
      unfold State.modPatrol
      rw [← hs]
    rw [this]
    exact worksTo (hR.refl s)
  | some x =>
    unfold State.resumeStep
    rw [hs]
    dsimp only
    split
    · exact hR.readStage _ between _ _ _ k
    · exact hR.writeStage _ between _ _ k
    · exact hR.scrubStage _ between _ _ k

theorem beginStep (s : State) (between : List (Nat × HostCycle)) (k : Nat) :
    (s.modPatrol fun _ => { s.patrol.choose.2 with due := false, timer := 0 }).WorksTo R
      (s.beginStep between k).1 :=
  hR.readStage _ between _ _ _ k

end PatrolClosed

end Sys2Proof.Machine
end

section
/-!
SUPPORT. The host port, the patrol, the restarts and every command keep the memories canonical and the lines
and spare control sound.
-/
namespace Sys2Proof.Machine

variable (s : State)

/-! ## The host port -/

theorem State.setHead_keepsSound (r : Record) (x : ReportHead) : s.KeepsSound (s.setHead r x) :=
  .of_eq id rfl rfl rfl

theorem State.memWrite_keepsSound (a : Nat) (x : Word) : s.KeepsSound (s.memWrite a x) :=
  .of_eq (fun h => s.memWrite_wf h a x) rfl rfl rfl

theorem State.offerBadWord_keepsSound (offset : Nat) : s.KeepsSound (s.offerBadWord offset) := by
  unfold State.offerBadWord
  dsimp only
  have hmod : ∀ f, s.KeepsSound (s.modBadWords f) := fun _ => .of_eq id rfl rfl rfl
  exact .ite _ (.refl s) (.ite _ ((hmod _).trans (State.post_keepsSound _ _ _ _)) (hmod _))

theorem State.hostRead_keepsSound (a : Nat) : s.KeepsSound (s.hostRead a) := by
  have hanswer : ∀ x, s.KeepsSound (s.answerPort x) := fun _ => .of_eq id rfl rfl rfl
  unfold State.hostRead
  split
  · exact hanswer _
  · split
    · exact hanswer _
    all_goals split <;> exact hanswer _

theorem State.compareTakeser_keepsSound (i : Fin 128) : s.KeepsSound (s.compareTakeser i) :=
  .ite _ (.of_eq id rfl rfl rfl) (.refl s)

theorem State.storeHostWord_keepsSound (a : Nat) (x : Word) : s.KeepsSound (s.storeHostWord a x) :=
  .of_eq (fun h => s.memWrite_wf h a x) rfl rfl rfl

theorem State.refuseWrite_keepsSound (a : Nat) : s.KeepsSound (s.refuseWrite a) :=
  .trans (t := (s.recordViolation a).answerPort (.writeDone true)) (.of_eq id rfl rfl rfl)
    (State.post_keepsSound _ _ _ _)

theorem State.hostWrite_keepsSound (a : Nat) (x : Word) : s.KeepsSound (s.hostWrite a x) := by
  unfold State.hostWrite
  split
  · exact .of_eq id rfl rfl rfl
  · split
    · split
      · exact (s.storeHostWord_keepsSound a x).trans (State.compareTakeser_keepsSound _ _)
      · exact s.storeHostWord_keepsSound a x
    · exact s.refuseWrite_keepsSound a
    · exact s.refuseWrite_keepsSound a

variable {s} in
theorem State.registerWrite_keepsSound {t : State} (h : s.KeepsSound t) :
    s.KeepsSound (s.registerWrite t) :=
  .ite _ (.of_eq id rfl rfl rfl) (h.trans (.of_eq id rfl rfl rfl))

theorem State.takePrompt_keepsSound (x : Word) : s.KeepsSound (s.takePrompt x) := by
  unfold State.takePrompt
  split
  · exact .of_eq id rfl rfl rfl
  · exact .ite _ (.refl s) (.ite _ (.of_eq id rfl rfl rfl) (.of_eq id rfl rfl rfl))

theorem State.goOn_keepsSound : s.KeepsSound s.goOn := by
  have hframe := s.goOn_frame
  refine .of_eq (s.goOn_wf ·) ?_ ?_ ?_ <;> rw [hframe] <;> rfl

theorem State.drainPosts_keepsSound : s.KeepsSound s.drainPosts := by
  have hframe := s.drainPosts_frame
  refine .of_eq (s.drainPosts_wf ·) ?_ ?_ ?_ <;> rw [hframe] <;> rfl

theorem State.askRestart_keepsSound : s.KeepsSound s.askRestart := by
  have hframe := s.askRestart_frame
  refine .of_eq (fun h => ?_) ?_ ?_ ?_ <;> rw [hframe]
  exact s.finishPost_wf h

theorem State.writeRegister_keepsSound (reg : Fin 8) (data : Word) :
    s.KeepsSound (s.writeRegister reg data) := by
  unfold State.writeRegister
  split
  · exact State.registerWrite_keepsSound (.ite _ s.askRestart_keepsSound (.refl s))
  · exact State.registerWrite_keepsSound (.of_eq id rfl rfl rfl)
  · exact State.registerWrite_keepsSound (.of_eq id rfl rfl rfl)
  · exact State.registerWrite_keepsSound (s.takePrompt_keepsSound data)
  · exact .of_eq id rfl rfl rfl

theorem State.hostCycle_keepsSound (c : HostCycle) : s.KeepsSound (s.hostCycle c) := by
  cases c with
  | read a => exact s.hostRead_keepsSound _
  | write a x => exact s.hostWrite_keepsSound _ x
  | registerRead reg => exact .of_eq id rfl rfl rfl
  | registerWrite reg x => exact s.writeRegister_keepsSound reg x
  | wait => exact .refl s

/-! ## The patrol and the restarts -/

theorem State.KeepsSound.patrolClosed : PatrolClosed State.KeepsSound where
  refl := .refl
  trans h k := h.trans k
  hostCycle := State.hostCycle_keepsSound
  goOn := State.goOn_keepsSound
  drainPosts := State.drainPosts_keepsSound
  memWrite := State.memWrite_keepsSound
  modScrub _ _ := .of_eq id rfl rfl rfl
  setHead := State.setHead_keepsSound
  offerBadWord := State.offerBadWord_keepsSound
  takeRequest := State.takeRequest_keepsSound

variable {s} in
/-- A wait changes the patrol alone. -/
theorem State.WorksTo.keepsSound {t : State} (h : s.WorksTo State.KeepsSound t) : s.KeepsSound t := by
  obtain ⟨u, hu, rfl | ⟨_, r, w, rfl⟩⟩ := h
  · exact hu
  · exact hu.trans (.of_eq id rfl rfl rfl)

theorem State.modPatrol_keepsSound (f : Patrol → Patrol) : s.KeepsSound (s.modPatrol f) :=
  .of_eq id rfl rfl rfl

theorem State.resumeStep_keepsSound (between : List (Nat × HostCycle)) (k : Nat) :
    s.KeepsSound (s.resumeStep between k).1 :=
  (s.modPatrol_keepsSound _).trans (KeepsSound.patrolClosed.resumeStep s between k).keepsSound

theorem State.patrolWork_keepsSound (between : List (Nat × HostCycle)) :
    s.KeepsSound (s.patrolWork between).1 := by
  unfold State.patrolWork
  dsimp only
  split
  · exact (s.resumeStep_keepsSound between 0).trans <| (State.modPatrol_keepsSound _ _).trans
      (KeepsSound.patrolClosed.beginStep _ between _).keepsSound
  · exact s.resumeStep_keepsSound between 0

/-- Every line at full reset is OUT and sound (R19). -/
theorem Line.reset_sound : ({} : Line).ringLegal ∧ ({} : Line).framerAgrees := by decide

/-- A line of a part that has been restarted (R19). -/
theorem Line.restarted_keepsItems (l : Line) : l.KeepsItems l.restarted :=
  ⟨fun _ => Line.reset_sound.1, fun _ => Line.reset_sound.2⟩

theorem State.memWriteAll_keepsSound (l : List (Nat × Word)) : s.KeepsSound (s.memWriteAll l) := by
  refine .of_eq (s.memWriteAll_wf · l) ?_ ?_ ?_ <;> rw [State.memWriteAll_frame]

theorem State.clearSerials_keepsSound (r : Record) : s.KeepsSound (s.clearSerials r) :=
  .trans (.trans (s.setHead_keepsSound r _) (State.memWriteAll_keepsSound _ _))
    (State.setHead_keepsSound _ r _)

theorem State.takeRestart_keepsSound : s.KeepsSound s.takeRestart := by
  obtain ⟨hframe, hlines⟩ := State.forLines_modLine Line.restarted
    (s.modJournal fun j => { j with kindMask := 0x7FFF })
  have hrestarted : s.KeepsSound ((s.modJournal fun j => { j with kindMask := 0x7FFF }).forLines
      fun n t => t.modLine n Line.restarted) := by
    refine ⟨.of_lines ?_ ?_ fun n => ?_, fun _ n m _ hn => ?_⟩
    · rw [hframe]
      exact ⟨id, id, id⟩
    · rw [hframe]
      exact id
    · rw [hlines]
      exact Line.restarted_keepsItems _
    · rw [hlines] at hn
      cases hn
  have hmonitors : ∀ t : State, t.KeepsSound t.restartMonitors := fun t => by
    rw [State.restartMonitors_frame]
    exact .of_eq id rfl rfl rfl
  have hjournal : ∀ t : State, t.KeepsSound t.clearJournalArea := fun t =>
    .of_eq (fun h => cellsWf_filter h _) rfl rfl rfl
  exact hrestarted.trans <| (hmonitors _).trans <| (hjournal _).trans <|
    (State.modTiming_keepsSound _ _).trans <| .foldl _ State.clearSerials_keepsSound _ _

theorem State.finishStep_keepsSound : s.KeepsSound s.finishStep := s.resumeStep_keepsSound [] 0

theorem State.beginRestart_keepsSound : s.KeepsSound s.beginRestart :=
  s.askRestart_keepsSound.trans <| (State.finishStep_keepsSound _).trans (State.takeRestart_keepsSound _)

theorem State.settleRestart_keepsSound (t : State) : t.KeepsSound (s.settleRestart t) :=
  .ite _ (t.finishStep_keepsSound.trans (State.takeRestart_keepsSound _)) (.refl _)

theorem State.serveAlone_keepsSound (between : List (Nat × HostCycle)) (k : Nat) :
    s.KeepsSound (s.serveAlone between k) :=
  .foldl (fun (t : State) (c : Nat × HostCycle) => t.settleRestart (t.hostCycle c.2))
    (fun t c => (t.hostCycle_keepsSound c.2).trans (t.settleRestart_keepsSound _)) _ s

theorem State.patrolTurn_keepsSound (between : List (Nat × HostCycle)) :
    s.KeepsSound (s.patrolTurn between) := by
  unfold State.patrolTurn
  split
  · exact (s.patrolWork_keepsSound between).trans <|
      (State.settleRestart_keepsSound _ _).trans (State.serveAlone_keepsSound _ _ _)
  · exact s.serveAlone_keepsSound between 0

theorem State.dueStep_keepsSound : s.KeepsSound s.dueStep :=
  .ite _ (s.modPatrol_keepsSound _) (.refl s)

theorem State.patrolStep_keepsSound (between : List (Nat × HostCycle)) :
    s.KeepsSound (s.patrolStep between) :=
  s.dueStep_keepsSound.trans (State.patrolTurn_keepsSound _ between)

theorem State.cyclePatrol_keepsSound (between : List (Nat × HostCycle)) :
    s.KeepsSound (s.cyclePatrol between) :=
  (State.KeepsSound.ite _ ((s.modPatrol_keepsSound _).trans (State.dueStep_keepsSound _))
    (s.modPatrol_keepsSound _)).trans (State.patrolTurn_keepsSound _ between)

theorem State.writeRestart_keepsSound : s.KeepsSound s.writeRestart :=
  State.registerWrite_keepsSound (.ite _ s.beginRestart_keepsSound (.refl s))

/-- Every operation of spare control ends with the restart (R131). -/
theorem Spare.restarted_settled (x : Spare) : x.restarted.settled := by
  unfold Spare.restarted Spare.settled
  cases x.state <;> simp [SpareState.operating]

theorem State.clearTakesers_keepsSound : s.KeepsSound s.clearTakesers :=
  .foldl _ (fun t _ => (t.memWrite_keepsSound _ _).trans (State.memWrite_keepsSound _ _ _)) _ s

theorem State.endRestart_keepsSound : s.KeepsSound s.endRestart := by
  have hspare : s.KeepsSound (s.modSpare Spare.restarted) :=
    .of_lines ⟨id, id, fun _ => (Spare.restarted_settled _).1⟩ (fun _ => Spare.restarted_settled _)
      fun _ => .refl _
  have hcontrol : ∀ (t : State) f g h, t.KeepsSound ((((t.setPhase .ready).modPatrol f).modAttention
      g).modJournal h) := fun _ _ _ _ => .of_eq id rfl rfl rfl
  exact hspare.trans <| (State.modTiming_keepsSound _ _).trans <|
    (State.takeSelector_keepsSound _ _).trans <| (State.clearTakesers_keepsSound _).trans <|
    (hcontrol _ _ _ _).trans <| (State.post_keepsSound _ _ _ _).trans (.of_eq id rfl rfl rfl)

/-! ## Local cycles -/

theorem State.struck_keepsSound (x : Strike) : s.KeepsSound (s.struck x) := by
  cases x with
  | control a b => exact .of_eq (fun h => s.setMemWord_wf h _ _) rfl rfl rfl
  | slot k i w b => exact .of_lines ⟨id, fun h => s.setSlot_wf h _ _ _, id⟩ id fun _ => .refl _
  | nextPost plan => exact .of_eq id rfl rfl rfl
  | host k c => exact .refl s

theorem State.strikes_keepsSound (l : List Strike) : s.KeepsSound (l.foldl State.struck s) :=
  .foldl _ State.struck_keepsSound l s

theorem State.setHoldreq_keepsSound (x : Bool) : s.KeepsSound (s.setHoldreq x) := .of_eq id rfl rfl rfl

theorem State.cycleClocks_keepsSound (holdreq : Bool) (between : List (Nat × HostCycle)) :
    s.KeepsSound (s.cycleClocks holdreq between) := by
  have hlatch := (s.setHoldreq_keepsSound holdreq).trans <|
    .ite holdreq (State.latchHold_keepsSound _) (.refl (s.setHoldreq holdreq))
  exact hlatch.trans <| (State.cycleBus_keepsSound _ .a).trans <|
    (State.cycleBus_keepsSound _ .b).trans <| (State.cycleNco_keepsSound _).trans
      (State.cyclePatrol_keepsSound _ between)

theorem State.localCycle_keepsSound (holdreq : Bool) (strikes : List Strike) :
    s.KeepsSound (s.localCycle holdreq strikes) :=
  (s.strikes_keepsSound strikes).trans <| (State.goOn_keepsSound _).trans
    (State.cycleClocks_keepsSound _ holdreq _)

theorem State.release_keepsSound (holdreq : Bool) : s.KeepsSound (s.release holdreq) := by
  have hempty : s.KeepsSound { s with
      phase := .initialising, holdreq := holdreq, memory := [], slots := [] } :=
    .of_lines ⟨fun _ => State.reset_memory_wf, fun _ => State.reset_slots_wf, id⟩ id fun _ => .refl _
  have hwritten := hempty.trans (State.memWriteAll_keepsSound _ identityWords)
  exact .ite _ (hwritten.trans (State.latchHold_keepsSound _)) hwritten

theorem State.reset_line (n : LineNo) : State.reset.line n = {} := by
  simp [State.line, State.reset]

theorem State.fullReset_keepsSound : s.KeepsSound s.fullReset := by
  have hline : ∀ n, s.fullReset.line n = {} := State.reset_line
  refine ⟨⟨⟨fun _ => State.reset_memory_wf, fun _ => State.reset_slots_wf, fun _ _ => rfl⟩,
    fun _ n => ?_, fun _ n => ?_, fun _ => ⟨fun _ => rfl, fun h => (h rfl).elim⟩⟩, fun _ n m _ hn => ?_⟩
  · rw [hline]
    exact Line.reset_sound.1
  · rw [hline]
    exact Line.reset_sound.2
  · rw [hline] at hn
    cases hn

end Sys2Proof.Machine
end

section
/-!
SUPPORT. The prompt queue, the bad-word list and the patrol's steps: what the parts of the patrol's work keep
of them, and what every command does.
-/
namespace Sys2Proof.Machine

/-! ## Between two waits -/

/-- The prompt queue and the bad-word list within their bounds, none held twice (R153, R157). -/
abbrev State.queuesBounded (s : State) : Prop :=
  s.patrol.prompts.length ≤ 8 ∧ s.patrol.prompts.Nodup ∧
    s.badWords.offsets.length ≤ 16 ∧ s.badWords.offsets.Nodup

/-- From s to t the queues stay bounded, the step in progress is the same one, and none falls due; READY
can only be lost, to a restart, which drops the step that is due. -/
structure State.KeepsQueues (s t : State) : Prop where
  bounded : s.queuesBounded → t.queuesBounded
  step : t.patrol.step = s.patrol.step
  due : t.patrol.due = true → s.patrol.due = true
  dueReady : (s.patrol.due = true → s.phase = .ready) → t.patrol.due = true → t.phase = .ready
  phase : t.phase = s.phase ∨ s.phase = .ready ∧ t.phase = .restarting

section
variable {s t u : State}

theorem State.KeepsQueues.of_eq (hphase : t.phase = s.phase) (hpatrol : t.patrol = s.patrol)
    (hbad : t.badWords = s.badWords) : s.KeepsQueues t := by
  refine ⟨?_, by rw [hpatrol], by rw [hpatrol]; exact id, by rw [hpatrol, hphase]; exact id, .inl hphase⟩
  unfold State.queuesBounded
  rw [hpatrol, hbad]
  exact id

theorem State.KeepsQueues.refl (s : State) : s.KeepsQueues s := .of_eq rfl rfl rfl

theorem State.ControlKept.keepsQueues (h : s.ControlKept t) : s.KeepsQueues t :=
  .of_eq h.phase h.patrol h.badWords

theorem State.KeepsQueues.trans (h : s.KeepsQueues t) (k : t.KeepsQueues u) : s.KeepsQueues u := by
  refine ⟨k.bounded ∘ h.bounded, k.step.trans h.step, h.due ∘ k.due, k.dueReady ∘ h.dueReady, ?_⟩
  rcases h.phase with hp | ⟨hs, ht⟩
  · rw [← hp]
    exact k.phase
  · rcases k.phase with hu | ⟨hr, _⟩
    · exact .inr ⟨hs, hu.trans ht⟩
    · rw [ht] at hr
      cases hr

theorem State.KeepsQueues.ite (c : Prop) [Decidable c] (ht : s.KeepsQueues t) (hu : s.KeepsQueues u) :
    s.KeepsQueues (if c then t else u) := by
  split
  · exact ht
  · exact hu

/-- A change of the bad-word list alone, within its bounds. -/
theorem State.modBadWords_keepsQueues (s : State) {f : BadWords → BadWords}
    (h : s.badWords.offsets.length ≤ 16 ∧ s.badWords.offsets.Nodup →
      (f s.badWords).offsets.length ≤ 16 ∧ (f s.badWords).offsets.Nodup) :
    s.KeepsQueues (s.modBadWords f) :=
  ⟨fun ⟨hp, hn, hb⟩ => ⟨hp, hn, h hb⟩, rfl, id, id, .inl rfl⟩

/-- One more at the tail of a list that does not hold it (R153, R157). -/
theorem nodup_append_one {α : Type} {l : List α} {a : α} (h : l.Nodup) (ha : a ∉ l) :
    (l ++ [a]).Nodup := by
  rw [List.nodup_append]
  exact ⟨h, List.nodup_singleton a, fun b hb c hc e => ha (by
    rw [List.mem_singleton] at hc
    exact hc ▸ e ▸ hb)⟩

end

section
variable (s : State)

theorem State.offerBadWord_keepsQueues (offset : Nat) : s.KeepsQueues (s.offerBadWord offset) := by
  unfold State.offerBadWord
  dsimp only
  split
  · exact .refl s
  · next hnew =>
    split
    · next hroom =>
      refine .trans (s.modBadWords_keepsQueues fun ⟨_, hn⟩ => ⟨?_, nodup_append_one hn hnew⟩)
        (State.post_kept _ _ _ _).keepsQueues
      rw [List.length_append]
      exact hroom
    · exact s.modBadWords_keepsQueues id

theorem State.hostRead_keepsQueues (a : Nat) : s.KeepsQueues (s.hostRead a) := by
  have hanswer : ∀ x, s.KeepsQueues (s.answerPort x) := fun _ => .of_eq rfl rfl rfl
  unfold State.hostRead
  split
  · exact hanswer _
  · split
    · exact hanswer _
    all_goals split <;> exact hanswer _

theorem State.storeHostWord_keepsQueues (a : Nat) (x : Word) : s.KeepsQueues (s.storeHostWord a x) := by
  have hwrite : s.KeepsQueues (s.memWrite a x) := .of_eq rfl rfl rfl
  have hdrop : (s.memWrite a x).KeepsQueues ((s.memWrite a x).dropBadWord (2 * a)) :=
    State.modBadWords_keepsQueues _ fun ⟨hl, hn⟩ => ⟨(List.length_filter_le _ _).trans hl, hn.filter _⟩
  have hanswer : ((s.memWrite a x).dropBadWord (2 * a)).KeepsQueues (s.storeHostWord a x) :=
    .of_eq rfl rfl rfl
  exact (hwrite.trans hdrop).trans hanswer

theorem State.refuseWrite_keepsQueues (a : Nat) : s.KeepsQueues (s.refuseWrite a) :=
  .trans (t := (s.recordViolation a).answerPort (.writeDone true)) (.of_eq rfl rfl rfl)
    (State.post_kept _ _ _ _).keepsQueues

theorem State.hostWrite_keepsQueues (a : Nat) (x : Word) : s.KeepsQueues (s.hostWrite a x) := by
  unfold State.hostWrite
  split
  · exact .of_eq rfl rfl rfl
  · split
    · split
      · exact (s.storeHostWord_keepsQueues a x).trans (.ite _ (.of_eq rfl rfl rfl) (.refl _))
      · exact s.storeHostWord_keepsQueues a x
    · exact s.refuseWrite_keepsQueues a
    · exact s.refuseWrite_keepsQueues a

variable {s} in
theorem State.registerWrite_keepsQueues {t : State} (h : s.KeepsQueues t) :
    s.KeepsQueues (s.registerWrite t) :=
  .ite _ (.of_eq rfl rfl rfl) (h.trans (.of_eq rfl rfl rfl))

theorem State.takePrompt_keepsQueues (x : Word) : s.KeepsQueues (s.takePrompt x) := by
  unfold State.takePrompt
  split
  · exact .of_eq rfl rfl rfl
  · split
    · exact .refl s
    · next hnew =>
      split
      · next hroom =>
        refine ⟨fun ⟨_, hn, hb⟩ => ⟨?_, nodup_append_one hn hnew, hb⟩, rfl, id, id, .inl rfl⟩
        show (s.patrol.prompts ++ [_]).length ≤ 8
        rw [List.length_append]
        exact hroom
      · exact .of_eq rfl rfl rfl

/-- A restart asked for with READY at 1 drops the prompts and the step that is due (R155). -/
theorem State.askRestart_keepsQueues (h : s.ready = true) : s.KeepsQueues s.askRestart := by
  rw [State.askRestart_frame]
  exact ⟨fun ⟨_, _, hb⟩ => ⟨by simp, by simp, hb⟩, rfl, nofun, nofun, .inr ⟨of_decide_eq_true h, rfl⟩⟩

theorem State.writeRegister_keepsQueues (reg : Fin 8) (data : Word) :
    s.KeepsQueues (s.writeRegister reg data) := by
  unfold State.writeRegister
  split
  · refine State.registerWrite_keepsQueues ?_
    split
    · next h => exact s.askRestart_keepsQueues (Bool.and_eq_true_iff.mp h).2
    · exact .refl s
  · exact State.registerWrite_keepsQueues (.of_eq rfl rfl rfl)
  · exact State.registerWrite_keepsQueues (.of_eq rfl rfl rfl)
  · exact State.registerWrite_keepsQueues (s.takePrompt_keepsQueues data)
  · exact .of_eq rfl rfl rfl

theorem State.hostCycle_keepsQueues (c : HostCycle) : s.KeepsQueues (s.hostCycle c) := by
  cases c with
  | read a => exact s.hostRead_keepsQueues _
  | write a x => exact s.hostWrite_keepsQueues _ x
  | registerRead reg => exact .of_eq rfl rfl rfl
  | registerWrite reg x => exact s.writeRegister_keepsQueues reg x
  | wait => exact .refl s

theorem State.goOn_keepsQueues : s.KeepsQueues s.goOn := by
  rw [State.goOn_frame]
  exact .of_eq rfl rfl rfl

theorem State.drainPosts_keepsQueues : s.KeepsQueues s.drainPosts := by
  rw [State.drainPosts_frame]
  exact .of_eq rfl rfl rfl

/-! ## Requests -/

theorem State.applyTiming_kept (q : TimingRequest) : s.ControlKept (s.applyTiming q) :=
  .trans ((s.modTiming_kept _).trans (State.takeSelector_kept _ _))
    (.ite _ (State.modTiming_kept _ _) (.refl _))

theorem State.applyDirectory_keepsQueues (q : DirectoryRequest) : s.KeepsQueues (s.applyDirectory q) := by
  rw [State.applyDirectory_eq]
  have hcleared : s.KeepsQueues (s.cleared q) := by
    unfold State.cleared
    split_ifs <;> exact .of_eq rfl rfl rfl
  exact .ite _ (hcleared.trans (State.unfreeze_quiet _).keepsQueues) hcleared

theorem State.answerRequest_keepsQueues (r : Record) (serial : Word) (v : Verdict) {accepted : State}
    (h : s.KeepsQueues accepted) : s.KeepsQueues (s.answerRequest r serial v accepted) := by
  cases v with
  | refused reason detail => exact (s.post_kept _ _ _).keepsQueues.trans (.of_eq rfl rfl rfl)
  | accepted mask => exact h.trans (.of_eq rfl rfl rfl)

theorem State.takeRequest_keepsQueues (r : Record) (l : List Word) :
    s.KeepsQueues (s.takeRequest r l) := by
  cases r with
  | directory => exact s.answerRequest_keepsQueues _ _ _ (s.applyDirectory_keepsQueues _)
  | timing => exact s.answerRequest_keepsQueues _ _ _ (s.applyTiming_kept _).keepsQueues
  | store => exact s.answerRequest_keepsQueues _ _ _ (s.applyStore_quiet _).keepsQueues
  | monitor m => exact s.answerRequest_keepsQueues _ _ _ (s.applyMonitor_quiet m _).keepsQueues
  | line n => exact s.answerRequest_keepsQueues _ _ _ (s.applyLine_quiet n _).keepsQueues

theorem State.KeepsQueues.patrolClosed : PatrolClosed State.KeepsQueues where
  refl := .refl
  trans h k := h.trans k
  hostCycle := State.hostCycle_keepsQueues
  goOn := State.goOn_keepsQueues
  drainPosts := State.drainPosts_keepsQueues
  memWrite _ _ _ := .of_eq rfl rfl rfl
  modScrub _ _ := .of_eq rfl rfl rfl
  setHead _ _ _ := .of_eq rfl rfl rfl
  offerBadWord := State.offerBadWord_keepsQueues
  takeRequest := State.takeRequest_keepsQueues

/-! ## The patrol's work -/

/-- The queues are legal but for a step that is due with none in progress, which begins at once: what holds
in the midst of the patrol's work. -/
structure State.QueuesWorking (s : State) : Prop where
  bounded : s.queuesBounded
  step : s.patrol.step ≠ none → s.phase = .ready
  due : s.patrol.due = true → s.phase = .ready

variable {s}

theorem State.queuesLegal.working (h : s.queuesLegal) : s.QueuesWorking := by
  obtain ⟨hp, hn, hb, hd, hstep, hdue⟩ := h
  exact ⟨⟨hp, hn, hb, hd⟩, hstep, fun h => hstep (hdue h)⟩

theorem State.QueuesWorking.legal (h : s.QueuesWorking) (hd : s.patrol.due = true → s.patrol.step ≠ none) :
    s.queuesLegal := by
  obtain ⟨hp, hn, hb, hw⟩ := h.bounded
  exact ⟨hp, hn, hb, hw, h.step, hd⟩

/-- The queues after work from a state with no step in progress. -/
theorem State.WorksTo.working {t : State} (h : s.WorksTo State.KeepsQueues t) (hb : s.queuesBounded)
    (hd : s.patrol.due = true → s.phase = .ready) (hnone : s.patrol.step = none) :
    t.QueuesWorking ∧ (t.patrol.due = true → s.patrol.due = true) ∧
      (s.phase ≠ .ready → t.phase = s.phase ∧ t.patrol.step = none) := by
  obtain ⟨u, hu, rfl | ⟨hr, r, w, rfl⟩⟩ := h
  · have hstep := hu.step.trans hnone
    refine ⟨⟨hu.bounded hb, fun h => (h hstep).elim, hu.dueReady hd⟩, hu.due, fun hp => ⟨?_, hstep⟩⟩
    exact hu.phase.resolve_right fun h => hp h.1
  · have hready : u.phase = .ready := of_decide_eq_true hr
    refine ⟨⟨hu.bounded hb, fun _ => hready, fun _ => hready⟩, hu.due, fun hp => ?_⟩
    rcases hu.phase with he | ⟨he, _⟩
    · exact absurd (he ▸ hready) hp
    · exact absurd he hp

theorem State.resumeStep_working (hb : s.queuesBounded)
    (hd : s.patrol.due = true → s.phase = .ready) (between : List (Nat × HostCycle)) (k : Nat) :
    (s.resumeStep between k).1.QueuesWorking ∧
      (s.phase ≠ .ready → (s.resumeStep between k).1.phase = s.phase ∧
        (s.resumeStep between k).1.patrol.step = none) := by
  obtain ⟨hw, _, hp⟩ := (KeepsQueues.patrolClosed.resumeStep s between k).working hb hd rfl
  exact ⟨hw, hp⟩

/-- The choice of a record takes the head of the prompts at most (R156). -/
theorem Patrol.choose_bounded (p : Patrol) (hl : p.prompts.length ≤ 8) (hn : p.prompts.Nodup) :
    p.choose.2.prompts.length ≤ 8 ∧ p.choose.2.prompts.Nodup ∧ p.choose.2.step = p.step := by
  unfold Patrol.choose
  cases hq : p.prompts with
  | nil => simp
  | cons r rest =>
    rw [hq] at hl hn
    exact ⟨Nat.le_of_succ_le hl, hn.of_cons, rfl⟩

theorem State.patrolWork_legal (h : s.QueuesWorking) (between : List (Nat × HostCycle)) :
    (s.patrolWork between).1.queuesLegal := by
  obtain ⟨hw, _⟩ := s.resumeStep_working h.bounded h.due between 0
  unfold State.patrolWork
  dsimp only
  split
  · next hbegin =>
    simp only [Bool.and_eq_true, Option.isNone_iff_eq_none] at hbegin
    obtain ⟨⟨_, _⟩, hnone⟩ := hbegin
    obtain ⟨hp, hn, hb⟩ := hw.bounded
    obtain ⟨hp', hn', hs'⟩ := Patrol.choose_bounded _ hp hn
    obtain ⟨hlast, hdue, _⟩ := (KeepsQueues.patrolClosed.beginStep (s.resumeStep between 0).1 between
      (s.resumeStep between 0).2).working ⟨hp', hn', hb⟩ nofun (hs'.trans hnone)
    exact hlast.legal fun h => nomatch hdue h
  · next hidle =>
    refine hw.legal fun hdue hnone => hidle ?_
    simp [hdue, hnone, State.ready, hw.due hdue]

/-! ## Restarts -/

variable (s) in
theorem State.takeRestart_control : s.takeRestart.phase = s.phase ∧ s.takeRestart.patrol = s.patrol ∧
    s.takeRestart.badWords = s.badWords := by
  have hserials : ∀ (l : List Record) (t : State), (l.foldl State.clearSerials t).phase = t.phase ∧
      (l.foldl State.clearSerials t).patrol = t.patrol ∧
      (l.foldl State.clearSerials t).badWords = t.badWords := by
    intro l
    induction l with
    | nil => exact fun _ => ⟨rfl, rfl, rfl⟩
    | cons r l ih =>
      intro t
      rw [List.foldl_cons]
      obtain ⟨hp, hq, hb⟩ := ih (t.clearSerials r)
      rw [hp, hq, hb, State.clearSerials_frame]
      exact ⟨rfl, rfl, rfl⟩
  unfold State.takeRestart
  dsimp only
  obtain ⟨hp, hq, hb⟩ := hserials allRecords _
  rw [hp, hq, hb, State.restartMonitors_frame, (State.forLines_modLine Line.restarted _).1]
  exact ⟨rfl, rfl, rfl⟩

/-- A restart that takes hold completes the step in progress (R155). -/
theorem State.finishStep_takeRestart_legal (hb : s.queuesBounded)
    (hd : s.patrol.due = true → s.phase = .ready) (hp : s.phase = .restarting) :
    s.finishStep.takeRestart.queuesLegal := by
  obtain ⟨hw, hrest⟩ := s.resumeStep_working hb hd [] 0
  obtain ⟨hphase, _⟩ := hrest (by rw [hp]; nofun)
  obtain ⟨htp, hpat, hbad⟩ := s.finishStep.takeRestart_control
  have hlegal : s.finishStep.queuesLegal := hw.legal fun hdue => by
    have hready := hw.due hdue
    rw [hphase, hp] at hready
    cases hready
  unfold State.queuesLegal
  rw [htp, hpat, hbad]
  exact hlegal

/-- A part of a command that leaves READY as it stands keeps the queues legal. -/
theorem State.KeepsQueues.legal {t : State} (h : s.KeepsQueues t) (hs : s.queuesLegal)
    (hp : t.phase = s.phase) : t.queuesLegal := by
  obtain ⟨hl, hn, hb, hd⟩ := h.bounded hs.working.bounded
  obtain ⟨_, _, _, _, hstep, hdue⟩ := hs
  refine ⟨hl, hn, hb, hd, ?_, ?_⟩
  · rw [h.step, hp]
    exact hstep
  · rw [h.step]
    exact hdue ∘ h.due

theorem State.ControlKept.legal {t : State} (h : s.ControlKept t) (hs : s.queuesLegal) :
    t.queuesLegal := h.keepsQueues.legal hs h.phase

/-- A host cycle on its own keeps the queues legal: a restart it asks for completes the step. -/
theorem State.hostCycle_settled_legal (hs : s.queuesLegal) (c : HostCycle) :
    (s.settleRestart (s.hostCycle c)).queuesLegal := by
  have hkept := s.hostCycle_keepsQueues c
  rcases hkept.phase with hp | ⟨hr, hp⟩
  · rcases s.settleRestart_cases (s.hostCycle c) with e | ⟨hr, hn, _⟩
    · rw [e]
      exact hkept.legal hs hp
    · rw [hp, of_decide_eq_true hr] at hn
      cases hn
  · have hset : s.settleRestart (s.hostCycle c) = (s.hostCycle c).finishStep.takeRestart := by
      simp [State.settleRestart, State.ready, hr, hp]
    rw [hset]
    exact State.finishStep_takeRestart_legal (hkept.bounded hs.working.bounded)
      (hkept.dueReady hs.working.due) hp

theorem State.serveAlone_legal (hs : s.queuesLegal) (between : List (Nat × HostCycle)) (k : Nat) :
    (s.serveAlone between k).queuesLegal := by
  unfold State.serveAlone
  induction (between.filter fun c => k ≤ c.1) generalizing s with
  | nil => exact hs
  | cons c l ih => exact ih (s.hostCycle_settled_legal hs c.2)

theorem State.settleRestart_legal {t : State} (ht : t.queuesLegal) : (s.settleRestart t).queuesLegal := by
  rcases s.settleRestart_cases t with e | ⟨_, hp, e⟩
  · rw [e]
    exact ht
  · rw [e]
    exact State.finishStep_takeRestart_legal ht.working.bounded ht.working.due hp

theorem State.patrolTurn_legal (hs : s.QueuesWorking) (between : List (Nat × HostCycle)) :
    (s.patrolTurn between).queuesLegal := by
  cases hr : s.ready with
  | true =>
    rw [State.patrolTurn_of_ready s hr]
    exact State.serveAlone_legal (State.settleRestart_legal (s.patrolWork_legal hs between)) _ _
  | false =>
    have hne : s.phase ≠ .ready := fun h => by simp [State.ready, h] at hr
    rw [State.patrolTurn_of_not_ready s hr]
    exact State.serveAlone_legal (hs.legal fun h => absurd (hs.due h) hne) _ _

theorem State.dueStep_working (hs : s.QueuesWorking) : s.dueStep.QueuesWorking := by
  unfold State.dueStep
  split
  · next h => exact ⟨hs.bounded, hs.step, fun _ => of_decide_eq_true h⟩
  · exact hs

theorem State.advancePatrol_working (hs : s.QueuesWorking) : s.advancePatrol.QueuesWorking := by
  have htimer : ∀ t, (s.modPatrol fun p => { p with timer := t }).QueuesWorking :=
    fun _ => ⟨hs.bounded, hs.step, hs.due⟩
  unfold State.advancePatrol
  dsimp only
  split
  · exact State.dueStep_working (htimer 0)
  · exact htimer _

end

end Sys2Proof.Machine
end

section
/-!
SUPPORT. Every command, and so every step, keeps the memories canonical, the lines and spare control sound,
and the queues legal.
-/
namespace Sys2Proof.Machine

/-! ## Lines, spare control and memories -/

section
variable {s t : State}

/-- A framer that searches or checks is not held (R2). -/
theorem State.framerIn_iff {n : LineNo} {x : FramerState} : s.framerIn n x = true ↔
    s.phase ≠ .inReset ∧ (s.line n).framer.held = false ∧ (s.line n).framer.state = x := by
  simp [State.framerIn, State.outOfReset, and_assoc]

theorem State.whenReady_keepsSound {u : State} (h : s.KeepsSound u) (he : s.whenReady u = .next t) :
    s.KeepsSound t := by
  cases he
  exact .ite _ h (.refl _)

/-- Every command keeps the memories, the lines and spare control sound. -/
theorem exec_keepsSound (c : Instr) (he : exec c s = .next t) : s.KeepsSound t := by
  cases c with
  | fullReset => cases he; exact s.fullReset_keepsSound
  | resetRelease holdreq => cases he; exact .ite _ (s.release_keepsSound holdreq) (.refl _)
  | initialisationEnd => cases he; exact .ite _ (.of_eq id rfl rfl rfl) (.refl _)
  | hostMemoryRead select addr =>
    cases he
    exact .ite _ (.of_eq id rfl rfl rfl) (s.hostRead_keepsSound _)
  | hostMemoryWrite addr data => cases he; exact s.hostWrite_keepsSound _ _
  | takeser slot low data => cases he; exact s.hostWrite_keepsSound _ _
  | protect addr data => cases he; exact s.hostWrite_keepsSound _ _
  | engineRestart => cases he; exact s.writeRestart_keepsSound
  | engineRestartEnd => cases he; exact .ite _ s.endRestart_keepsSound (.refl _)
  | attentionClear data => cases he; exact s.writeRegister_keepsSound _ _
  | maskWrite data => cases he; exact s.writeRegister_keepsSound _ _
  | prompt data => cases he; exact s.writeRegister_keepsSound _ _
  | registerWriteOther reg data =>
    cases he
    exact .ite _ s.writeRestart_keepsSound (s.writeRegister_keepsSound _ _)
  | holdLatch =>
    cases he
    exact .ite _ ((s.setHoldreq_keepsSound true).trans (State.latchHold_keepsSound _)) (.refl _)
  | busFrameJudged bus good => cases he; exact .ite _ (s.judgeFrame_keepsSound bus good) (.refl _)
  | missingClock bus => cases he; exact .ite _ (s.loseClock_keepsSound bus) (.refl _)
  | timingWindowEnd bus cycles => cases he; exact .ite _ (s.endTimingWindow_keepsSound bus _) (.refl _)
  | officeTick => cases he; exact .ite _ s.wrapPhase_keepsSound (.refl _)
  | realignComplete => cases he; exact .ite _ s.closeRealign_keepsSound (.refl _)
  | busClockEdge bus pulse => cases he; exact .ite _ (s.busEdge_keepsSound bus pulse) (.refl _)
  | localOscillatorCycle holdreq strikes =>
    cases he
    exact .ite _ (s.localCycle_keepsSound holdreq strikes) <|
      (s.strikes_keepsSound strikes).trans <| (State.setHoldreq_keepsSound _ _).trans
        (State.serveAlone_keepsSound _ _ _)
  | dead n =>
    cases he
    refine .ite _ ?_ (.refl _)
    split
    · next h => exact s.enterDead_keepsSound n (by rw [h]; rfl)
    · next h => exact s.enterDead_keepsSound n (by rw [h]; rfl)
    · next h => exact s.enterDead_keepsSound n (by rw [h]; rfl)
    all_goals exact .refl _
  | windowEnd n => cases he; exact .ite _ (s.endWindow_keepsSound n) (.refl _)
  | huntFind n octet =>
    cases he
    split
    · next h =>
      obtain ⟨_, _, hstate⟩ := State.framerIn_iff.mp h
      exact (s.recordOctet_keepsSound n octet).trans <| State.huntExamine_keepsSound _ n
        ((s.recordOctet_framer n octet).2.trans hstate)
    · exact .refl _
  | confirmCheck n octet =>
    cases he
    split
    · next h =>
      obtain ⟨_, hheld, hstate⟩ := State.framerIn_iff.mp h
      exact (s.recordOctet_keepsSound n octet).trans <| State.confirmCheck_keepsSound _ n
        ((s.recordOctet_framer n octet).1.trans hheld) ((s.recordOctet_framer n octet).2.trans hstate)
    · exact .refl _
  | lockedCheck n octet =>
    cases he
    split
    · next h =>
      obtain ⟨_, _, hstate⟩ := State.framerIn_iff.mp h
      exact (s.recordOctet_keepsSound n octet).trans <| State.lockedCheck_keepsSound _ n
        ((s.recordOctet_framer n octet).2.trans hstate)
    · exact .refl _
  | frameDelivery n payload tag => cases he; exact .ite _ (s.writeFrame_keepsSound n _ tag) (.refl _)
  | lineBitTaken n bit => cases he; exact .ite _ (s.takeBit_keepsSound n bit) (.refl _)
  | patrolStep between => cases he; exact s.patrolStep_keepsSound between
  | lineRequest n req => exact State.whenReady_keepsSound (s.takeLineRequest_keepsSound n req) he
  | serviceIn n =>
    refine State.whenReady_keepsSound ?_ he
    split
    · next h => exact s.enterService_keepsSound (Option.isNone_iff_eq_none.mp h)
    · exact .refl _
  | serviceOut n => exact State.whenReady_keepsSound (s.leaveService_keepsSound n) he
  | recentre n => exact State.whenReady_keepsSound (s.pendRecentre_keepsSound n) he
  | restartLine n => exact State.whenReady_keepsSound (s.restartLine_keepsSound n) he
  | armWindow n => exact State.whenReady_keepsSound (.ite _ (s.armWindow_keepsSound n) (.refl _)) he
  | clearCounts n => exact State.whenReady_keepsSound (s.clearCounts_keepsSound n) he
  | timingRequest req =>
    exact State.whenReady_keepsSound
      (s.answerRequest_keepsSound _ _ fun _ _ => s.applyTiming_keepsSound req) he
  | clearHistory => exact State.whenReady_keepsSound (s.modTiming_keepsSound _) he
  | clearHoldLatch => exact State.whenReady_keepsSound (.ite _ s.clearLatch_keepsSound (.refl _)) he
  | realign => exact State.whenReady_keepsSound (.ite _ (s.modTiming_keepsSound _) (.refl _)) he
  | storeRequest req =>
    exact State.whenReady_keepsSound
      (s.answerRequest_keepsSound _ _ fun _ _ => s.applyStore_keepsSound req) he
  | clearBankCounts => exact State.whenReady_keepsSound s.clearBankCounts_keepsSound he
  | swap bank => exact State.whenReady_keepsSound (s.takeSwap_keepsSound bank) he
  | returnBank => exact State.whenReady_keepsSound s.takeReturn_keepsSound he
  | cancel => exact State.whenReady_keepsSound s.takeCancel_keepsSound he
  | monitorRequest m req =>
    exact State.whenReady_keepsSound
      (s.answerRequest_keepsSound _ _ fun _ _ => s.applyMonitor_keepsSound m req) he
  | loadPreset m => exact State.whenReady_keepsSound (s.setMonitor_keepsSound m _) he
  | clearOverflow m => exact State.whenReady_keepsSound (s.setMonitor_keepsSound m _) he
  | directoryRequest req =>
    exact State.whenReady_keepsSound
      (s.answerRequest_keepsSound _ _ fun _ _ => s.applyDirectory_keepsSound req) he
  | clearViolations =>
    exact State.whenReady_keepsSound (u := s.clearViolations) (.of_eq id rfl rfl rfl) he
  | clearUnposted =>
    exact State.whenReady_keepsSound (u := s.clearUnposted) (.of_eq id rfl rfl rfl) he
  | unfreeze => exact State.whenReady_keepsSound (.ite _ (.refl _) s.unfreeze_keepsSound) he

theorem step_keepsSound (he : step s = .next t) : s.KeepsSound t := by
  unfold step at he
  split at he
  · cases he
    exact .refl _
  · next c rest _ =>
    have hpop : s.KeepsSound { s with pending := rest } := .of_eq id rfl rfl rfl
    exact hpop.trans (exec_keepsSound c he)

end

/-! ## The queues -/

section
variable (s : State)

theorem State.hostRead_phase (a : Nat) : (s.hostRead a).phase = s.phase := by
  unfold State.hostRead
  split
  · rfl
  · split
    · rfl
    all_goals split <;> rfl

theorem State.hostWrite_phase (a : Nat) (x : Word) : (s.hostWrite a x).phase = s.phase := by
  unfold State.hostWrite State.refuseWrite
  split
  · rfl
  · split
    · split
      · unfold State.compareTakeser
        dsimp only
        split <;> rfl
      · rfl
    all_goals exact State.post_phase _ _ _ _

theorem State.registerWrite_phase {t : State} (h : t.phase = s.phase) :
    (s.registerWrite t).phase = s.phase := by
  unfold State.registerWrite
  split
  · rfl
  · exact h

theorem State.takePrompt_phase (x : Word) : (s.takePrompt x).phase = s.phase := by
  unfold State.takePrompt
  split
  · rfl
  · split_ifs <;> rfl

/-- A register write other than the one that asks for a restart leaves READY as it stands (R149). -/
theorem State.writeRegister_phase {reg : Fin 8} {data : Word}
    (h : ¬(reg = 2 ∧ data.getLsbD 0 = true)) : (s.writeRegister reg data).phase = s.phase := by
  unfold State.writeRegister
  split
  · have hbit : data.getLsbD 0 = false := by simpa using h
    rw [hbit]
    exact s.registerWrite_phase rfl
  · exact s.registerWrite_phase rfl
  · exact s.registerWrite_phase rfl
  · exact s.registerWrite_phase (s.takePrompt_phase data)
  · rfl

variable {s} {t : State}

theorem State.hostWrite_legal (hs : s.queuesLegal) (a : Nat) (x : Word) : (s.hostWrite a x).queuesLegal :=
  (s.hostWrite_keepsQueues a x).legal hs (s.hostWrite_phase a x)

theorem State.writeRegister_legal (hs : s.queuesLegal) {reg : Fin 8} {data : Word}
    (h : ¬(reg = 2 ∧ data.getLsbD 0 = true)) : (s.writeRegister reg data).queuesLegal :=
  (s.writeRegister_keepsQueues reg data).legal hs (s.writeRegister_phase h)

/-- An engine restart asked for by the host completes the step in progress (R155). -/
theorem State.writeRestart_legal (hs : s.queuesLegal) : s.writeRestart.queuesLegal := by
  have hrestart : s.ready = true → s.beginRestart.queuesLegal := fun hr => by
    have hkept := s.askRestart_keepsQueues hr
    exact State.finishStep_takeRestart_legal (hkept.bounded hs.working.bounded)
      (hkept.dueReady hs.working.due) (by rw [State.askRestart_frame])
  have hanswer : ∀ (u : State) x, u.queuesLegal → (u.answerPort x).queuesLegal := fun _ _ h => h
  unfold State.writeRestart State.registerWrite
  split
  · exact hanswer _ _ hs
  · refine hanswer _ _ ?_
    split
    · next hr => exact hrestart hr
    · exact hs

variable (s) in
/-- The control plane at the end of a restart (R155). -/
theorem State.endRestart_control : s.endRestart.phase = .ready ∧
    s.endRestart.patrol = { s.patrol with pointer := .directory } ∧
    s.endRestart.badWords = s.badWords := by
  have hkept : s.ControlKept (((s.modSpare Spare.restarted).modTiming fun t =>
      t.configure {}).takeSelector .settings) :=
    .trans (t := s.modSpare Spare.restarted) ⟨rfl, rfl, rfl, rfl, rfl, rfl, rfl, rfl, rfl, rfl⟩
      ((State.modTiming_kept _ _).trans (State.takeSelector_kept _ _))
  obtain ⟨m, hm⟩ := State.clearTakesers_frame (((s.modSpare Spare.restarted).modTiming fun t =>
      t.configure {}).takeSelector .settings)
  unfold State.endRestart
  dsimp only
  rw [hm]
  simp [hkept.patrol, hkept.badWords]

theorem State.endRestart_legal (hs : s.queuesLegal) : s.endRestart.queuesLegal := by
  obtain ⟨hp, hn, hb, hd, _, hdue⟩ := hs
  obtain ⟨hphase, hpatrol, hbad⟩ := s.endRestart_control
  unfold State.queuesLegal
  rw [hpatrol, hbad, hphase]
  exact ⟨hp, hn, hb, hd, fun _ => rfl, hdue⟩

/-- A change of the phase out of a phase in which no step is in progress (R156). -/
theorem State.setPhase_legal (hs : s.queuesLegal) (hr : s.phase ≠ .ready) (x : Phase) :
    (s.setPhase x).queuesLegal := by
  obtain ⟨hp, hn, hb, hd, hstep, hdue⟩ := hs
  exact ⟨hp, hn, hb, hd, fun h => absurd (hstep h) hr, hdue⟩

/-- RESETn released leaves the patrol at rest (R154). -/
theorem State.release_legal (hs : s.queuesLegal) (hr : s.phase = .inReset) (holdreq : Bool) :
    (s.release holdreq).queuesLegal := by
  obtain ⟨hp, hn, hb, hd, hstep, hdue⟩ := hs
  have hempty : State.queuesLegal { s with
      phase := .initialising, holdreq := holdreq, memory := [], slots := [] } :=
    ⟨hp, hn, hb, hd, fun h => absurd (hstep h) (by rw [hr]; nofun), hdue⟩
  have hwritten : (State.memWriteAll { s with
      phase := .initialising, holdreq := holdreq, memory := [], slots := [] }
      identityWords).queuesLegal := by
    rw [State.memWriteAll_frame]
    exact hempty
  unfold State.release
  dsimp only
  split
  · exact (State.latchHold_kept _).legal hwritten
  · exact hwritten

theorem State.fullReset_legal : s.fullReset.queuesLegal :=
  ⟨Nat.zero_le 8, .nil, Nat.zero_le 16, .nil, fun h => (h rfl).elim, nofun⟩

/-- A request taken keeps the queues legal where its acceptance does (R159). -/
theorem State.answerRequest_legal {u : State} (hs : s.queuesLegal) (r : Record) (serial : Word)
    (v : Verdict) (hu : u.queuesLegal) : (s.answerRequest r serial v u).queuesLegal := by
  have hhead : ∀ (t : State) x, t.queuesLegal → (t.setHead r x).queuesLegal := fun _ _ h => h
  cases v with
  | refused reason detail => exact hhead _ _ ((s.post_kept _ _ _).legal hs)
  | accepted mask => exact hhead _ _ hu

theorem State.applyDirectory_legal (hs : s.queuesLegal) (q : DirectoryRequest) :
    (s.applyDirectory q).queuesLegal := by
  have hcleared : (s.cleared q).queuesLegal := by
    unfold State.cleared
    split_ifs <;> exact hs
  rw [State.applyDirectory_eq]
  split
  · exact (State.unfreeze_quiet _).legal hcleared
  · exact hcleared

theorem State.strikes_legal (hs : s.queuesLegal) (l : List Strike) :
    (l.foldl State.struck s).queuesLegal := by
  induction l generalizing s with
  | nil => exact hs
  | cons x l ih => exact ih (by cases x <;> exact hs)

theorem State.localCycle_legal (hs : s.queuesLegal) (holdreq : Bool) (strikes : List Strike) :
    (s.localCycle holdreq strikes).queuesLegal := by
  have hgone := (State.goOn_keepsQueues _).legal (State.strikes_legal hs strikes)
    (by rw [State.goOn_frame]; rfl)
  have hheld : ((strikes.foldl State.struck s).goOn.setHoldreq holdreq).queuesLegal := hgone
  have hlatch := (State.ControlKept.ite holdreq (State.latchHold_kept _)
    (.refl ((strikes.foldl State.struck s).goOn.setHoldreq holdreq))).legal hheld
  have hclocks := ((State.cycleBus_kept _ .a).trans <| (State.cycleBus_kept _ .b).trans
    (State.cycleNco_kept _)).legal hlatch
  exact State.patrolTurn_legal (State.advancePatrol_working hclocks.working) _

/-- Every command keeps the queues legal. -/
theorem exec_queuesLegal (c : Instr) (hs : s.queuesLegal) (he : exec c s = .next t) :
    t.queuesLegal := by
  have hite : ∀ {b : Prop} [Decidable b] {u : State}, u.queuesLegal → (if b then u else s).queuesLegal :=
    fun h => by split <;> assumption
  have hready : ∀ {u : State}, s.whenReady u = .next t → u.queuesLegal → t.queuesLegal :=
    fun he h => by cases he; exact hite h
  have hreg : ∀ {reg data}, ¬(reg = 2 ∧ data.getLsbD 0 = true) → (s.writeRegister reg data).queuesLegal :=
    fun h => State.writeRegister_legal hs h
  cases c with
  | fullReset => cases he; exact s.fullReset_legal
  | resetRelease holdreq =>
    cases he
    split
    · next h => exact State.release_legal hs h holdreq
    · exact hs
  | initialisationEnd =>
    cases he
    split
    · next h => exact State.setPhase_legal hs (by rw [h]; nofun) _
    · exact hs
  | hostMemoryRead select addr =>
    cases he
    split
    · exact hs
    · exact (s.hostRead_keepsQueues _).legal hs (s.hostRead_phase _)
  | hostMemoryWrite addr data => cases he; exact State.hostWrite_legal hs _ _
  | takeser slot low data => cases he; exact State.hostWrite_legal hs _ _
  | protect addr data => cases he; exact State.hostWrite_legal hs _ _
  | engineRestart => cases he; exact State.writeRestart_legal hs
  | engineRestartEnd => cases he; exact hite (State.endRestart_legal hs)
  | attentionClear data => cases he; exact hreg (by simp)
  | maskWrite data => cases he; exact hreg (by simp)
  | prompt data => cases he; exact hreg (by simp)
  | registerWriteOther reg data =>
    cases he
    split
    · exact State.writeRestart_legal hs
    · next h => exact hreg h
  | holdLatch => cases he; exact hite ((State.latchHold_kept (s.setHoldreq true)).legal hs)
  | busFrameJudged bus good => cases he; exact hite ((s.judgeFrame_kept bus good).legal hs)
  | missingClock bus => cases he; exact hite ((s.loseClock_kept bus).legal hs)
  | timingWindowEnd bus cycles => cases he; exact hite ((s.endTimingWindow_kept bus _).legal hs)
  | officeTick => cases he; exact hite (s.wrapPhase_kept.legal hs)
  | realignComplete => cases he; exact hite (s.closeRealign_kept.legal hs)
  | busClockEdge bus pulse => cases he; exact hite ((s.busEdge_kept bus pulse).legal hs)
  | localOscillatorCycle holdreq strikes =>
    cases he
    have hstruck := State.strikes_legal hs strikes
    split
    · exact State.localCycle_legal hs holdreq strikes
    · exact State.serveAlone_legal (s := (strikes.foldl State.struck s).setHoldreq holdreq) hstruck _ 0
  | dead n =>
    cases he
    refine hite ?_
    split
    · exact (s.enterDead_quiet n).legal hs
    · exact (s.enterDead_quiet n).legal hs
    · exact (s.enterDead_quiet n).legal hs
    all_goals exact hs
  | windowEnd n => cases he; exact hite ((s.endWindow_quiet n).legal hs)
  | huntFind n octet =>
    cases he
    exact hite (((s.recordOctet_quiet n octet).trans (State.setFramer_quiet _ n _)).legal hs)
  | confirmCheck n octet =>
    cases he
    exact hite (((s.recordOctet_quiet n octet).trans (State.confirmCheck_quiet _ n)).legal hs)
  | lockedCheck n octet =>
    cases he
    exact hite (((s.recordOctet_quiet n octet).trans (State.lockedCheck_quiet _ n)).legal hs)
  | frameDelivery n payload tag => cases he; exact hite ((s.writeFrame_quiet n _ tag).legal hs)
  | lineBitTaken n bit => cases he; exact hite ((s.takeBit_quiet n bit).legal hs)
  | patrolStep between =>
    cases he
    exact State.patrolTurn_legal (State.dueStep_working hs.working) between
  | lineRequest n req =>
    exact hready he (State.answerRequest_legal hs _ _ _ ((s.applyLine_quiet n req).legal hs))
  | serviceIn n => exact hready he (hite ((s.enterService_quiet n).legal hs))
  | serviceOut n => exact hready he ((s.leaveService_quiet n).legal hs)
  | recentre n => exact hready he ((s.modLine_quiet n _).legal hs)
  | restartLine n => exact hready he ((s.restartLine_quiet n).legal hs)
  | armWindow n => exact hready he (hite ((s.modLine_quiet n _).legal hs))
  | clearCounts n => exact hready he ((s.modLine_quiet n _).legal hs)
  | timingRequest req =>
    exact hready he (State.answerRequest_legal hs _ _ _ ((s.applyTiming_kept req).legal hs))
  | clearHistory => exact hready he ((s.modTiming_kept _).legal hs)
  | clearHoldLatch =>
    exact hready he (hite (((s.modTiming_kept _).trans (State.takeSelector_kept _ _)).legal hs))
  | realign => exact hready he (hite ((s.modTiming_kept _).legal hs))
  | storeRequest req =>
    exact hready he (State.answerRequest_legal hs _ _ _ ((s.applyStore_quiet req).legal hs))
  | clearBankCounts => exact hready he (s.clearBankCounts_quiet.legal hs)
  | swap bank => exact hready he ((s.takeSwap_quiet bank).legal hs)
  | returnBank => exact hready he (s.takeReturn_quiet.legal hs)
  | cancel => exact hready he (s.takeCancel_quiet.legal hs)
  | monitorRequest m req =>
    exact hready he (State.answerRequest_legal hs _ _ _ ((s.applyMonitor_quiet m req).legal hs))
  | loadPreset m => exact hready he ((s.loadPreset_quiet m).legal hs)
  | clearOverflow m => exact hready he ((s.clearOverflow_quiet m).legal hs)
  | directoryRequest req =>
    exact hready he (State.answerRequest_legal hs _ _ _ (State.applyDirectory_legal hs req))
  | clearViolations => exact hready (u := s.clearViolations) he hs
  | clearUnposted => exact hready (u := s.clearUnposted) he hs
  | unfreeze =>
    refine hready he ?_
    split
    · exact hs
    · exact s.unfreeze_quiet.legal hs

theorem step_queuesLegal (hs : s.queuesLegal) (he : step s = .next t) : t.queuesLegal := by
  unfold step at he
  split at he
  · cases he
    exact hs
  · next c rest _ => exact exec_queuesLegal (s := { s with pending := rest }) c hs he

end

end Sys2Proof.Machine
end

section
/-!
PROOFS. What every step keeps, and what reset meets.
-/
namespace Sys2Proof.Proofs

open Sys2Proof.Machine

/-- Settles O57: every write of a memory is a write of one cell of it, and the patrol's steps are kept in
order through the midst of its work by a relation that every part of it keeps. -/
theorem stepsKeepTheMemoriesAndQueues : Obligations.StepsKeepTheMemoriesAndQueues :=
  ⟨fun _ h _ he => ⟨(step_keepsSound he).memory h.1, (step_keepsSound he).slots h.2⟩,
    fun _ h _ he => step_queuesLegal h he⟩

/-- Settles O59: every event puts new items in force on one line at a time, and a line enters service, or
moves in it, only where the checks of its request find no line that shares a slot. -/
theorem stepsKeepTheRingsLegalAndDisjoint : Obligations.StepsKeepTheRingsLegalAndDisjoint :=
  ⟨fun _ h _ he => (step_keepsSound he).rings h, fun _ h _ he => (step_keepsSound he).disjoint h⟩

/-- Settles O60: a framer changes its state with its line's, and an operation whose last PENDING line is
covered ends with it. -/
theorem stepsKeepLinesAndSpareControlSound : Obligations.StepsKeepLinesAndSpareControlSound :=
  ⟨fun _ h _ he => (step_keepsSound he).framers h, fun _ h _ he => (step_keepsSound he).settled h⟩

/-- Settles O3: at reset every line is OUT, every memory empty and nothing waits. -/
theorem resetMeetsEveryInvariant : Obligations.ResetMeetsEveryInvariant := by
  refine ⟨⟨State.reset_memory_wf, State.reset_slots_wf⟩, Timing.reset_sound.1, Timing.reset_sound.2,
    fun n => ?_, fun n m _ hn => ?_, fun n => ?_, ⟨fun _ => rfl, fun h => (h rfl).elim⟩,
    State.fullReset_legal (s := State.reset), rfl⟩
  · rw [State.reset_line]
    exact Line.reset_sound.1
  · rw [State.reset_line] at hn
    cases hn
  · rw [State.reset_line]
    exact Line.reset_sound.2

/-- Settles O2: no arm of the dispatch refuses or stops. -/
theorem everyCommandIsTaken : Obligations.EveryCommandIsTaken := by
  intro c s
  cases c <;> exact ⟨_, rfl⟩

end Sys2Proof.Proofs
end

section
/-!
SUPPORT. The host port with the port open and closed, register by register, and the owners of the words of a
journal slot.
-/
namespace Sys2Proof.Machine

open Sys2Proof.Laws

section
variable {s : State}

/-! ## The port -/

/-- The port is open from the end of initialisation on (R144). -/
theorem State.portClosed_of_open (h : s.phase = .ready ∨ s.phase = .restarting) :
    s.portClosed = false := by
  rcases h with h | h <;> simp [State.portClosed, h]

theorem State.portClosed_of_closed (h : s.phase = .inReset ∨ s.phase = .initialising) :
    s.portClosed = true := by
  rcases h with h | h <;> simp [State.portClosed, h]

/-- The data a read returns, by which bits are in error (R147). -/
theorem State.hostRead_of_owned {a : Nat} (h : s.portClosed = false) (ho : ownerOf a ≠ .unassigned) :
    s.hostRead a = s.answerPort (match (s.memWord a).errors with
      | [] => .readDone (s.memWord a).raw false
      | [b] => .readDone (if b < 16 then (s.memWord a).raw ^^^ (1 <<< b) else (s.memWord a).raw) false
      | _ :: _ :: _ => .readDone (s.memWord a).raw true) := by
  unfold State.hostRead MemWord.corrected MemWord.condition
  rw [h]
  rcases (s.memWord a).errors with _ | ⟨b, _ | ⟨c, l⟩⟩ <;> cases hw : ownerOf a <;> simp_all

theorem State.hostWrite_of_closed (h : s.portClosed = true) (a : Nat) (x : Word) :
    s.hostWrite a x = s.answerPort (.writeDone true) := by
  rw [State.hostWrite, h]
  rfl

theorem State.registerWrite_of_closed (h : s.portClosed = true) (t : State) :
    s.registerWrite t = s.answerPort (.writeDone true) := by
  rw [State.registerWrite, h]
  rfl

theorem State.registerWrite_of_open (h : s.portClosed = false) (t : State) :
    s.registerWrite t = t.answerPort (.writeDone false) := by
  rw [State.registerWrite, h]
  rfl

theorem State.writeRegister_of_closed (h : s.portClosed = true) (reg : Fin 8) (data : Word) :
    s.writeRegister reg data = s.answerPort (.writeDone true) := by
  unfold State.writeRegister
  split <;> first | exact s.registerWrite_of_closed h _ | rfl

theorem State.hostWrite_of_host {a : Nat} (h : s.portClosed = false) (ho : ownerOf a = .host)
    (ht : takeserSlot a = none) (x : Word) : s.hostWrite a x = s.storeHostWord a x := by
  rw [State.hostWrite, h, ho, ht]
  rfl

theorem State.hostWrite_of_not_host {a : Nat} (h : s.portClosed = false) (ho : ownerOf a ≠ .host)
    (x : Word) : s.hostWrite a x = s.refuseWrite a := by
  rw [State.hostWrite, h]
  cases hw : ownerOf a with
  | host => exact absurd hw ho
  | device | unassigned => rfl

/-! ## The words of a slot -/

/-- The part's own words of a journal slot (R145). -/
theorem ownerOf_journal {i : Fin 128} {w : Nat} (hw : w < 16) (h2 : w ≠ 2) (h3 : w ≠ 3) :
    ownerOf (journalBase i + w) = .device := by
  have hi := i.isLt
  have hb := journalBase_eq i
  have hs := journalStart_eq
  have hm := memoryWords_eq
  have hmod : (journalBase i + w - journalStart) % 16 = w := by omega
  have hin : (decide (journalStart ≤ journalBase i + w) &&
      decide (journalBase i + w < Config.memoryWords)) = true := by
    rw [Bool.and_eq_true, decide_eq_true_eq, decide_eq_true_eq]
    omega
  unfold ownerOf
  rw [recordAt_journal (by omega)]
  dsimp only
  rw [if_pos hin, hmod]
  simp [h2, h3]

/-- The serial that the TAKESER words of a slot hold once one of them is written (R167). -/
theorem State.storeHostWord_takeserOf (s : State) (i : Fin 128) (low : Bool) (data : Word) :
    (s.storeHostWord (journalBase i + if low then 3 else 2) data).takeserOf i =
      if low then (s.memWord (journalBase i + 2)).corrected ++ data
      else data ++ (s.memWord (journalBase i + 3)).corrected := by
  have hwritten : ∀ a, ((s.storeHostWord a data).memWord a).corrected = data := fun a =>
    congrArg MemWord.corrected (s.memWrite_memWord_same a data)
  have hother : ∀ a b, b ≠ a → (s.storeHostWord a data).memWord b = s.memWord b := fun a b h =>
    s.memWrite_memWord_ne h data
  unfold State.takeserOf ofHalves
  cases low
  · simp [hwritten, hother]
  · simp [hwritten, hother]

/-- The comparison of a slot's TAKESER words frees the slot, or nothing (R167). -/
theorem State.compareTakeser_eq (s : State) (i : Fin 128) : s.compareTakeser i =
    { s with journal := { s.journal with
      slots := if (s.journalSlot i).state = .held ∧ (s.journalSlot i).posting = false ∧
          s.takeserOf i = (s.journalSlot i).serial then
        s.journal.slots.set i { s.journalSlot i with state := .free }
      else s.journal.slots } } := by
  unfold State.compareTakeser
  dsimp only
  split_ifs <;> rfl

/-! ## ATTENTION -/

/-- The six bits of ATTENTION as a number, bit by bit (R150). -/
theorem attention_bits (a b c d e f : Bool) (k : Nat) :
    (BitVec.ofNat 6 (bit a + 2 * bit b + 4 * bit c + 8 * bit d + 16 * bit e + 32 * bit f)).getLsbD k =
      match k with
      | 0 => a | 1 => b | 2 => c | 3 => d | 4 => e | 5 => f | _ => false := by
  revert a b c d e f
  rcases k with _ | _ | _ | _ | _ | _ | k
  iterate 6 decide
  intros
  exact BitVec.getLsbD_of_ge _ _ (by omega)

theorem State.attentionWord_bit (s : State) (k : Nat) : s.attentionWord.getLsbD k =
    match k with
    | 0 => s.ready | 1 => s.journalBit | 2 => s.attention.lost | 3 => s.attention.protect
    | 4 => s.attention.promptLost | 5 => s.attention.critical | _ => false := by
  unfold State.attentionWord State.attentionBits
  rw [BitVec.getLsbD_setWidth, attention_bits]
  rcases k with _ | _ | _ | _ | _ | _ | k <;> simp

/-- A HELD slot is one that the count of HELD slots finds (R150, R164). -/
theorem State.journalBit_iff (s : State) :
    s.journalBit = true ↔ ∃ i, (s.journalSlot i).state = .held := by
  simp [State.journalBit, Journal.heldCount, List.countP_pos_iff, State.journalSlot]

/-- INTn by the bits of the two registers (R150). -/
theorem State.interrupt_iff (s : State) :
    s.interrupt = true ↔ ∃ k, s.attentionWord.getLsbD k = true ∧ s.mask.getLsbD k = true := by
  have hbits : ∀ k, k < 6 → s.attentionWord.getLsbD k = s.attentionBits.getLsbD k := fun k hk => by
    rw [State.attentionWord, BitVec.getLsbD_setWidth]
    simp [show k < 16 by omega]
  have hand : s.interrupt = true ↔ ∃ k, k < 6 ∧ (s.attentionBits &&& s.mask).getLsbD k = true := by
    rw [State.interrupt, bne_iff_ne, ne_eq]
    refine ⟨fun h => by_contra fun hn => h (BitVec.eq_of_getLsbD_eq fun k hk => ?_), ?_⟩
    · push Not at hn
      simpa using hn k hk
    · rintro ⟨k, _, hk⟩ h0
      rw [h0] at hk
      simp at hk
  rw [hand]
  refine exists_congr fun k => ?_
  rw [BitVec.getLsbD_and, Bool.and_eq_true]
  by_cases hk : k < 6
  · rw [hbits k hk]
    exact and_iff_right hk
  · refine ⟨fun h => absurd h.1 hk, fun h => ?_⟩
    rw [BitVec.getLsbD_of_ge _ _ (Nat.le_of_not_lt hk)] at h
    exact absurd h.2 (by simp)

/-! ## PROMPT -/

theorem number_of_recordOf {k : Nat} {r : Record} (h : recordOf k = some r) : r.number.val = k := by
  unfold recordOf at h
  split_ifs at h <;> cases h <;> simp_all [Record.number]

end

end Sys2Proof.Machine
end

section
/-!
PROOFS. The host port.
-/
namespace Sys2Proof.Proofs

open Sys2Proof.Machine Sys2Proof.Laws

/-- Settles O4: the state at full reset is given entry by entry. -/
theorem fullResetLeavesTheResetValues : Obligations.FullResetLeavesTheResetValues := by
  intro s
  refine ⟨s.fullReset, rfl, rfl, rfl, rfl, rfl, State.reset_line, rfl, rfl, rfl, (show ({} : Spare).outstanding = 0 by decide), rfl,
    fun n => ?_, fun b => ?_, fun m => ?_, rfl, fun n => ?_, rfl, rfl, rfl, rfl, rfl, rfl, rfl, rfl, rfl,
    fun r => ?_, fun i => ?_, rfl, rfl, rfl, rfl, rfl, rfl, fun k => ?_, rfl⟩
  all_goals
    simp [State.fullReset, State.reset, State.cover, State.bank, State.monitor,
      State.gathered, State.head, State.journalSlot]

/-- Settles O9, the stored word and the refused one. -/
theorem hostWritesStoreOrAreRefused : Obligations.HostWritesStoreOrAreRefused := by
  refine ⟨fun addr data s hp ho ht => ⟨_, rfl, ?_⟩, fun addr data s hp ho c hc => ?_⟩
  · rw [State.hostWrite_of_host (State.portClosed_of_open hp) ho ht]
    exact ⟨rfl, State.memWrite_memWord_same _ _ _, fun a ha => s.memWrite_memWord_ne ha data⟩
  · have hrefused := s.hostWrite_of_not_host (State.portClosed_of_open hp) ho data
    rcases hc with rfl | rfl <;> exact congrArg _ hrefused

/-- Settles O10: the pair of TAKESER words is compared after the write. -/
theorem takeserFreesAMatchingSlot : Obligations.TakeserFreesAMatchingSlot := by
  refine ⟨fun i low data s hp => ⟨_, rfl, ?_⟩, fun i w data s hp hw h2 h3 => ?_⟩
  · have hword : s.hostWrite (journalBase i + if low then 3 else 2) data =
        (s.storeHostWord (journalBase i + if low then 3 else 2) data).compareTakeser i := by
      rw [State.hostWrite, State.portClosed_of_open hp]
      cases low
      · simp [ownerOf_takeser i 2 (.inl rfl), takeserSlot_word i 2 (.inl rfl)]
      · simp [ownerOf_takeser i 3 (.inr rfl), takeserSlot_word i 3 (.inr rfl)]
    rw [hword, State.compareTakeser_eq, State.storeHostWord_takeserOf]
    have hlow : 0x1800 + 16 * i.val + (if low then 3 else 2) = journalBase i + if low then 3 else 2 := rfl
    have hserial : (if low then (s.memWord (journalBase i + (if low then 3 else 2) - 1)).corrected ++ data
        else data ++ (s.memWord (journalBase i + (if low then 3 else 2) + 1)).corrected) =
        (if low then (s.memWord (journalBase i + 2)).corrected ++ data
          else data ++ (s.memWord (journalBase i + 3)).corrected) := by
      cases low <;> simp
    dsimp only
    rw [hlow, hserial]
    exact ⟨rfl, s.memWrite_memWord_same _ data, fun b hb => s.memWrite_memWord_ne hb data⟩
  · have haddr : (BitVec.ofNat 13 (0x1800 + 16 * i.val + w)).toNat = journalBase i + w := by
      have := i.isLt
      rw [BitVec.toNat_ofNat, journalBase_eq]
      omega
    show Host.Outcome.next (s.hostWrite (BitVec.ofNat 13 (0x1800 + 16 * i.val + w)).toNat data) = _
    rw [haddr, State.hostWrite_of_not_host (State.portClosed_of_open hp)
      (by rw [ownerOf_journal hw h2 h3]; nofun)]
    rfl

/-- Settles O11, register by register. -/
theorem registerWritesActAsTheTableSays : Obligations.RegisterWritesActAsTheTableSays := by
  refine ⟨fun data s hp => ⟨?_, ?_⟩, fun data s hp => ⟨fun r hr => ?_, fun hr => ?_⟩,
    fun reg data s hp h3 h4 h5 h2 => ?_, fun s hp => ?_⟩
  · show Host.Outcome.next (s.registerWrite (s.clearAttention data)) = _
    rw [State.registerWrite_of_open (State.portClosed_of_open hp)]
    simp [State.clearAttention, State.modAttention, State.answerPort]
  · show Host.Outcome.next (s.registerWrite (s.writeMask data)) = _
    rw [State.registerWrite_of_open (State.portClosed_of_open hp)]
    have hmask : data.setWidth 6 = data.extractLsb' 0 6 := by
      apply BitVec.eq_of_getLsbD_eq
      intro k hk
      simp [hk]
    unfold State.writeMask
    rw [hmask]
    rfl
  · show Host.Outcome.next (s.registerWrite (s.takePrompt data)) = _
    rw [State.registerWrite_of_open (State.portClosed_of_open hp), State.takePrompt, ← hr, recordOf_number]
    simp only [show Config.promptQueueSize = 8 from rfl]
    split_ifs <;> rfl
  · have hnone : recordOf data.toNat = none := by
      cases h : recordOf data.toNat with
      | none => rfl
      | some r => exact absurd (number_of_recordOf h) (hr r)
    show Host.Outcome.next (s.registerWrite (s.takePrompt data)) = _
    rw [State.registerWrite_of_open (State.portClosed_of_open hp), State.takePrompt, hnone]
    rfl
  · show Host.Outcome.next (if reg = 2 ∧ data.getLsbD 0 = true then s.writeRestart
      else s.writeRegister reg data) = _
    rw [if_neg h2]
    unfold State.writeRegister
    split
    · have hbit : data.getLsbD 0 = false := by simpa using h2
      rw [State.registerWrite_of_open (State.portClosed_of_open hp), hbit]
      rfl
    · exact absurd rfl h3
    · exact absurd rfl h4
    · exact absurd rfl h5
    · next hne _ _ _ => simp [show reg ≠ 2 from hne, State.answerPort]
  · show Host.Outcome.next (s.registerWrite (if s.ready then s.beginRestart else s)) = _
    rw [State.registerWrite_of_open (State.portClosed_of_open (.inr hp))]
    simp [State.ready, hp, State.answerPort]

/-- Settles O8, read by read and bit by bit. -/
theorem hostReadsAnswer : Obligations.HostReadsAnswer := by
  refine ⟨fun addr s hp => ?_, fun s hp => ⟨fun addr => ?_, fun c hc => ?_⟩, fun addr s => ?_, fun s =>
    ⟨?_, ?_, s.attentionWord_bit 2, s.attentionWord_bit 3, s.attentionWord_bit 4, s.attentionWord_bit 5,
      fun k hk => ?_, s.interrupt_iff⟩⟩
  · show Host.Outcome.next (s.hostRead addr.toNat) = _
    split
    · next ho => rw [State.hostRead, State.portClosed_of_open hp, ho]; rfl
    · next ho =>
      rw [State.hostRead_of_owned (State.portClosed_of_open hp) ho]
      rcases (s.memWord addr.toNat).errors with _ | ⟨b, _ | ⟨c, l⟩⟩ <;> rfl
  · show Host.Outcome.next (s.hostRead addr.toNat) = _
    rw [State.hostRead, State.portClosed_of_closed hp]
    rfl
  · have hclosed := State.portClosed_of_closed hp
    obtain ⟨addr, data, rfl⟩ | ⟨i, low, data, rfl⟩ | ⟨addr, data, rfl⟩ | rfl | ⟨data, rfl⟩ | ⟨data, rfl⟩ |
      ⟨data, rfl⟩ | ⟨reg, data, rfl⟩ := hc
    · exact congrArg _ (s.hostWrite_of_closed hclosed _ _)
    · exact congrArg _ (s.hostWrite_of_closed hclosed _ _)
    · exact congrArg _ (s.hostWrite_of_closed hclosed _ _)
    · exact congrArg _ (s.registerWrite_of_closed hclosed _)
    · exact congrArg _ (s.writeRegister_of_closed hclosed 3 data)
    · exact congrArg _ (s.writeRegister_of_closed hclosed 4 data)
    · exact congrArg _ (s.writeRegister_of_closed hclosed 5 data)
    · show Host.Outcome.next (if reg = 2 ∧ data.getLsbD 0 = true then s.writeRestart
        else s.writeRegister reg data) = _
      rw [s.writeRegister_of_closed hclosed reg data, show s.writeRestart = _ from
        s.registerWrite_of_closed hclosed _, ite_self]
      rfl
  · suffices h : ∀ k : Fin 8, s.registerRead k = match k.val with
        | 0 => 0x2480
        | 1 => 0x0001
        | 3 => if s.phase = .ready ∨ s.phase = .restarting then s.attentionWord else 0
        | 4 => if s.phase = .ready ∨ s.phase = .restarting then s.mask.setWidth 16 else 0
        | _ => 0 from
      congrArg (fun x => Host.Outcome.next (s.answerPort (.readDone x false)))
        (h (Fin.ofNat 8 addr.toNat))
    rintro ⟨k, hk⟩
    interval_cases k
    iterate 3 rfl
    iterate 2
      cases hp : s.phase <;> simp [State.registerRead, State.portClosed, hp]
    iterate 3 rfl
  · rw [s.attentionWord_bit 0]
    simp [State.ready]
  · rw [s.attentionWord_bit 1]
    exact s.journalBit_iff
  · rw [s.attentionWord_bit k]
    rcases k with _ | _ | _ | _ | _ | _ | k <;> first | omega | rfl

end Sys2Proof.Proofs
end

section
/-!
PROOFS. Commands out of place.
-/
namespace Sys2Proof.Machine

/-- What is taken only under a condition does nothing where it fails (assumption 4). -/
theorem next_ite_of_not {c : Prop} [Decidable c] {s t : State} (h : ¬c) :
    (Host.Outcome.next (if c then t else s) : Host.Outcome State Fault Refusal) = .next s := by
  rw [if_neg h]

theorem State.whenReady_of_ne {s : State} (h : s.phase ≠ .ready) (t : State) :
    s.whenReady t = .next s := next_ite_of_not (by simp [State.ready, h])

theorem State.outOfReset_of_eq {s : State} (h : s.phase = .inReset) : s.outOfReset = false := by
  simp [State.outOfReset, h]

/-- A spare action in a state of spare control that does not take it does nothing (R124 to R126). -/
theorem State.takeSwap_of_ne {s : State} (h : s.spare.state ≠ .standby) (k : Fin 8) :
    s.takeSwap k = s := by
  unfold State.takeSwap
  cases hs : s.spare.state <;> simp_all

theorem State.takeReturn_of_ne {s : State} (h : ∀ k, s.spare.state ≠ .spared k) : s.takeReturn = s := by
  unfold State.takeReturn
  cases hs : s.spare.state <;> simp_all

theorem State.takeCancel_of_none {s : State} (h : s.spare.state.operating = none) :
    s.takeCancel = s := by
  unfold State.takeCancel
  cases hs : s.spare.state <;> simp_all [SpareState.operating]

end Sys2Proof.Machine

namespace Sys2Proof.Proofs

open Sys2Proof.Machine

/-- Settles O56, condition by condition: each command's own guard is what fails. -/
theorem commandsOutOfPlaceDoNothing : Obligations.CommandsOutOfPlaceDoNothing := by
  intro c s h
  have hidle : ∀ {t u : State}, t = u → (Host.Outcome.next t : Host.Outcome State Fault Refusal) = .next u :=
    congrArg _
  have hready : ∀ {t : State}, t = s → s.whenReady t = .next s := fun h => hidle (by simp [h])
  rcases h with ⟨hp, x, rfl⟩ | ⟨hp, rfl⟩ | ⟨hp, rfl⟩ | ⟨hp, h⟩ | ⟨x, rfl, hx⟩ | ⟨x, g, rfl, hx⟩ |
    ⟨n, rfl, hn⟩ | ⟨n, rfl, hn⟩ | ⟨n, o, h, hn⟩ | ⟨hs, k, rfl⟩ | ⟨hs, rfl⟩ | ⟨hs, rfl⟩ | ⟨hp, rfl⟩ |
    ⟨hp, rfl⟩ | ⟨hp, h⟩
  · exact next_ite_of_not hp
  · exact next_ite_of_not hp
  · exact next_ite_of_not hp
  · have hr := State.outOfReset_of_eq hp
    rcases h with rfl | ⟨x, g, rfl⟩ | ⟨x, rfl⟩ | ⟨x, k, rfl⟩ | rfl | rfl | ⟨n, rfl⟩ | ⟨n, rfl⟩ |
      ⟨n, o, rfl⟩ | ⟨n, o, rfl⟩ | ⟨n, o, rfl⟩ | ⟨n, p, g, rfl⟩ | ⟨n, b, rfl⟩ | ⟨x, b, rfl⟩
    all_goals exact next_ite_of_not (by simp [State.framerIn, hr])
  · exact next_ite_of_not (by simp [Config.silenceLimit, Nat.not_lt.mpr hx])
  · exact next_ite_of_not (by simp [hx])
  · refine hidle ?_
    rcases hn with hn | hn <;> simp [hn]
  · exact next_ite_of_not (by simp [hn])
  · rcases h with rfl | rfl | rfl <;> exact next_ite_of_not (by simp [State.framerIn, hn])
  · exact hready (State.takeSwap_of_ne hs k)
  · exact hready (State.takeReturn_of_ne hs)
  · exact hready (State.takeCancel_of_none hs)
  · exact next_ite_of_not (by simp [Nat.not_lt.mpr hp])
  · exact next_ite_of_not (by simp [Nat.not_le.mpr hp])
  · have hne := State.whenReady_of_ne hp
    rcases h with rfl | ⟨n, q, rfl⟩ | ⟨n, rfl | rfl | rfl | rfl | rfl | rfl⟩ | ⟨q, rfl⟩ | rfl | rfl | rfl |
      ⟨q, rfl⟩ | rfl | ⟨k, rfl⟩ | rfl | rfl | ⟨i, q, rfl⟩ | ⟨i, rfl | rfl⟩ | ⟨q, rfl⟩ | rfl | rfl | rfl
    · have hr : s.ready = false := by simp [State.ready, hp]
      refine hidle ?_
      rw [State.patrolStep, State.dueStep, hr]
      exact (s.patrolTurn_of_not_ready hr []).trans (s.serveAlone_nil 0)
    all_goals exact hne _

end Sys2Proof.Proofs
end

section
/-!
SUPPORT. The moves of a line between its states, and the parts of a line request, each as the state it leaves.
-/
namespace Sys2Proof.Machine

/-! ## The window of a line that is moved -/

/-- Staged items put in force, by what is staged (R68). -/
theorem Window.adopt_match (w : Window) : w.adopt = match w.staged with
    | some x => { w with length := x.1, mode := x.2, staged := none }
    | none => w := by
  unfold Window.adopt
  cases w.staged <;> rfl

theorem Window.abandon_eq (w : Window) : w.abandon =
    if w.counting then { w.adopt with counting := false, counter := 0, accumulation := {} } else w := by
  cases hs : w.staged <;> simp [Window.abandon, Window.adopt, hs]

/-- The staged items of an abandoned window are in force already (R69, R71). -/
theorem Window.stop_eq (w : Window) : w.stop =
    if w.counting then { w.abandon with startPending := false }
    else { w.adopt with startPending := false } := by
  cases hc : w.counting <;> cases hs : w.staged <;> simp [Window.stop, Window.abandon, Window.adopt, hc, hs]

theorem Window.causeStart_eq (w : Window) : w.causeStart =
    if w.counting then
      { w.adopt with counting := false, counter := 0, accumulation := {}, startPending := true }
    else { w with startPending := true } := by
  unfold Window.causeStart
  rw [w.abandon_eq]
  split <;> rfl

/-! ## Changes of state -/

variable (s : State) (n : LineNo)

/-- A line given new items and then a new state, which is another one (R16). -/
theorem State.modLine_changeLine (f : Line → Line) {new : LineState} (cause : LineCause)
    (hf : (f (s.line n)).state = (s.line n).state) (hnew : (s.line n).state ≠ new) :
    (s.modLine n f).changeLine n new cause =
      (s.setLine n { f (s.line n) with state := new, lastCause := cause }).post .lineState (16 + n.val)
        [word (s.line n).state.code, word new.code, word cause.code] := by
  rw [State.changeLine_eq, State.modLine_line_same, Line.changed, hf, if_neg hnew, State.modLine,
    State.setLine_setLine]

theorem State.enterDead_eq (h : (s.line n).state ≠ .dead) : s.enterDead n =
    ((s.setLine n { s.line n with
      state := .dead, lastCause := .dead, deadCount := 8
      framer := { state := .hunt, held := true }, ring := { (s.line n).ring with held := 0 } }).post
        .lineState (16 + n.val) [word (s.line n).state.code, 4, 10]).coverLine n := by
  unfold State.enterDead
  dsimp only
  rw [s.modLine_changeLine n _ _ rfl h]
  rfl

theorem State.leaveService_eq (h : (s.line n).state ≠ .out) : s.leaveService n =
    ((s.setLine n { s.line n with
      state := .out, lastCause := .serviceOut, deadCount := 0
      framer := { state := .hunt, held := true }, ring := { (s.line n).ring with held := 0 }
      window := (s.line n).window.stop }).post .lineState (16 + n.val)
        [word (s.line n).state.code, 0, 2]).coverLine n := by
  unfold State.leaveService
  dsimp only
  rw [if_pos ((LineState.inService_iff _).mpr h), s.modLine_changeLine n _ _ rfl h]
  rfl

theorem State.enterService_eq (h : (s.line n).state = .out) : s.enterService n =
    (s.setLine n { s.line n with
      state := .hunting, lastCause := .serviceIn, deadCount := 0
      framer := { state := .hunt, held := false }, window := (s.line n).window.causeStart }).post
        .lineState (16 + n.val) [0, 1, 1] := by
  unfold State.enterService
  rw [if_neg (fun hin => (LineState.inService_iff _).mp hin h),
    s.modLine_changeLine n _ _ rfl (by rw [h]; nofun), h]
  rfl

theorem State.restartLine_of_hunting (h : (s.line n).state = .hunting) :
    s.restartLine n = s.setFramer n (huntingFramer false) := by
  unfold State.restartLine
  rw [h]

theorem State.restartLine_of_out (h : (s.line n).state = .out) : s.restartLine n = s := by
  unfold State.restartLine
  rw [h]

theorem State.restartLine_eq
    (h : (s.line n).state = .filling ∨ (s.line n).state = .running ∨ (s.line n).state = .dead) :
    s.restartLine n = (s.setLine n { s.line n with
      state := .hunting, lastCause := .restartLine, deadCount := 0
      framer := { state := .hunt, held := false }, ring := { (s.line n).ring with held := 0 } }).post
        .lineState (16 + n.val) [word (s.line n).state.code, 1, 12] := by
  have hne : (s.line n).state ≠ .hunting := by rcases h with h | h | h <;> rw [h] <;> nofun
  have hmoved : s.restartLine n = (s.modLine n fun l => { l with
      deadCount := 0, framer := huntingFramer false
      ring := { l.ring with held := 0 } }).changeLine n .hunting .restartLine := by
    unfold State.restartLine
    rcases h with h | h | h <;> rw [h]
  rw [hmoved, s.modLine_changeLine n _ _ rfl hne]
  rfl

/-! ## The settings of a line request -/

/-- The coverage of a line moved to a bank, bank by bank and mark by mark (R121). -/
theorem movedCoverage_eq (k new : Fin 8) (state : LineState) (c : Coverage) :
    movedCoverage k new state c = if new ≠ k then { c with mark := .notConcerned }
      else match c.mark with
        | .notConcerned => if state = .hunting then { mark := .pending, count := 0 }
          else { c with mark := .covered }
        | .pending => if state = .hunting then { mark := .pending, count := 0 } else c
        | .covered => c := by
  unfold movedCoverage
  rw [ite_not]
  split
  · cases c.mark <;> cases state <;> rfl
  · rfl

/-- What is done in FILLING and RUNNING alone. -/
theorem match_serving {α : Type} (x : LineState) (a b : α) :
    (match x with
      | .filling | .running => a
      | .out | .hunting | .dead => b) = if x = .filling ∨ x = .running then a else b := by
  cases x <;> simp

/-- The coverage of line n at a move of its placement, by the state of spare control (R121). -/
theorem State.moveCoverage_eq : s.moveCoverage n = match s.spare.state with
    | .standby | .spared _ => s
    | .mirror k | .restore k => s.setCover n
        (movedCoverage k (s.line n).placement.bank (s.line n).state (s.cover n)) := by
  unfold State.moveCoverage
  cases s.spare.state <;> rfl

/-! ## The parts of a line request -/

/-- What a command of its own comes to while READY is 1 (R156). -/
theorem State.eq_of_whenReady {s t u : State} (h : s.phase = .ready) (he : s.whenReady t = .next u) :
    u = t := by
  rw [s.whenReady_of_ready h] at he
  cases he
  rfl

theorem State.applyService_quiet (q : LineRequest) : s.Quiet (s.applyService n q) :=
  .ite _ (s.leaveService_quiet n) (.ite _ (s.restartLine_quiet n) (.refl s))

theorem State.applyEntry_quiet (q : LineRequest) : s.Quiet (s.applyEntry n q) :=
  have hplaced := (s.applyService_quiet n q).trans (State.applyLineSettings_quiet _ n q.settings)
  .ite _ (hplaced.trans (State.enterService_quiet _ n)) hplaced

end Sys2Proof.Machine
end

section
/-!
PROOFS. The moves of a line between its states.
-/
namespace Sys2Proof.Proofs

open Sys2Proof.Machine

/-- Settles O25, of a line in service that is not DEAD. -/
theorem deadLineIsEmptiedAndHeld : Obligations.DeadLineIsEmptiedAndHeld := by
  intro n s hp l hl
  have hne : (s.line n).state ≠ .dead := by
    rcases hl with h | h | h <;> rw [show (s.line n).state = _ from h] <;> nofun
  refine Eq.trans ?_ (congrArg Host.Outcome.next (s.enterDead_eq n hne))
  show Host.Outcome.next (if s.outOfReset then
      match (s.line n).state with
      | .hunting | .filling | .running => s.enterDead n
      | .out | .dead => s
    else s) = _
  rw [if_pos (s.outOfReset_of_ne hp)]
  rcases hl with h | h | h <;> rw [show (s.line n).state = _ from h]

/-- Settles O46, state by state. -/
theorem serviceAndRestartMoveTheLine : Obligations.ServiceAndRestartMoveTheLine := by
  intro n s hp l w unstaged abandoned stopped fresh
  have hready := s.whenReady_of_ready hp
  have hadopt : w.adopt = unstaged := w.adopt_match
  have habandoned : (if w.counting then
      { w.adopt with counting := false, counter := 0, accumulation := {} } else w) = abandoned := by
    rw [hadopt]
  have hcause : w.causeStart = { abandoned with startPending := true } := by
    rw [Window.causeStart, w.abandon_eq, habandoned]
  have hstop : w.stop = stopped := by
    rw [w.stop_eq, w.abandon_eq, habandoned, hadopt]
  refine ⟨fun hl hover => ?_, fun h => ?_, fun hl => ?_, fun hl => ⟨?_, ?_⟩, fun hl => ?_, fun hl => ?_⟩
  · refine (hready _).trans (congrArg _ ?_)
    rw [if_pos (Option.isNone_iff_eq_none.mpr hover), s.enterService_eq n hl, ← hcause]
  · refine (hready _).trans (congrArg _ ?_)
    rcases h with h | h
    · split
      · exact if_pos ((LineState.inService_iff _).mpr h)
      · rfl
    · rw [if_neg (mt Option.isNone_iff_eq_none.mp h)]
  · refine (hready _).trans (congrArg _ ?_)
    rw [s.leaveService_eq n hl, ← hstop]
  · exact (hready _).trans (congrArg _ (if_neg fun hin => (LineState.inService_iff _).mp hin hl))
  · exact (hready _).trans (congrArg _ (s.restartLine_of_out n hl))
  · exact (hready _).trans (congrArg _ (s.restartLine_of_hunting n hl))
  · exact (hready _).trans (congrArg _ (s.restartLine_eq n hl))

/-- Settles O45: the settings on the line, then the structural change in its parts, then the window. -/
theorem lineSettingsComeIntoForce : Obligations.LineSettingsComeIntoForce := by
  intro s n v l w unstaged started set placed c moved covered changed put
  have hset : (s.modLine n fun l => { l with
      confirmCount := v.confirmCount, lossCount := v.lossCount, idleCode := v.idleCode
      reader := { l.reader with staged := some v.thresholds } }) = s.setLine n set := rfl
  have hput : ∀ t : State, (t.modLine n fun l =>
      { l with
        window := l.window.settings v.windowLength v.windowMode v.reportWindows v.horizonLimit }) =
      put t := fun t => rfl
  unfold State.applyLineSettings
  dsimp only
  rw [hset, hput]
  by_cases hp : v.placement = l.placement
  · rw [if_pos hp, if_pos hp]
  · rw [if_neg hp, if_neg hp]
    have hcause : w.causeStart = started := by
      rw [w.causeStart_eq, w.adopt_match] <;> rfl
    have hstarted : (if l.state.inService then w.causeStart else w) =
        if l.state = .out then w else started := by
      rw [hcause]
      cases l.state <;> rfl
    have hplaced : ((s.setLine n set).modLine n fun l => { l with
        placement := v.placement
        window := if l.state.inService then l.window.causeStart else l.window }) = placed := by
      rw [State.modLine, State.setLine_line_same, State.setLine_setLine]
      exact congrArg (fun x => s.setLine n { set with placement := v.placement, window := x }) hstarted
    have hmoved : ∀ k, movedCoverage k (placed.line n).placement.bank (placed.line n).state
        (placed.cover n) = moved k := fun k => by
      rw [movedCoverage_eq, State.setLine_line_same]
      rfl
    have hcovered : placed.moveCoverage n = covered := by
      rw [State.moveCoverage_eq]
      show (match s.spare.state with
        | .standby | .spared _ => placed
        | .mirror k | .restore k => placed.setCover n _) = covered
      cases hspare : s.spare.state <;> simp only [hmoved, covered, hspare]
    have hstate : ((s.setLine n set).line n).state = l.state := by rw [State.setLine_line_same]
    have hchanged : (s.setLine n set).changePlacement n v.placement = changed := by
      unfold State.changePlacement
      dsimp only
      rw [hplaced, hcovered, hstate]
      exact congrArg State.settleSpare (match_serving l.state _ _)
    rw [hchanged]

/-- Settles O44: the request's parts are the commands' own, each taken with READY at 1. -/
theorem lineRequestPartsAreAppliedInOrder : Obligations.LineRequestPartsAreAppliedInOrder := by
  intro n q s s1 s3 s4 s5 s6 hp h1 s2 hover h3 h4 harm h5 h6
  have e1 : s1 = s.applyService n q := by
    unfold State.applyService LineRequest.isOut LineRequest.hasRestart
    simp only [beq_iff_eq]
    split_ifs at h1 ⊢
    · exact State.eq_of_whenReady hp h1
    · exact State.eq_of_whenReady hp h1
    · exact h1
  have hp2 : s2.phase = .ready := by
    rw [((s1.applyLineSettings_quiet n q.settings)).phase, e1, (s.applyService_quiet n q).phase, hp]
  have e3 : s3 = s.applyEntry n q := by
    unfold State.applyEntry LineRequest.isIn
    dsimp only
    simp only [beq_iff_eq]
    rw [← e1]
    split_ifs at h3 ⊢ with hin
    · rw [State.eq_of_whenReady hp2 h3, if_pos (Option.isNone_iff_eq_none.mpr (hover hin))]
    · exact h3
  have hp3 : s3.phase = .ready := by rw [e3, (s.applyEntry_quiet n q).phase, hp]
  have e4 : s4 = if q.hasRecentre then s3.pendRecentre n else s3 := by
    unfold LineRequest.hasRecentre
    split_ifs at h4 ⊢
    · exact State.eq_of_whenReady hp3 h4
    · exact h4
  have hp4 : s4.phase = .ready := by rw [e4]; split_ifs <;> exact hp3
  have e5 : s5 = if q.hasArm then s4.armWindow n else s4 := by
    unfold LineRequest.hasArm
    split_ifs at h5 ⊢ with ha
    · rw [State.eq_of_whenReady hp4 h5, if_pos ((LineState.inService_iff _).mpr (harm ha))]
    · exact h5
  have hp5 : s5.phase = .ready := by rw [e5]; split_ifs <;> exact hp4
  rw [State.applyLine_eq]
  dsimp only
  rw [← e3, ← e4, ← e5]
  unfold LineRequest.hasClear
  split_ifs at h6 ⊢
  · exact (State.eq_of_whenReady hp5 h6).symm
  · exact h6.symm

end Sys2Proof.Proofs
end

section
/-!
SUPPORT. Starts of spare control as the state they leave, and the answer to an accepted request.
-/
namespace Sys2Proof.Machine

variable (s : State)

/-- An operation that completes at its start leaves spare control as the start does but for the state, the
marks and the cause (R122). -/
theorem State.putSpare_putSpare (new next : SpareState) (marks after : LineNo → Mark)
    (cause then_ : SpareCause) (detail last : List Word) :
    (s.putSpare new marks cause detail).putSpare next after then_ last =
      ({ s.putSpare new marks cause detail with spare := { s.spare with
        state := next, lastCause := then_
        coverage := Vector.ofFn fun n => { mark := after n } } } : State).post .sparePhase 2 last := by
  unfold State.putSpare
  rw [State.post_spare]

theorem State.takeSwap_of_standby (h : s.spare.state = .standby) (k : Fin 8) :
    s.takeSwap k = s.startSpare (.mirror k) .swap k := by
  unfold State.takeSwap
  rw [h]

theorem State.takeCancel_of_restore {k : Fin 8} (h : s.spare.state = .restore k) :
    s.takeCancel = s.enterSpare (.spared k) .cancel k := by
  unfold State.takeCancel
  rw [h]

/-- Whether a spare action in the list suits the state of spare control (R123 to R126). -/
theorem SpareState.refuses_eq (x : SpareState) (action : Word) (h : action.toNat ≤ 3) :
    x.refuses action.toNat =
      if (match action.toNat, x with
        | 1, .standby => true
        | 2, .spared _ => true
        | 3, .mirror _ => true
        | 3, .restore _ => true
        | 0, _ => true
        | _, _ => false) = false then
        some (if action = 3 then .nothingToCancel else .spareBusy)
      else none := by
  have hlist : action = 0 ∨ action = 1 ∨ action = 2 ∨ action = 3 := by
    have hvalue : action = BitVec.ofNat 16 action.toNat := by simp
    generalize action.toNat = a at h hvalue
    interval_cases a <;> simp [hvalue]
  rcases hlist with rfl | rfl | rfl | rfl <;> cases x <;> rfl

/-- The answer to an accepted request whose acceptance leaves the common heads alone (R159). -/
theorem State.answerRequest_accepted (r : Record) (serial mask : Word) {accepted : State}
    (h : accepted.head r = s.head r) :
    s.answerRequest r serial (.accepted mask) accepted = accepted.setHead r { s.head r with
      appser := serial, actser := serial
      result := if mask = 0 then .accepted else .acceptedClamped
      reason := .none, detail := mask } := by
  unfold State.answerRequest
  dsimp only
  rw [h]
  rfl

end Sys2Proof.Machine
end

section
/-!
PROOFS. Spare actions and store requests.
-/
namespace Sys2Proof.Proofs

open Sys2Proof.Machine

/-- Settles O49: each start by whether a line of the bank is outstanding, and the request by its checks. -/
theorem spareActionsAndStoreRequests : Obligations.SpareActionsAndStoreRequests := by
  refine ⟨fun s k hp => ?_, fun q s s1 s2 hp => ?_⟩
  · intro x cleared marks outstanding entered
    have hready := s.whenReady_of_ready hp
    have hmarks : marks = Vector.ofFn fun n : LineNo => { mark := startMark k (s.line n) } := by
      simp only [startMark_eq_of_out]
      rfl
    have hcleared : cleared = Vector.ofFn fun _ : LineNo => { mark := .notConcerned } := clearedCoverage_eq
    have hstart : ∀ (old new : SpareState) (cause : SpareCause), x.state = old →
        new.operating = some k → s.startSpare new cause k = if outstanding then entered old new marks s cause
          else entered new new.completed cleared (entered old new marks s cause) .complete := by
      intro old new cause hold hnew
      rw [s.startSpare_eq hnew]
      dsimp only
      rw [State.putSpare_putSpare, show s.spare.state = old from hold]
      simp only [entered, hmarks, hcleared]
      rfl
    refine ⟨hready _, fun hx => ⟨fun ho => ?_, fun ho => ?_⟩, fun hx => ⟨fun ho => ?_, fun ho => ?_⟩,
      fun hx => ?_, fun hx => ?_⟩
    · refine (hready _).trans (congrArg _ ?_)
      rw [s.takeSwap_of_standby hx, hstart _ _ _ hx rfl, if_pos ho]
    · refine (hready _).trans (congrArg _ ?_)
      rw [s.takeSwap_of_standby hx, hstart _ _ _ hx rfl, if_neg ho]
      rfl
    · refine (hready _).trans (congrArg _ ?_)
      rw [s.takeReturn_of_spared hx, hstart _ _ _ hx rfl, if_pos ho]
    · refine (hready _).trans (congrArg _ ?_)
      rw [s.takeReturn_of_spared hx, hstart _ _ _ hx rfl, if_neg ho]
      rfl
    · refine (hready _).trans (congrArg _ ?_)
      rw [s.takeCancel_of_mirror hx, s.enterSpare_of_none rfl, show s.spare.state = _ from hx]
      simp only [entered, hcleared]
      rfl
    · refine (hready _).trans (congrArg _ ?_)
      rw [s.takeCancel_of_restore hx, s.enterSpare_of_none rfl, show s.spare.state = _ from hx]
      simp only [entered, hcleared]
      rfl
  · intro h refused limit limited h1 h2 suits
    have hready : ∀ {t : State}, t.phase = .ready → ∀ {a b : State}, t.whenReady a = .next b → b = a :=
      fun h _ _ => State.eq_of_whenReady h
    have hlimited : s.modSpare (fun x => { x with autoLimit := q.limit }) = limited := by
      rw [q.limit_eq]
      rfl
    have e1 : s1 = if q.clearBankCounts = 1 then limited.clearBankCounts else limited := by
      split_ifs at h1 ⊢
      · exact hready (t := limited) hp h1
      · exact h1
    have hp1 : s1.phase = .ready := by rw [e1]; split_ifs <;> exact hp
    have e2 : s.applyStore q = s2 := by
      unfold State.applyStore
      dsimp only
      rw [hlimited, ← e1]
      split_ifs at h2 ⊢
      · exact (hready hp1 h2).symm
      · exact (hready hp1 h2).symm
      · exact (hready hp1 h2).symm
      · exact h2.symm
    have hmask : movedMask [(4, q.limit != q.autoLimit.toNat)] =
        if q.autoLimit.toNat ≤ 255 then 0 else 16 := by
      rw [q.limit_eq]
      split_ifs with hle
      · rw [Nat.min_eq_right hle, bne_self_eq_false]
        rfl
      · rw [Nat.min_eq_left (by omega), show (255 != q.autoLimit.toNat) = true by simp; omega]
        rfl
    refine (s.whenReady_of_ready hp _).trans (congrArg _ ?_)
    rw [State.takeStoreRequest, State.checkStore_eq]
    by_cases haction : 3 < q.spareAction.toNat
    · rw [if_pos haction, if_pos haction]
      exact s.answerRequest_refused _ _ _ _ _
    rw [if_neg haction, if_neg haction]
    by_cases hclear : 1 < q.clearBankCounts.toNat
    · rw [if_pos hclear, if_pos hclear]
      exact s.answerRequest_refused _ _ _ _ _
    rw [if_neg hclear, if_neg hclear]
    by_cases hbank : q.spareAction = 1 ∧ 7 < q.swapBank.toNat
    · rw [if_pos hbank, if_pos hbank]
      exact s.answerRequest_refused _ _ _ _ _
    have hrefuses : s.spare.state.refuses q.spareAction.toNat = if suits = false then
        some (if q.spareAction = 3 then .nothingToCancel else .spareBusy) else none :=
      SpareState.refuses_eq _ _ (Nat.not_lt.mp haction)
    rw [if_neg hbank, if_neg hbank, hrefuses]
    by_cases hsuits : suits = false
    · rw [if_pos hsuits, if_pos hsuits]
      exact s.answerRequest_refused _ _ _ _ _
    · rw [if_neg hsuits, if_neg hsuits, hmask]
      rw [s.answerRequest_accepted _ _ _ (s.applyStore_head q _), e2]
      by_cases hle : q.autoLimit.toNat ≤ 255
      · simp only [if_pos hle]
        rfl
      · simp only [if_neg hle]
        rfl

end Sys2Proof.Proofs
end

section
/-!
SUPPORT. A line request: its clamped fields, the mask of the words moved, and its checks in order.
-/
namespace Sys2Proof.Machine

/-- The bits of the mask of a line request, word by word (R9, R42, R67, R159). -/
theorem movedMask_line_bit (a b c d e f : Bool) (i : Nat) :
    (movedMask [(2, a), (3, b), (9, c), (10, d), (12, e), (15, f)]).getLsbD i = true ↔
      i = 2 ∧ a = true ∨ i = 3 ∧ b = true ∨ i = 9 ∧ c = true ∨ i = 10 ∧ d = true ∨
        i = 12 ∧ e = true ∨ i = 15 ∧ f = true := by
  by_cases hi : i < 16
  · have hbits : ∀ a b c d e f : Bool, ∀ i : Fin 16,
        (movedMask [(2, a), (3, b), (9, c), (10, d), (12, e), (15, f)]).getLsbD i =
          ((i == 2 && a) || (i == 3 && b) || (i == 9 && c) || (i == 10 && d) || (i == 12 && e) ||
            (i == 15 && f)) := by decide
    have := hbits a b c d e f ⟨i, hi⟩
    simp_all [Fin.ext_iff, or_assoc]
  · rw [BitVec.getLsbD_of_ge _ _ (Nat.le_of_not_lt hi)]
    simp
    omega

section
variable {q : LineRequest}

/-- The capacity a slip unit takes (R26). -/
theorem LineRequest.capacityLegal_iff : q.capacityLegal = true ↔
    ¬(q.capacity.toNat < (if q.slipUnit = 1 then 12 else 4) ∨ 32 < q.capacity.toNat) := by
  unfold LineRequest.capacityLegal
  split_ifs <;> simp

theorem LineRequest.placement_u : q.placement.u = if q.slipUnit = 1 then 4 else 1 := by
  show (if q.slipUnit = 1 then SlipUnit.group else .frame).slots = _
  split <;> rfl

/-- The thresholds of a request, automatic or moved into their ranges (R41, R42). -/
theorem LineRequest.thresholds_eq (h : q.capacityLegal = true) {u k : Nat}
    (hu : u = if q.slipUnit = 1 then 4 else 1) (hk : k = 320 * (q.capacity.toNat - u)) :
    q.settings.thresholds.tLow = (if q.tLow = 0 then 320
      else max 320 (min (k - 160 - 320 * u) q.tLow.toNat)) ∧
    q.settings.thresholds.tHigh = (if q.tHigh = 0 then k - 160
      else max (q.settings.thresholds.tLow + 320 * u) (min (k - 160) q.tHigh.toNat)) ∧
    320 ≤ q.settings.thresholds.tLow ∧
    q.settings.thresholds.tLow + 320 * u ≤ q.settings.thresholds.tHigh ∧
    q.settings.thresholds.tHigh ≤ k - 160 := by
  have hpu : q.placement.u = u := q.placement_u.trans hu.symm
  have husable : q.placement.usable = k := by
    rw [hk, ← hpu]
    rfl
  have hzero : ∀ x : Word, x.toNat = 0 ↔ x = 0 := fun x => by rw [← BitVec.toNat_inj]; rfl
  have hfit : 320 ≤ q.settings.thresholds.tLow ∧
      q.settings.thresholds.tLow + 320 * u ≤ q.settings.thresholds.tHigh ∧
      q.settings.thresholds.tHigh + 160 ≤ k := by
    rw [← husable, ← hpu]
    exact q.settings_fit h
  have hlowEq : q.settings.thresholds.tLow = lowThreshold q.placement q.tLow.toNat := rfl
  have hhighEq : q.settings.thresholds.tHigh =
    highThreshold q.placement q.settings.thresholds.tLow q.tHigh.toNat := rfl
  refine ⟨?_, ?_, hfit.1, hfit.2.1, by omega⟩
  · rw [hlowEq, lowThreshold, husable, hpu, clamp_eq (by omega)]
    simp only [hzero]
  · rw [hhighEq, highThreshold, husable, hpu, clamp_eq (by omega)]
    simp only [hzero]

end

/-- The ring of a request in a working bank and another line's share a slot where their runs overlap (R27). -/
theorem State.overlapping_eq (s : State) (n : LineNo) {q : LineRequest} (hb : q.bank.toNat ≤ 7) :
    s.overlapping n q.placement = (List.finRange 64).find? fun m => m ≠ n ∧ (s.line m).state ≠ .out ∧
      (s.line m).placement.bank.val = q.bank.toNat ∧
      q.base.toNat < (s.line m).placement.base + (s.line m).placement.capacity ∧
      (s.line m).placement.base < q.base.toNat + q.capacity.toNat := by
  unfold State.overlapping
  refine congrArg (List.find? · _) (funext fun m => ?_)
  have hbank : (Fin.ofNat 8 q.bank.toNat = (s.line m).placement.bank) ↔
      (s.line m).placement.bank.val = q.bank.toNat := by
    rw [Fin.ext_iff, Fin.val_ofNat, Nat.mod_eq_of_lt (by omega)]
    exact eq_comm
  have hin : (s.line m).state.inService = true ↔ (s.line m).state ≠ .out := LineState.inService_iff _
  rw [Bool.eq_iff_iff]
  simp only [Placement.shares, Bool.and_eq_true, bne_iff_ne, beq_iff_eq, decide_eq_true_eq, hin, and_assoc]
  exact and_congr_right fun _ => and_congr_right fun _ => and_congr hbank Iff.rfl

/-- The checks of a line request in their order (R26, R27, R159). -/
theorem State.checkLine_eq (s : State) (n : LineNo) (q : LineRequest) :
    s.checkLine n q =
      if 1 < q.service.toNat then .refused .badField 1
      else if 1 < q.slipUnit.toNat then .refused .badField 8
      else if 1 < q.slipEvents.toNat then .refused .badField 11
      else if 1 < q.windowMode.toNat then .refused .badField 13
      else if 1 < q.reportWindows.toNat then .refused .badField 14
      else if 7 < q.bank.toNat then .refused .badBank 0
      else if q.capacity.toNat < (if q.slipUnit = 1 then 12 else 4) ∨ 32 < q.capacity.toNat then
        .refused .badCapacity 0
      else if 256 < q.base.toNat + q.capacity.toNat then .refused .outOfBank 0
      else if q.service = 0 ∧ (q.actions.getLsbD 8 = true ∨ q.actions.getLsbD 9 = true ∨
          q.actions.getLsbD 10 = true) then .refused .conflict 4
      else if q.service = 1 then
        match s.overlapping n q.placement with
        | some m => .refused .overlap (word m.val)
        | none => .accepted q.moved
      else .accepted q.moved := by
  have hcap : (!q.capacityLegal) = true ↔
      q.capacity.toNat < (if q.slipUnit = 1 then 12 else 4) ∨ 32 < q.capacity.toNat := by
    rw [Bool.not_eq_true', ← Bool.not_eq_true, LineRequest.capacityLegal_iff, not_not]
  have hconf : q.conflicts = true ↔ q.service = 0 ∧ (q.actions.getLsbD 8 = true ∨
      q.actions.getLsbD 9 = true ∨ q.actions.getLsbD 10 = true) := by
    simp [LineRequest.conflicts, LineRequest.isOut, LineRequest.hasRecentre, LineRequest.hasRestart,
      LineRequest.hasArm, or_assoc]
  have hin : q.isIn = true ↔ q.service = 1 := by simp [LineRequest.isIn]
  unfold State.checkLine LineRequest.badField
  simp only [firstBadField_cons, firstBadField_nil, decide_eq_true_eq, ← Nat.not_lt, ite_not, hcap, hconf, hin]
  by_cases hservice : 1 < q.service.toNat
  · simp only [if_pos hservice]
    rfl
  by_cases hunit : 1 < q.slipUnit.toNat
  · simp only [if_neg hservice, if_pos hunit]
    rfl
  by_cases hevents : 1 < q.slipEvents.toNat
  · simp only [if_neg hservice, if_neg hunit, if_pos hevents]
    rfl
  by_cases hmode : 1 < q.windowMode.toNat
  · simp only [if_neg hservice, if_neg hunit, if_neg hevents, if_pos hmode]
    rfl
  by_cases hreport : 1 < q.reportWindows.toNat
  · simp only [if_neg hservice, if_neg hunit, if_neg hevents, if_neg hmode, if_pos hreport]
    rfl
  simp only [if_neg hservice, if_neg hunit, if_neg hevents, if_neg hmode, if_neg hreport] <;> rfl

end Sys2Proof.Machine
end

section
/-!
PROOFS. A line request checked, clamped and answered.
-/
namespace Sys2Proof.Proofs

open Sys2Proof.Machine

/-- Settles O43, field by field and check by check. -/
theorem lineRequestIsCheckedClampedAndAnswered : Obligations.LineRequestIsCheckedClampedAndAnswered := by
  refine ⟨fun q hbad hcap => ?_, fun n q s hp => ?_⟩
  · intro v u k
    obtain ⟨hlow, hhigh, hmin, hgap, hmax⟩ := q.thresholds_eq hcap (u := u) (k := k) rfl rfl
    refine ⟨clamp_eq (by decide) _, clamp_eq (by decide) _, hlow, hhigh, hmin, hgap, hmax,
      clamp_eq (by decide) _, (clamp_eq (by decide) _).trans (Nat.zero_max _), ?_, ?_, rfl, ?_,
      fun hb => ?_, rfl, rfl, rfl, fun i => ?_⟩
    · apply BitVec.eq_of_getLsbD_eq
      intro i hi
      show (q.actions.setWidth 8).getLsbD i = _
      simp [hi]
    · rfl
    · rfl
    · show q.bank.toNat % 8 = q.bank.toNat
      omega
    · unfold LineRequest.moved
      simp only [movedMask_line_bit, bne_iff_ne, Bool.and_eq_true]
      rfl
  · intro h refused shared done accepted
    refine (s.whenReady_of_ready hp _).trans (congrArg _ ?_)
    have hrefuse : ∀ r d, s.answerRequest (.line n) q.serial (.refused r d) (s.applyLine n q) =
        refused r d := fun r d => s.answerRequest_refused _ _ _ _ _
    have haccept : s.answerRequest (.line n) q.serial (.accepted q.moved) (s.applyLine n q) = accepted := rfl
    rw [State.takeLineRequest, State.checkLine_eq]
    simp only [apply_ite (fun v => s.answerRequest (.line n) q.serial v (s.applyLine n q)), hrefuse, haccept]
    by_cases hbank : 7 < q.bank.toNat
    · simp only [if_pos hbank]
    · rw [s.overlapping_eq n (Nat.not_lt.mp hbank)]
      have hshared : s.answerRequest (.line n) q.serial (match shared with
          | some m => .refused .overlap (word m.val)
          | none => .accepted q.moved) (s.applyLine n q) = match shared with
          | some m => refused .overlap (word m.val)
          | none => accepted := by
        cases shared with
        | some m => exact hrefuse _ _
        | none => exact haccept
      congr 9
      exact ite_congr rfl (fun _ => hshared) fun _ => rfl

end Sys2Proof.Proofs
end

section
/-!
SUPPORT. The bits of an octet taken together, and the slots that a write of a frame reaches.
-/
namespace Sys2Proof.Machine

/-! ## Octets of bits -/

theorem octetOf_bitsOf (o : Octet) : octetOf (bitsOf o) = o := by
  revert o
  decide

/-- The code of a position names it (R3). -/
theorem positionOfCode_eq_some {o : Octet} {m : GroupPos} :
    positionOfCode o = some m ↔ o = alignmentCode m := by
  revert o m
  decide

theorem take_append_take {α : Type} (l h : List α) (k : Nat) :
    (l ++ h.take k).take k = (l ++ h).take k := by
  simp [List.take_append, List.take_take]

/-- The bits of a list joined to a framer's history, and the boundaries of CONFIRM receding (R2). -/
def Framer.pushed (f : Framer) (bits : List Bool) : Framer :=
  { f with
    history := (bits.reverse ++ f.history).take 5120
    candidateAge := if f.state = .confirm then f.candidateAge + bits.length else f.candidateAge
    boundaryAge := if f.state = .confirm then f.boundaryAge + bits.length else f.boundaryAge }

theorem Framer.pushed_singleton (f : Framer) (b : Bool) : f.pushed [b] = f.push b := rfl

theorem Framer.pushed_cons (f : Framer) (b : Bool) (bits : List Bool) :
    f.pushed (b :: bits) = (f.push b).pushed bits := by
  unfold Framer.pushed Framer.push
  simp only [List.reverse_cons, List.append_assoc, List.singleton_append, List.length_cons,
    Config.historyDepth, take_append_take]
  split <;> simp only [Nat.add_comm, Nat.add_left_comm]

variable (s : State) (n : LineNo)

/-- A bit counted and joined to the history of a framer that is not held (R1, R2). -/
theorem State.recordBit_of_free (h : (s.line n).framer.held = false) (b : Bool) :
    s.recordBit n b = s.setLine n { s.line n with
      bitCount := min 65535 ((s.line n).bitCount + 1), framer := (s.line n).framer.push b } := by
  unfold State.recordBit State.modLine
  dsimp only
  rw [h]
  rfl

/-- Bits counted and joined to the history of a framer that is not held, one after the other (R1, R2). -/
theorem State.recordBits_eq (h : (s.line n).framer.held = false) (b : Bool) (bits : List Bool) :
    (b :: bits).foldl (fun t c => t.recordBit n c) s = s.setLine n { s.line n with
      bitCount := min 65535 ((s.line n).bitCount + (bits.length + 1))
      framer := (s.line n).framer.pushed (b :: bits) } := by
  induction bits generalizing s b with
  | nil => exact s.recordBit_of_free n h b
  | cons c bits ih =>
    have hheld : ((s.recordBit n b).line n).framer.held = false := (s.recordBit_framer n b).1.trans h
    have hcount : min 65535 (min 65535 ((s.line n).bitCount + 1) + (bits.length + 1)) =
        min 65535 ((s.line n).bitCount + (bits.length + 1 + 1)) := by omega
    rw [List.foldl_cons, ih _ hheld c, s.recordBit_of_free n h, State.setLine_line_same,
      State.setLine_setLine, Framer.pushed_cons (b := b)]
    dsimp only
    rw [hcount]
    rfl

theorem State.recordOctet_eq (h : (s.line n).framer.held = false) (o : Octet) :
    s.recordOctet n o = s.setLine n { s.line n with
      bitCount := min 65535 ((s.line n).bitCount + 8)
      framer := (s.line n).framer.pushed (bitsOf o) } :=
  s.recordBits_eq n h _ _

/-- The octet just taken is the one the framer examines (R3). -/
theorem Framer.pushed_recentOctet (f : Framer) (o : Octet) : (f.pushed (bitsOf o)).recentOctet = o := by
  have htake : ((f.pushed (bitsOf o)).history.take 8).reverse = bitsOf o := by
    show ((((bitsOf o).reverse ++ f.history).take 5120).take 8).reverse = bitsOf o
    rw [List.take_take, List.take_append_of_le_length (by simp [bitsOf])]
    rfl
  rw [Framer.recentOctet, htake, octetOf_bitsOf]

theorem Framer.pushed_history_length (f : Framer) (o : Octet) :
    ¬(f.pushed (bitsOf o)).history.length < 8 := by
  show ¬(((bitsOf o).reverse ++ f.history).take 5120).length < 8
  simp [bitsOf]

/-- Out of CONFIRM no boundary recedes (R2). -/
theorem Framer.pushed_of_ne {f : Framer} (h : f.state ≠ .confirm) (bits : List Bool) :
    f.pushed bits = { f with history := (bits.reverse ++ f.history).take 5120 } := by
  unfold Framer.pushed
  rw [if_neg h, if_neg h]

theorem Framer.pushed_of_confirm {f : Framer} (h : f.state = .confirm) (bits : List Bool) :
    f.pushed bits = { f with
      history := (bits.reverse ++ f.history).take 5120
      candidateAge := f.candidateAge + bits.length, boundaryAge := f.boundaryAge + bits.length } := by
  unfold Framer.pushed
  rw [if_pos h, if_pos h]

/-- The search of HUNT on an octet just completed (R3). -/
theorem Framer.huntExamine_eq {f : Framer} (h : ¬f.history.length < 8) : f.huntExamine =
    match positionOfCode f.recentOctet with
    | some m => { f with state := .confirm, expected := m + 1, matchCount := 0, candidateAge := 8,
                         boundaryAge := 8 }
    | none => f := by
  rw [Framer.huntExamine, if_neg h] <;> rfl

/-- The resumed search of a framer in CONFIRM (R5). -/
theorem Framer.resume_eq (f : Framer) (h : f.state = .confirm) : f.resume =
    match resumeSearch (f.history.take (f.candidateAge - 1)).reverse with
    | some c => { f with
        expected := c.expected, matchCount := c.matchCount, candidateAge := c.age
        boundaryAge := 8 + (c.age - 8) % 320 }
    | none => { f with
        state := .hunt, matchCount := 0, candidateAge := 0, boundaryAge := 0 } := by
  unfold Framer.resume
  cases resumeSearch (f.history.take (f.candidateAge - 1)).reverse with
  | some c => rw [← h] <;> rfl
  | none => rfl

/-- LOCKED concerns a HUNTING line alone (R13). -/
theorem State.reportLocked_eq : s.reportLocked n =
    if (s.line n).state = .hunting then s.refill n .locked else s := by
  unfold State.reportLocked
  cases (s.line n).state <;> rfl

/-! ## An alignment check in LOCKED -/

/-- The counts of an alignment mismatch (R6). -/
def State.missed (l : Line) : State :=
  (s.setLine n { l with counters := { l.counters with alignErrors := l.counters.alignErrors + 1 } }).setGathered
    n { s.gathered n with alignErrors := (s.gathered n).alignErrors + 1 }

theorem State.countAlignError_setLine (l : Line) : (s.setLine n l).countAlignError n = s.missed n l := by
  unfold State.countAlignError State.missed State.modLine
  rw [State.setLine_line_same, State.setLine_setLine]
  rfl

theorem State.missed_line (l : Line) : (s.missed n l).line n =
    { l with counters := { l.counters with alignErrors := l.counters.alignErrors + 1 } } :=
  s.setLine_line_same n _

theorem State.missed_setLine (l k : Line) : (s.missed n l).setLine n k =
    (s.setLine n k).setGathered n
      { s.gathered n with alignErrors := (s.gathered n).alignErrors + 1 } := by
  show State.setGathered (State.setLine (State.setLine s n _) n k) n _ = _
  rw [State.setLine_setLine]

/-- LOST of a line in FILLING or RUNNING (R13, R35). -/
theorem State.reportLost_eq (h : (s.line n).state = .filling ∨ (s.line n).state = .running) :
    s.reportLost n = (s.setLine n { s.line n with
      state := .hunting, lastCause := .lost, ring := { (s.line n).ring with held := 0 } }).post
        .lineState (16 + n.val) [word (s.line n).state.code, 1, 4] := by
  have hne : (s.line n).state ≠ .hunting := by rcases h with h | h <;> rw [h] <;> nofun
  have hmoved : s.reportLost n = (s.emptyRing n).changeLine n .hunting .lost := by
    unfold State.reportLost
    rcases h with h | h <;> rw [h]
  rw [hmoved, State.emptyRing, s.modLine_changeLine n _ _ rfl hne]
  rfl

theorem State.reportLost_setLine (k : Line) {g : Gathered} (h : k.state = .filling ∨ k.state = .running) :
    ((s.setLine n k).setGathered n g).reportLost n = ((s.setLine n { k with
      state := .hunting, lastCause := .lost, ring := { k.ring with held := 0 } }).setGathered n g).post
        .lineState (16 + n.val) [word k.state.code, 1, 4] := by
  have hline : ((s.setLine n k).setGathered n g).line n = k := s.setLine_line_same n k
  have hput : ∀ l : Line, ((s.setLine n k).setGathered n g).setLine n l =
      (s.setLine n l).setGathered n g := fun l => by
    show State.setGathered (State.setLine (State.setLine s n k) n l) n g = _
    rw [State.setLine_setLine]
  rw [State.reportLost_eq _ _ (by rw [hline]; exact h), hline, hput]

end Sys2Proof.Machine
end

section
/-!
PROOFS. The framer's checks and the store writer.
-/
namespace Sys2Proof.Proofs

open Sys2Proof.Machine

/-- Settles O26: the octet's bits are taken together, and the examination of the octet they make follows. -/
theorem searchAndConfirmationOfAlignment : Obligations.SearchAndConfirmationOfAlignment := by
  refine ⟨fun n o s hp => ?_, fun n o s hp => ?_⟩
  · intro l hheld hstate history found
    have hin : s.framerIn n .hunt = true := State.framerIn_iff.mpr ⟨hp, hheld, hstate⟩
    have hexec : exec (.huntFind n o) s = .next (found (l.framer.pushed (bitsOf o)).huntExamine) := by
      show Host.Outcome.next (if s.framerIn n .hunt then
        (s.recordOctet n o).setFramer n ((s.recordOctet n o).line n).framer.huntExamine else s) = _
      rw [if_pos hin, s.recordOctet_eq n hheld, State.setFramer, State.modLine, State.setLine_line_same,
        State.setLine_setLine]
    have hpushed : l.framer.pushed (bitsOf o) = { l.framer with history := history } :=
      Framer.pushed_of_ne (by rw [hstate]; nofun) _
    rw [hexec, Framer.huntExamine_eq (Framer.pushed_history_length _ o), Framer.pushed_recentOctet, hpushed]
    refine ⟨fun m hm => ?_, fun hm => ?_⟩
    · rw [positionOfCode_eq_some.mpr hm]
    · cases hpos : positionOfCode o with
      | none => rfl
      | some m => exact absurd (positionOfCode_eq_some.mp hpos) (hm m)
  · intro l hheld hstate f checked locked
    have hin : s.framerIn n .confirm = true := State.framerIn_iff.mpr ⟨hp, hheld, hstate⟩
    have hf : l.framer.pushed (bitsOf o) = f := Framer.pushed_of_confirm hstate _
    have hexamine : f.confirmExamine l.confirmCount = if o = alignmentCode f.expected then
        if l.confirmCount ≤ f.matchCount + 1 then
          { f with
            state := .locked, matchCount := min 15 (f.matchCount + 1), errorCount := 0
            framePosition := 8, payload := [], candidateAge := 0, boundaryAge := 0 }
        else { f with matchCount := f.matchCount + 1, expected := f.expected + 1, boundaryAge := 8 }
      else f.resume := by
      rw [Framer.confirmExamine, ← hf, Framer.pushed_recentOctet]
    have hexec : exec (.confirmCheck n o) s = .next (
        if (f.confirmExamine l.confirmCount).state = .locked then
          (checked (f.confirmExamine l.confirmCount)).reportLocked n
        else checked (f.confirmExamine l.confirmCount)) := by
      show Host.Outcome.next (if s.framerIn n .confirm then (s.recordOctet n o).confirmCheck n else s) = _
      rw [if_pos hin, s.recordOctet_eq n hheld, hf, State.confirmCheck]
      dsimp only
      rw [State.setFramer, State.modLine, State.setLine_line_same, State.setLine_setLine]
    rw [hexec, hexamine]
    refine ⟨fun hm hc => ?_, fun hm hc => ?_, fun hm => ?_⟩
    · rw [if_pos hm, if_neg (Nat.not_le.mpr hc), if_neg (by rw [show f.state = _ from hstate]; nofun)]
    · rw [if_pos hm, if_pos hc, if_pos rfl, State.reportLocked_eq]
      simp only [checked, locked, State.setLine_line_same]
    · rw [if_neg hm, if_neg (Framer.resume_kept f).2, f.resume_eq hstate] <;> rfl

/-- Settles O28: the octet's bits are taken together, and the mismatch is counted before the line moves. -/
theorem lockedCheckCountsErrors : Obligations.LockedCheckCountsErrors := by
  intro n o s hp l hheld hstate f taken missed
  have hin : s.framerIn n .locked = true := State.framerIn_iff.mpr ⟨hp, hheld, hstate⟩
  have hf : l.framer.pushed (bitsOf o) = f := Framer.pushed_of_ne (by rw [hstate]; nofun) _
  have hrecent : f.recentOctet = o := hf ▸ Framer.pushed_recentOctet _ o
  have hexec : exec (.lockedCheck n o) s =
      .next ((s.setLine n { taken with framer := f }).lockedCheck n) := by
    show Host.Outcome.next (if s.framerIn n .locked then (s.recordOctet n o).lockedCheck n else s) = _
    rw [if_pos hin, s.recordOctet_eq n hheld, hf]
  rw [hexec, State.lockedCheck]
  simp only [State.setLine_line_same, hrecent]
  refine ⟨fun hm => ?_, fun hm hc => ?_, fun hm hc hl => ?_⟩
  · rw [if_pos hm, State.setFramer, State.modLine, State.setLine_line_same, State.setLine_setLine]
  · rw [if_neg hm, if_neg (Nat.not_le.mpr hc), State.countAlignError_setLine, State.setFramer,
      State.modLine, State.missed_line, State.missed_setLine]
  · rw [if_neg hm, if_pos hc, State.countAlignError_setLine, State.setFramer, State.modLine,
      State.missed_line, State.missed_setLine]
    exact congrArg Host.Outcome.next (s.reportLost_setLine n _ hl)

end Sys2Proof.Proofs
end

section
/-!
SUPPORT. The slots that a write reaches, the store reset, and the covering of a line.
-/
namespace Sys2Proof.Machine

variable (s : State) (n : LineNo)

/-! ## Writes of the store -/

/-- One slot written in each bank of a list. -/
theorem State.foldl_setSlot (i : Nat) (x : Slot) (l : List (Fin 9)) :
    (l.foldl (fun t b => t.setSlot b i x) s =
      { s with slots := (l.foldl (fun t b => t.setSlot b i x) s).slots }) ∧
    (i < 256 → ∀ b j, j < 256 → (l.foldl (fun t b => t.setSlot b i x) s).slot b j =
      if b ∈ l ∧ j = i then x else s.slot b j) := by
  induction l generalizing s with
  | nil => exact ⟨rfl, fun _ b j _ => by simp⟩
  | cons c l ih =>
    obtain ⟨hframe, hslot⟩ := ih (s.setSlot c i x)
    refine ⟨by rw [List.foldl_cons, hframe]; rfl, fun hi b j hj => ?_⟩
    rw [List.foldl_cons, hslot hi b j hj]
    by_cases hbj : b ∈ l ∧ j = i
    · rw [if_pos hbj, if_pos ⟨List.mem_cons_of_mem c hbj.1, hbj.2⟩]
    · rw [if_neg hbj]
      by_cases hc : b = c ∧ j = i
      · obtain ⟨rfl, rfl⟩ := hc
        rw [State.setSlot_slot_same, if_pos ⟨List.mem_cons_self, rfl⟩]
      · rw [State.setSlot_slot_ne _ (fun he => hc (slotKey_inj hj hi he)), if_neg]
        rintro ⟨hb, rfl⟩
        rcases List.mem_cons.mp hb with rfl | hb
        · exact hc ⟨rfl, rfl⟩
        · exact hbj ⟨hb, rfl⟩

/-- A write reaches the slot in the banks named for it and no other (R30, R119). -/
theorem State.writeSlot_slot {k : Fin 8} {i : Nat} (hi : i < 256) (x : Slot) (b : Fin 9) {j : Nat}
    (hj : j < 256) : (s.writeSlot k i x).slot b j =
      if b ∈ s.spare.state.writeBanks k ∧ j = i then x else s.slot b j :=
  (s.foldl_setSlot i x _).2 hi b j hj

theorem State.writeSlot_frame (k : Fin 8) (i : Nat) (x : Slot) :
    s.writeSlot k i x = { s with slots := (s.writeSlot k i x).slots } := (s.foldl_setSlot i x _).1

/-- One value written to each slot of a list of them (R34). -/
theorem State.foldl_writeSlot (k : Fin 8) (x : Slot) (l : List Nat) :
    (l.foldl (fun t i => t.writeSlot k i x) s =
      { s with slots := (l.foldl (fun t i => t.writeSlot k i x) s).slots }) ∧
    ((∀ i ∈ l, i < 256) → ∀ b j, j < 256 → (l.foldl (fun t i => t.writeSlot k i x) s).slot b j =
      if b ∈ s.spare.state.writeBanks k ∧ j ∈ l then x else s.slot b j) := by
  induction l generalizing s with
  | nil => exact ⟨rfl, fun _ b j _ => by simp⟩
  | cons i l ih =>
    obtain ⟨hframe, hslot⟩ := ih (s.writeSlot k i x)
    have hspare : (s.writeSlot k i x).spare = s.spare := by rw [State.writeSlot_frame]
    refine ⟨by rw [List.foldl_cons, hframe, State.writeSlot_frame], fun hl b j hj => ?_⟩
    rw [List.foldl_cons, hslot (fun i hi => hl i (List.mem_cons_of_mem _ hi)) b j hj, hspare,
      s.writeSlot_slot (hl i List.mem_cons_self) x b hj]
    by_cases hb : b ∈ s.spare.state.writeBanks k <;> by_cases hjl : j ∈ l <;> by_cases hji : j = i <;>
      simp [hb, hjl, hji]

/-! ## The store reset -/

/-- The state in which a store reset writes its slots (R16, R34): FILLING, r = u and H = 0. -/
def State.refilling (s : State) (n : LineNo) (cause : LineCause) : State :=
  (s.setLine n { s.line n with
    state := .filling
    lastCause := if (s.line n).state = .filling then (s.line n).lastCause else cause
    ring := { readIndex := (s.line n).placement.u, held := 0 } }).post .lineState (16 + n.val)
      [word (s.line n).state.code, 2, word cause.code]

/-- The state a store reset leaves before the covering (R34): the retained slots written anew. -/
def State.retained (s : State) (n : LineNo) (cause : LineCause) : State :=
  ((List.range (s.line n).placement.u).map fun j => (s.line n).placement.base + j).foldl
    (fun t i => t.writeSlot (s.line n).placement.bank i {}) (s.refilling n cause)

theorem State.retained_frame (cause : LineCause) :
    s.retained n cause = { s.refilling n cause with slots := (s.retained n cause).slots } :=
  (State.foldl_writeSlot (s.refilling n cause) _ _ _).1

theorem Placement.legal.u_lt {p : Placement} (h : p.legal) : p.u < p.capacity := by
  obtain ⟨_, _, hcap⟩ := h
  unfold Placement.u
  cases hp : p.unit <;> simp only [hp, SlipUnit.slots] at hcap ⊢ <;> simp at hcap <;> omega

theorem Placement.legal.retained_lt {p : Placement} (h : p.legal) : p.base + p.u ≤ 256 := by
  have := h.u_lt
  have := h.1
  omega

/-- The retained slots of a legal placement lie within its ring (R25, R34). -/
theorem Placement.legal.slotAt_eq {p : Placement} (h : p.legal) {j : Nat} (hj : j < p.u) :
    p.slotAt j = p.base + j := by
  rw [Placement.slotAt, Nat.mod_eq_of_lt (hj.trans h.u_lt)]

/-- The slots of a store reset (R34, R119): the retained ones in every bank named for writes. -/
theorem State.retained_slot (cause : LineCause) (h : (s.line n).placement.legal) (b : Fin 9) {i : Nat}
    (hi : i < 256) : (s.retained n cause).slot b i =
      if b ∈ s.spare.state.writeBanks (s.line n).placement.bank ∧ (s.line n).placement.base ≤ i ∧
        i < (s.line n).placement.base + (s.line n).placement.u then {} else s.slot b i := by
  have hspare : (s.refilling n cause).spare = s.spare := State.post_spare _ _ _ _
  have hbefore : (s.refilling n cause).slot b i = s.slot b i := State.post_slot _ _ _ _ b i
  have hmem : i ∈ (List.range (s.line n).placement.u).map (fun j => (s.line n).placement.base + j) ↔
      (s.line n).placement.base ≤ i ∧ i < (s.line n).placement.base + (s.line n).placement.u := by
    rw [List.mem_map]
    constructor
    · rintro ⟨j, hj, rfl⟩
      have := List.mem_range.mp hj
      omega
    · rintro ⟨hlow, hhigh⟩
      exact ⟨i - (s.line n).placement.base, List.mem_range.mpr (by omega), by omega⟩
  have hroom := h.retained_lt
  rw [State.retained, (State.foldl_writeSlot (s.refilling n cause) _ _ _).2 _ b i hi, hspare, hbefore]
  · simp only [hmem]
  · intro j hj
    obtain ⟨k, hk, rfl⟩ := List.mem_map.mp hj
    have := List.mem_range.mp hk
    omega

theorem State.refill_eq (cause : LineCause) (h : (s.line n).placement.legal) :
    s.refill n cause = (s.retained n cause).coverLine n := by
  have hslots : (List.range (s.line n).placement.u).map (s.line n).placement.slotAt =
      (List.range (s.line n).placement.u).map fun j => (s.line n).placement.base + j :=
    List.map_congr_left fun j hj => h.slotAt_eq (List.mem_range.mp hj)
  have hline : ((s.changeLine n .filling cause).line n).placement = (s.line n).placement := by
    rw [(s.changeLine_puts n .filling cause).line]
    rfl
  have hreset : ((s.changeLine n .filling cause).modLine n fun l =>
      { l with ring := { readIndex := (s.line n).placement.u, held := 0 } }) = s.refilling n cause := by
    rw [State.changeLine_eq, ← State.post_modLine, State.modLine, State.setLine_line_same,
      State.setLine_setLine]
    rfl
  unfold State.refill State.storeReset State.retained
  dsimp only
  rw [hline, hreset, ← hslots, List.foldl_map]

/-! ## Covering -/

theorem State.coverLine_of_ne (h : (s.cover n).mark ≠ .pending) : s.coverLine n = s := by
  unfold State.coverLine
  cases hm : (s.cover n).mark <;> first | rfl | exact absurd hm h

theorem State.coverLine_of_pending (h : (s.cover n).mark = .pending) :
    s.coverLine n = (s.setCover n { s.cover n with mark := .covered }).settleSpare := by
  unfold State.coverLine
  rw [h]

/-- With line n's mark COVERED, nothing is outstanding where no other line is PENDING (R121). -/
theorem State.covered_outstanding_iff :
    (s.setCover n { s.cover n with mark := .covered }).spare.outstanding = 0 ↔
      ∀ m, m ≠ n → (s.cover m).mark ≠ .pending := by
  rw [Spare.outstanding_eq_zero_iff]
  have hcover : ∀ m, ((s.setCover n { s.cover n with mark := .covered }).spare.coverage[m]).mark =
      if m = n then .covered else (s.cover m).mark := fun m => by
    split
    · next h =>
      subst h
      exact congrArg Coverage.mark (s.setCover_cover_same m _)
    · next h => exact congrArg Coverage.mark (s.setCover_cover_ne h _)
  refine forall_congr' fun m => ?_
  rw [hcover]
  split <;> simp_all

/-- With a line outstanding, or no operation in progress, nothing completes (R122). -/
theorem State.settleSpare_of_outstanding (h : s.spare.outstanding ≠ 0) : s.settleSpare = s := by
  unfold State.settleSpare
  split
  · rfl
  · exact if_neg h

/-- An operation with nothing outstanding completes (R122, R129). -/
theorem State.settleSpare_of_none {k : Fin 8} (hk : s.spare.state.operating = some k)
    (h : s.spare.outstanding = 0) : s.settleSpare =
      ({ s with spare := { s.spare with
        state := s.spare.state.completed, coverage := clearedCoverage, lastCause := .complete } } : State).post
          .sparePhase 2 [word s.spare.state.code, word s.spare.state.completed.code, word k.val, 3] := by
  unfold State.settleSpare
  rw [hk]
  dsimp only
  rw [if_pos h, State.enterSpare_of_none _ s.spare.state.completed_operating, clearedCoverage_eq]
  rfl

/-! ## The writer -/

/-- The state a written frame leaves before its coverage is counted (R30, R31). -/
def State.frameWritten (s : State) (n : LineNo) (payload : List Octet) (tag : GroupPos) : State :=
  (s.writeSlot (s.line n).placement.bank
    ((s.line n).placement.slotAt ((s.line n).ring.readIndex + (s.line n).ring.held))
    { payload := payload, position := tag, filler := false }).setLine n
      { s.line n with ring := { (s.line n).ring with held := (s.line n).ring.held + 1 } }

theorem State.frameWritten_frame (payload : List Octet) (tag : GroupPos) : s.frameWritten n payload tag =
    { s.setLine n { s.line n with ring := { (s.line n).ring with held := (s.line n).ring.held + 1 } } with
      slots := (s.frameWritten n payload tag).slots } := by
  unfold State.frameWritten
  rw [State.writeSlot_frame]
  rfl

theorem State.writeFrame_eq (payload : List Octet) (tag : GroupPos) : s.writeFrame n payload tag =
    if (s.line n).state = .filling ∨ (s.line n).state = .running then
      if (s.line n).ring.held < (s.line n).placement.heldMax then
        (s.frameWritten n payload tag).countCoverage n
      else (s.setLine n { s.line n with
        counters := { (s.line n).counters with overruns := (s.line n).counters.overruns + 1 } }).setGathered n
          { s.gathered n with overruns := (s.gathered n).overruns + 1 }
    else s := by
  have hline : ∀ k i x, (s.writeSlot k i x).line n = s.line n := fun k i x => by
    rw [State.writeSlot_frame]
    rfl
  unfold State.writeFrame State.frameWritten State.modLine
  simp only [hline]
  rfl

/-- A written frame counts toward the coverage of the bank mirrored or restored (R120, R121). -/
theorem State.countCoverage_eq : s.countCoverage n =
    if s.spare.state = .mirror (s.line n).placement.bank ∨
        s.spare.state = .restore (s.line n).placement.bank then
      if (s.line n).placement.capacity ≤ min 32 ((s.cover n).count + 1) then
        (s.setCover n { s.cover n with count := min 32 ((s.cover n).count + 1) }).coverLine n
      else s.setCover n { s.cover n with count := min 32 ((s.cover n).count + 1) }
    else s := by
  have hcount : ((s.setCover n { s.cover n with count := satAdd 32 (s.cover n).count 1 }).cover n).count =
      min 32 ((s.cover n).count + 1) := by
    rw [State.setCover_cover_same]
    rfl
  unfold State.countCoverage
  cases hs : s.spare.state with
  | standby | spared k => simp [SpareState.operating]
  | mirror k | restore k =>
    simp only [SpareState.operating, hcount, SpareState.mirror.injEq, SpareState.restore.injEq, reduceCtorEq,
      or_false, false_or, eq_comm]
    rfl

end Sys2Proof.Machine
end

section
/-!
PROOFS. The store writer, the store reset and the covering.
-/
namespace Sys2Proof.Proofs

open Sys2Proof.Machine

/-- Settles O31: the fold of the writes slot by slot, and the covering by what stays outstanding. -/
theorem storeResetWritesTheRetainedSlotsAndCovers :
    Obligations.StoreResetWritesTheRetainedSlotsAndCovers := by
  refine ⟨fun s n cause => ?_, fun s n => ?_⟩
  · intro l p u hlegal
    have hroom : p.base + u ≤ 256 := hlegal.retained_lt
    refine ⟨s.retained n cause, s.retained_frame n cause, fun b hb j hj => ?_, fun b i hi hout => ?_,
      s.refill_eq n cause hlegal⟩
    · rw [s.retained_slot n cause hlegal b (by omega), if_pos ⟨hb, Nat.le_add_right _ _, Nat.add_lt_add_left hj _⟩]
      rfl
    · rw [s.retained_slot n cause hlegal b hi, if_neg]
      rintro ⟨hb, hlow, hhigh⟩
      rcases hout with h | h | h
      · exact h hb
      · exact absurd hlow (Nat.not_le.mpr h)
      · exact absurd hhigh (Nat.not_lt.mpr h)
  · intro coverage cleared
    refine ⟨s.coverLine_of_ne n, fun hm ho => ?_, fun hm ho k => ⟨fun hk => ?_, fun hk => ?_⟩⟩
    · rw [s.coverLine_of_pending n hm, State.settleSpare_of_outstanding]
      · rfl
      · rw [ne_eq, State.covered_outstanding_iff]
        obtain ⟨m, hne, hp⟩ := ho
        exact fun h => h m hne hp
    all_goals
      have hoper : (s.setCover n { s.cover n with mark := .covered }).spare.state.operating = some k := by
        show s.spare.state.operating = some k
        rw [hk]
        rfl
      have hstate : (s.setCover n { s.cover n with mark := .covered }).spare.state = s.spare.state := rfl
      rw [s.coverLine_of_pending n hm, State.settleSpare_of_none _ hoper
        ((s.covered_outstanding_iff n).mpr ho), hstate, hk]
      rfl

/-- Settles O29: the write bank by bank, and then the coverage it counts. -/
theorem deliveredFrameIsWrittenOrDiscarded : Obligations.DeliveredFrameIsWrittenOrDiscarded := by
  intro n payload tag s hp l p k i banks
  have hexec : exec (.frameDelivery n payload tag) s = .next (s.writeFrame n payload.toList tag) := by
    show Host.Outcome.next (if s.outOfReset then s.writeFrame n payload.toList tag else s) = _
    rw [if_pos (s.outOfReset_of_ne hp)]
  have hbanks : s.spare.state.writeBanks k = banks := by
    unfold SpareState.writeBanks
    cases hs : s.spare.state <;> simp only [banks, hs] <;> rfl
  rw [hexec, State.writeFrame_eq]
  refine ⟨fun hf hr => ?_, fun hl hlegal hroom => ⟨s.frameWritten n payload.toList tag, s.frameWritten_frame n _ _, ?_⟩,
    fun hl hfull => ?_⟩
  · rw [if_neg]
    rintro (h | h)
    · exact hf h
    · exact hr h
  · have hi : i < 256 := by
      have : (l.ring.readIndex + l.ring.held) % p.capacity < p.capacity :=
        Nat.mod_lt _ (Nat.zero_lt_of_lt hlegal.u_lt)
      have := hlegal.1
      omega
    have hslot : ∀ b j, j < 256 → (s.frameWritten n payload.toList tag).slot b j =
        if b ∈ banks ∧ j = i then
          { payload := payload.toList, position := tag, filler := false, errors := {} }
        else s.slot b j := fun b j hj =>
      hbanks ▸ s.writeSlot_slot hi { payload := payload.toList, position := tag, filler := false } b hj
    refine ⟨fun b hb => ?_, fun b j hj hne => ?_, ?_⟩
    · rw [hslot b i hi, if_pos ⟨hb, rfl⟩]
    · rw [hslot b j hj, if_neg]
      rintro ⟨hb, rfl⟩
      exact hne.elim (fun h => h hb) (fun h => h rfl)
    · have hframe := s.frameWritten_frame n payload.toList tag
      have hspare : (s.frameWritten n payload.toList tag).spare = s.spare := by rw [hframe]; rfl
      have hplace : ((s.frameWritten n payload.toList tag).line n).placement = p := by
        rw [State.frameWritten, State.setLine_line_same]
      have hcover : (s.frameWritten n payload.toList tag).cover n = s.cover n := by
        rw [State.cover, hspare]
        rfl
      rw [if_pos hl, if_pos (show l.ring.held < p.heldMax from hroom), State.countCoverage_eq, hspare, hplace, hcover]
  · rw [if_pos hl, if_neg (show ¬l.ring.held < p.heldMax from Nat.not_lt.mpr hfull)]

end Sys2Proof.Proofs
end

section
/-!
SUPPORT. The resumed search, check by check, and a framer's share of one line bit.
-/
namespace Sys2Proof.Machine

/-! ## The resumed search -/

/-- The octets every 320 bits from the first on are the codes of position m and the positions after it, as
far as the bits go (R5). -/
def Survives (bits : List Bool) (m : GroupPos) : Prop :=
  ∀ k, 320 * k + 8 ≤ bits.length →
    octetOf ((bits.drop (320 * k)).take 8) = alignmentCode (m + Fin.ofNat 4 k)

/-- The checks that a run of bits completes (R5). -/
def checksIn (bits : List Bool) : Nat := (bits.length + 312) / 320

theorem position_succ (m : GroupPos) (k : Nat) : m + Fin.ofNat 4 (k + 1) = m + 1 + Fin.ofNat 4 k := by
  apply Fin.ext
  simp only [Fin.val_add, Fin.val_ofNat]
  omega

theorem Survives.of_short {bits : List Bool} (h : bits.length < 8) (m : GroupPos) : Survives bits m :=
  fun k hk => by omega

/-- A candidate survives where its first octet is the code and the rest of its checks match (R5). -/
theorem survives_iff {bits : List Bool} (h : ¬bits.length < 8) (m : GroupPos) : Survives bits m ↔
    octetOf (bits.take 8) = alignmentCode m ∧ Survives (bits.drop 320) (m + 1) := by
  constructor
  · intro hs
    refine ⟨by simpa using hs 0 (by omega), fun k hk => ?_⟩
    rw [List.length_drop] at hk
    rw [List.drop_drop, ← position_succ, show 320 + 320 * k = 320 * (k + 1) by ring]
    exact hs (k + 1) (by omega)
  · rintro ⟨hfirst, hrest⟩ k hk
    cases k with
    | zero => simpa using hfirst
    | succ k =>
      have hnext := hrest k (by rw [List.length_drop]; omega)
      rwa [List.drop_drop, ← position_succ, show 320 + 320 * k = 320 * (k + 1) by ring] at hnext

/-- What the checks of a candidate come to, with fuel for all of them (R5). -/
theorem checkRun_eq (fuel : Nat) (e : GroupPos) (c : Nat) {bits : List Bool}
    (h : bits.length < 320 * fuel + 8) :
    (Survives bits e → checkRun fuel e c bits =
      some (e + Fin.ofNat 4 (checksIn bits), c + checksIn bits)) ∧
    (¬Survives bits e → checkRun fuel e c bits = none) := by
  have hshort : bits.length < 8 → (some (e, c) : Option (GroupPos × Nat)) =
      some (e + Fin.ofNat 4 (checksIn bits), c + checksIn bits) := fun hs => by
    have hzero : checksIn bits = 0 := by unfold checksIn; omega
    rw [hzero]
    simp
  induction fuel generalizing e c bits with
  | zero => exact ⟨fun _ => hshort (by omega), fun hn => absurd (Survives.of_short (by omega) e) hn⟩
  | succ fuel ih =>
    by_cases hs : bits.length < 8
    · refine ⟨fun _ => ?_, fun hn => absurd (Survives.of_short hs e) hn⟩
      rw [checkRun, if_pos hs]
      exact hshort hs
    · have hdrop : (bits.drop 320).length < 320 * fuel + 8 := by rw [List.length_drop]; omega
      have hcount : checksIn bits = checksIn (bits.drop 320) + 1 := by
        unfold checksIn
        rw [List.length_drop]
        omega
      obtain ⟨hyes, hno⟩ := ih (e + 1) (c + 1) hdrop (fun hs => by
        have hzero : checksIn (bits.drop 320) = 0 := by unfold checksIn; omega
        rw [hzero]
        simp)
      rw [survives_iff hs, checkRun, if_neg hs]
      by_cases hcode : octetOf (bits.take 8) = alignmentCode e
      · rw [if_pos hcode]
        refine ⟨fun hsv => (hyes hsv.2).trans ?_, fun hn => hno fun hr => hn ⟨hcode, hr⟩⟩
        rw [hcount, position_succ, Nat.add_assoc, Nat.add_comm 1]
      · rw [if_neg hcode]
        exact ⟨fun hsv => absurd hsv.1 hcode, fun _ => rfl⟩

/-- The resumed search takes the first candidate that survives, and none where none does (R5). -/
theorem resumeSearch_spec (bits : List Bool) (h : bits.length ≤ 5120) :
    (∀ c, resumeSearch bits = some c → ∃ j m, j + 8 ≤ bits.length ∧ Survives (bits.drop j) m ∧
      c.age = bits.length - j ∧ c.matchCount = checksIn (bits.drop (j + 320)) ∧
      c.expected = m + 1 + Fin.ofNat 4 c.matchCount ∧
      ∀ i m', i < j → ¬Survives (bits.drop i) m') ∧
    (resumeSearch bits = none → ∀ j m, j + 8 ≤ bits.length → ¬Survives (bits.drop j) m) := by
  induction bits with
  | nil => exact ⟨nofun, fun _ j m hj => by simp at hj⟩
  | cons b rest ih =>
    obtain ⟨hsome, hnone⟩ := ih (by simp at h; omega)
    unfold resumeSearch
    dsimp only
    by_cases hs : (b :: rest).length < 8
    · rw [if_pos hs]
      exact ⟨nofun, fun _ j m hj => by omega⟩
    rw [if_neg hs]
    have hnext : (∀ m, ¬Survives (b :: rest) m) →
        (∀ c, resumeSearch rest = some c → ∃ j m, j + 8 ≤ (b :: rest).length ∧
          Survives ((b :: rest).drop j) m ∧ c.age = (b :: rest).length - j ∧
          c.matchCount = checksIn ((b :: rest).drop (j + 320)) ∧
          c.expected = m + 1 + Fin.ofNat 4 c.matchCount ∧
          ∀ i m', i < j → ¬Survives ((b :: rest).drop i) m') ∧
        (resumeSearch rest = none → ∀ j m, j + 8 ≤ (b :: rest).length →
          ¬Survives ((b :: rest).drop j) m) := by
      intro hfirst
      refine ⟨fun c hc => ?_, fun hn j m hj => ?_⟩
      · obtain ⟨j, m, hj, hsv, hage, hcount, hexp, hbefore⟩ := hsome c hc
        refine ⟨j + 1, m, by simp; omega, hsv, by simp [hage], ?_, hexp, fun i m' hi => ?_⟩
        · rw [hcount, show j + 1 + 320 = (j + 320) + 1 by omega, List.drop_succ_cons]
        · cases i with
          | zero => exact hfirst m'
          | succ i => exact hbefore i m' (by omega)
      · cases j with
        | zero => exact hfirst m
        | succ j => exact hnone hn j m (by simp at hj; omega)
    cases hpos : positionOfCode (octetOf ((b :: rest).take 8)) with
    | none =>
      refine hnext fun m hsv => ?_
      have := positionOfCode_eq_some.mpr ((survives_iff hs m).mp hsv).1
      rw [hpos] at this
      cases this
    | some m =>
      have hcode := positionOfCode_eq_some.mp hpos
      obtain ⟨hyes, hno⟩ := checkRun_eq 17 (m + 1) 0 (bits := (b :: rest).drop 320)
        (by rw [List.length_drop]; omega)
      by_cases hsv : Survives ((b :: rest).drop 320) (m + 1)
      · dsimp only
        rw [show (b :: rest).drop Config.frameBits = (b :: rest).drop 320 from rfl, hyes hsv]
        refine ⟨fun c hc => ?_, nofun⟩
        cases hc
        exact ⟨0, m, by omega, (survives_iff hs m).mpr ⟨hcode, hsv⟩, rfl, by simp, by simp, fun i m' hi => by omega⟩
      · dsimp only
        rw [show (b :: rest).drop Config.frameBits = (b :: rest).drop 320 from rfl, hno hsv]
        refine hnext fun m' hsv' => ?_
        obtain ⟨hcode', hrest⟩ := (survives_iff hs m').mp hsv'
        have : some m' = some m := (positionOfCode_eq_some.mpr hcode').symm.trans hpos
        cases this
        exact hsv hrest

/-! ## A line bit -/

section
variable (s : State) (n : LineNo)

theorem State.takeBit_of_held (h : (s.line n).framer.held = true) (b : Bool) : s.takeBit n b =
    s.setLine n { s.line n with bitCount := min 65535 ((s.line n).bitCount + 1) } := by
  unfold State.takeBit State.recordBit State.modLine
  dsimp only
  rw [if_pos h, if_pos h]
  rfl

/-- The state in which a framer that is not held takes its share of a bit (R1, R2). -/
def State.bitTaken (b : Bool) : State :=
  s.setLine n { s.line n with
    bitCount := min 65535 ((s.line n).bitCount + 1), framer := (s.line n).framer.push b }

theorem State.takeBit_of_free (h : (s.line n).framer.held = false) (b : Bool) :
    s.takeBit n b = (s.bitTaken n b).framerStep n := by
  unfold State.takeBit
  dsimp only
  rw [s.recordBit_of_free n h, h, if_neg (by decide)]
  rfl

theorem State.bitTaken_framer (b : Bool) :
    ((s.bitTaken n b).line n).framer = (s.line n).framer.push b := by
  rw [State.bitTaken, State.setLine_line_same]

/-- A framer's next state after a bit, in the line's items (R1). -/
theorem State.bitTaken_setFramer (b : Bool) (f : Framer) : (s.bitTaken n b).setFramer n f =
    s.setLine n { s.line n with
      bitCount := min 65535 ((s.line n).bitCount + 1), framer := f } := by
  rw [State.setFramer, State.modLine, State.bitTaken, State.setLine_line_same, State.setLine_setLine]

end

/-- The framer's share of a bit, state by state (R3, R4, R6, R8). -/
theorem State.framerStep_of_hunt {s : State} {n : LineNo} (h : (s.line n).framer.state = .hunt) :
    s.framerStep n = s.setFramer n (s.line n).framer.huntExamine := by
  unfold State.framerStep
  dsimp only
  rw [h]

theorem State.framerStep_of_confirm {s : State} {n : LineNo} (h : (s.line n).framer.state = .confirm) :
    s.framerStep n = if (s.line n).framer.boundaryAge = 328 then s.confirmCheck n else s := by
  unfold State.framerStep
  dsimp only
  rw [h] <;> rfl

theorem State.framerStep_of_locked {s : State} {n : LineNo} (h : (s.line n).framer.state = .locked) :
    s.framerStep n = if (s.line n).framer.framePosition + 1 = 8 then s.lockedCheck n
      else if (s.line n).framer.framePosition + 1 = 320 then s.deliver n
      else if ((s.line n).framer.framePosition + 1) % 8 = 0 then
        s.setFramer n { (s.line n).framer with
          framePosition := (s.line n).framer.framePosition + 1
          payload := (s.line n).framer.payload ++ [(s.line n).framer.recentOctet] }
      else s.setFramer n { (s.line n).framer with
        framePosition := (s.line n).framer.framePosition + 1 } := by
  unfold State.framerStep
  dsimp only
  rw [h] <;> rfl

/-- Out of CONFIRM a bit joins the history alone (R2). -/
theorem Framer.push_of_ne {f : Framer} (h : f.state ≠ .confirm) (b : Bool) :
    f.push b = { f with history := (b :: f.history).take 5120 } :=
  Framer.pushed_of_ne h [b]

theorem Framer.push_of_confirm {f : Framer} (h : f.state = .confirm) (b : Bool) :
    f.push b = { f with
      history := (b :: f.history).take 5120
      candidateAge := f.candidateAge + 1, boundaryAge := f.boundaryAge + 1 } :=
  Framer.pushed_of_confirm h [b]

theorem Framer.pushed_framePosition (f : Framer) (k : Nat) (bits : List Bool) :
    ({ f with framePosition := k } : Framer).pushed bits = { f.pushed bits with framePosition := k } := rfl

theorem Framer.pushed_pushed (f : Framer) (a b : List Bool) : (f.pushed a).pushed b = f.pushed (a ++ b) := by
  induction a generalizing f with
  | nil =>
    unfold Framer.pushed
    simp only [List.reverse_nil, List.nil_append, List.length_nil, Nat.add_zero, take_append_take, ite_self]
  | cons x a ih => rw [List.cons_append, Framer.pushed_cons, Framer.pushed_cons, ih]

/-! ## The eight bits of a check, one by one -/

section
variable {s : State} {n : LineNo}

/-- The bits of CONFIRM short of the next check are counted and joined to the history alone (R4). -/
theorem State.takeBits_of_confirm (bits : List Bool) (h : (s.line n).framer.held = false)
    (hstate : (s.line n).framer.state = .confirm)
    (hage : (s.line n).framer.boundaryAge + bits.length < 328) :
    bits.foldl (fun t b => t.takeBit n b) s = bits.foldl (fun t b => t.recordBit n b) s := by
  induction bits generalizing s with
  | nil => rfl
  | cons b bits ih =>
    rw [List.length_cons] at hage
    have hline := s.bitTaken_framer n b
    rw [Framer.push_of_confirm hstate] at hline
    have hfirst : s.takeBit n b = s.recordBit n b := by
      rw [s.takeBit_of_free n h, State.framerStep_of_confirm (by rw [hline, hstate]), hline,
        if_neg (by dsimp only; omega), s.recordBit_of_free n h]
      rfl
    have hrecord : s.recordBit n b = s.bitTaken n b := s.recordBit_of_free n h b
    rw [List.foldl_cons, List.foldl_cons, hfirst, hrecord]
    exact ih (by rw [hline, h]) (by rw [hline, hstate]) (by rw [hline]; dsimp only; omega)

/-- The first bits of a frame advance the frame bit position as well (R6). -/
theorem State.takeBit_of_locked (b : Bool) (h : (s.line n).framer.held = false)
    (hstate : (s.line n).framer.state = .locked) (hpos : (s.line n).framer.framePosition + 1 < 8) :
    s.takeBit n b = s.setLine n { s.line n with
      bitCount := min 65535 ((s.line n).bitCount + 1)
      framer := { (s.line n).framer.pushed [b] with
        framePosition := (s.line n).framer.framePosition + 1 } } := by
  have hne : (s.line n).framer.state ≠ .confirm := by rw [hstate]; nofun
  have hline := s.bitTaken_framer n b
  rw [Framer.push_of_ne hne] at hline
  rw [s.takeBit_of_free n h, State.framerStep_of_locked (by rw [hline, hstate]), hline]
  dsimp only
  rw [if_neg (by omega), if_neg (by omega), if_neg (by omega), State.bitTaken_setFramer,
    Framer.pushed_of_ne hne]
  rfl

theorem State.takeBits_of_locked (b : Bool) (bits : List Bool) (h : (s.line n).framer.held = false)
    (hstate : (s.line n).framer.state = .locked)
    (hpos : (s.line n).framer.framePosition + (bits.length + 1) < 8) :
    (b :: bits).foldl (fun t c => t.takeBit n c) s = s.setLine n { s.line n with
      bitCount := min 65535 ((s.line n).bitCount + (bits.length + 1))
      framer := { (s.line n).framer.pushed (b :: bits) with
        framePosition := (s.line n).framer.framePosition + (bits.length + 1) } } := by
  induction bits generalizing s b with
  | nil => exact s.takeBit_of_locked b h hstate hpos
  | cons c bits ih =>
    rw [List.length_cons] at hpos
    have hnext := s.takeBit_of_locked b h hstate (by omega)
    have hline : (s.takeBit n b).line n = { s.line n with
        bitCount := min 65535 ((s.line n).bitCount + 1)
        framer := { (s.line n).framer.pushed [b] with
          framePosition := (s.line n).framer.framePosition + 1 } } := by
      rw [hnext, State.setLine_line_same]
    have hcount : min 65535 (min 65535 ((s.line n).bitCount + 1) + (bits.length + 1)) =
        min 65535 ((s.line n).bitCount + (bits.length + 1 + 1)) := by omega
    have hframe : (s.line n).framer.framePosition + 1 + (bits.length + 1) =
        (s.line n).framer.framePosition + (bits.length + 1 + 1) := by omega
    have hpushed : ({ (s.line n).framer.pushed [b] with
        framePosition := (s.line n).framer.framePosition + 1 } : Framer).pushed (c :: bits) =
          { (s.line n).framer.pushed (b :: c :: bits) with
            framePosition := (s.line n).framer.framePosition + 1 } := by
      rw [Framer.pushed_framePosition, Framer.pushed_pushed, List.singleton_append]
    rw [List.foldl_cons, ih c (by rw [hline]; exact h) (by rw [hline]; exact hstate)
      (by rw [hline]; dsimp only; omega), hline, hnext, State.setLine_setLine]
    dsimp only
    rw [hpushed, hcount, hframe, List.length_cons]

/-- An alignment check in LOCKED looks at no frame bit position (R6). -/
theorem State.lockedCheck_framePosition (l : Line) (k : Nat) :
    (s.setLine n { l with framer := { l.framer with framePosition := k } }).lockedCheck n =
      (s.setLine n l).lockedCheck n := by
  unfold State.lockedCheck State.setFramer State.modLine
  simp only [State.setLine_line_same, State.countAlignError_setLine, State.missed_line, State.missed_setLine,
    State.setLine_setLine]
  rfl

theorem bitsOf_eq_append (o : Octet) :
    ∃ b bits last, bitsOf o = (b :: bits) ++ [last] ∧ bits.length = 6 :=
  ⟨o.getLsbD 7, [o.getLsbD 6, o.getLsbD 5, o.getLsbD 4, o.getLsbD 3, o.getLsbD 2, o.getLsbD 1],
    o.getLsbD 0, rfl, rfl⟩

/-- The octet of a check of CONFIRM, bit by bit, ends in the check (R4). -/
theorem State.takeOctet_of_confirm (o : Octet) (h : (s.line n).framer.held = false)
    (hstate : (s.line n).framer.state = .confirm) (hage : (s.line n).framer.boundaryAge = 320) :
    (bitsOf o).foldl (fun t b => t.takeBit n b) s = (s.recordOctet n o).confirmCheck n := by
  obtain ⟨b, bits, last, hbits, hlen⟩ := bitsOf_eq_append o
  have hrecorded : ((b :: bits) ++ [last]).foldl (fun t b => t.recordBit n b) s = s.recordOctet n o := by
    rw [State.recordOctet, hbits]
  have hframer : ((s.recordOctet n o).line n).framer = (s.line n).framer.pushed (bitsOf o) := by
    rw [s.recordOctet_eq n h, State.setLine_line_same]
  have hboundary : ((s.line n).framer.pushed (bitsOf o)).boundaryAge = 328 := by
    rw [Framer.pushed_of_confirm hstate]
    exact congrArg (· + 8) hage
  have hseven := State.takeBits_of_confirm (b :: bits) h hstate (by rw [hage, List.length_cons]; omega)
  rw [List.foldl_append, List.foldl_cons, List.foldl_nil] at hrecorded
  have hfree : (((b :: bits).foldl (fun t b => t.recordBit n b) s).line n).framer.held = false := by
    rw [s.recordBits_eq n h, State.setLine_line_same]
    exact h
  rw [hbits, List.foldl_append, List.foldl_cons, List.foldl_nil, hseven, State.takeBit_of_free _ n hfree,
    State.bitTaken, ← State.recordBit_of_free _ n hfree, hrecorded,
    State.framerStep_of_confirm (by rw [hframer]; exact hstate), hframer, if_pos hboundary]

/-- The first octet of a frame in LOCKED, bit by bit, ends in the check (R6). -/
theorem State.takeOctet_of_locked (o : Octet) (h : (s.line n).framer.held = false)
    (hstate : (s.line n).framer.state = .locked) (hpos : (s.line n).framer.framePosition = 0) :
    (bitsOf o).foldl (fun t b => t.takeBit n b) s = (s.recordOctet n o).lockedCheck n := by
  obtain ⟨b, bits, last, hbits, hlen⟩ := bitsOf_eq_append o
  have hne : (s.line n).framer.state ≠ .confirm := by rw [hstate]; nofun
  have hseven := State.takeBits_of_locked b bits h hstate (by rw [hpos, hlen]; decide)
  rw [hpos, hlen] at hseven
  have hcount : min 65535 (min 65535 ((s.line n).bitCount + (6 + 1)) + 1) =
      min 65535 ((s.line n).bitCount + 8) := by omega
  have hpushed : (({ (s.line n).framer.pushed (b :: bits) with framePosition := 0 + (6 + 1) } : Framer).push
      last) = { (s.line n).framer.pushed (bitsOf o) with framePosition := 7 } := by
    rw [← Framer.pushed_singleton, Framer.pushed_framePosition, Framer.pushed_pushed, hbits]
  have hlast : (((b :: bits).foldl (fun t b => t.takeBit n b) s).bitTaken n last) =
      s.setLine n { s.line n with
        bitCount := min 65535 ((s.line n).bitCount + 8)
        framer := { (s.line n).framer.pushed (bitsOf o) with framePosition := 7 } } := by
    rw [hseven, State.bitTaken, State.setLine_line_same, State.setLine_setLine]
    dsimp only
    rw [hpushed, hcount]
  have hfree : (((b :: bits).foldl (fun t b => t.takeBit n b) s).line n).framer.held = false := by
    rw [hseven, State.setLine_line_same]
    exact h
  rw [hbits, List.foldl_append, List.foldl_cons, List.foldl_nil, State.takeBit_of_free _ n hfree, hlast,
    State.framerStep_of_locked (by rw [State.setLine_line_same]; exact hstate), State.setLine_line_same,
    if_pos rfl, s.recordOctet_eq n h]
  exact s.lockedCheck_framePosition { s.line n with
    bitCount := min 65535 ((s.line n).bitCount + 8), framer := (s.line n).framer.pushed (bitsOf o) } 7

/-- What is taken under a condition that holds. -/
theorem next_ite_of {c : Prop} [Decidable c] {s t : State} (h : c) :
    (Host.Outcome.next (if c then t else s) : Host.Outcome State Fault Refusal) = .next t := by
  rw [if_pos h]

variable (n) in
/-- Bits taken one by one, each by its command (R1). -/
theorem foldl_lineBitTaken (bits : List Bool) (h : s.phase ≠ .inReset) :
    bits.foldl (fun t b => match t with
        | .next u => exec (.lineBitTaken n b) u
        | .fault r => .fault r
        | .refused r => .refused r) (.next s : Host.Outcome State Fault Refusal) =
      .next (bits.foldl (fun t b => t.takeBit n b) s) := by
  induction bits generalizing s with
  | nil => rfl
  | cons b bits ih =>
    have hexec : exec (.lineBitTaken n b) s = .next (s.takeBit n b) := by
      show Host.Outcome.next (if s.outOfReset then s.takeBit n b else s) = _
      rw [if_pos (s.outOfReset_of_ne h)]
    rw [List.foldl_cons, List.foldl_cons]
    dsimp only
    rw [hexec]
    exact ih (by rw [(s.takeBit_quiet n b).phase]; exact h)

end

end Sys2Proof.Machine
end

section
/-!
PROOFS. The resumed search and a line bit.
-/
namespace Sys2Proof.Proofs

open Sys2Proof.Machine

/-- Settles O27, by induction on the bits: a candidate that fails leaves the search to the bits after it. -/
theorem resumedSearchTakesTheFirstSurvivor : Obligations.ResumedSearchTakesTheFirstSurvivor := by
  intro bits hlen octetAt survives
  have hsurvives : ∀ j m, survives j m ↔ Survives (bits.drop j) m := fun j m => by
    unfold Survives
    simp only [survives, octetAt, List.length_drop, List.drop_drop]
    exact forall_congr' fun k => imp_congr (by omega) Iff.rfl
  obtain ⟨hsome, hnone⟩ := resumeSearch_spec bits hlen
  refine ⟨fun c hc => ?_, fun hn j m hj => (hsurvives j m).not.mpr (hnone hn j m hj)⟩
  obtain ⟨j, m, hj, hsv, hage, hcount, hexp, hbefore⟩ := hsome c hc
  refine ⟨j, m, hj, (hsurvives j m).mpr hsv, hage, ?_, hexp, fun i m' hi => (hsurvives i m').not.mpr (hbefore i m' hi)⟩
  rw [hcount]
  unfold checksIn
  rw [List.length_drop]
  omega

/-- Settles O30, framer state by framer state. -/
theorem lineBitIsCountedAndOffered : Obligations.LineBitIsCountedAndOffered := by
  refine ⟨fun n b s hp => ?_, fun n o s hp => ?_⟩
  · intro l f history o taken
    have hexec : exec (.lineBitTaken n b) s = .next (s.takeBit n b) := by
      show Host.Outcome.next (if s.outOfReset then s.takeBit n b else s) = _
      rw [if_pos (s.outOfReset_of_ne hp)]
    have hfree : f.held = false → exec (.lineBitTaken n b) s = .next ((s.bitTaken n b).framerStep n) :=
      fun h => hexec.trans (congrArg _ (s.takeBit_of_free n h b))
    have hput : ∀ g, (s.bitTaken n b).setFramer n g = taken g := s.bitTaken_setFramer n b
    have hpush : f.state ≠ .confirm → (s.line n).framer.push b = { f with history := history } :=
      fun h => Framer.push_of_ne h b
    have hline : ((s.bitTaken n b).line n).framer = f.push b := s.bitTaken_framer n b
    have hrecent : ({ f with history := history } : Framer).recentOctet = o := rfl
    refine ⟨fun h => ?_, fun h hstate hshort => ?_, fun m h hstate hlong hm => ?_, fun h hstate hage => ?_,
      fun h hstate hpos => ?_, fun h hstate hpos hlow hhigh => ?_, fun h hstate hpos frame hframe => ?_⟩
    · rw [hexec, s.takeBit_of_held n h b]
    · have hne : f.state ≠ .confirm := by rw [hstate]; nofun
      rw [hfree h, State.framerStep_of_hunt (by rw [hline, hpush hne, hstate]), hput, hline, hpush hne]
      by_cases hlen : ({ f with history := history } : Framer).history.length < 8
      · rw [Framer.huntExamine, if_pos hlen]
      · have hcode : ∀ m : GroupPos, o ≠ alignmentCode m := hshort.resolve_left fun h => hlen (by
          show ((b :: f.history).take 5120).length < 8
          simp
          omega)
        have hnone : positionOfCode o = none := by
          cases hpos : positionOfCode o with
          | none => rfl
          | some m => exact absurd (positionOfCode_eq_some.mp hpos) (hcode m)
        rw [Framer.huntExamine_eq hlen, hrecent, hnone]
    · have hne : f.state ≠ .confirm := by rw [hstate]; nofun
      have hfull : ¬({ f with history := history } : Framer).history.length < 8 := by
        show ¬((b :: f.history).take 5120).length < 8
        simp
        omega
      rw [hfree h, State.framerStep_of_hunt (by rw [hline, hpush hne, hstate]), hput, hline, hpush hne,
        Framer.huntExamine_eq hfull, hrecent, positionOfCode_eq_some.mpr hm]
    · have hpushed : f.push b = { f with
          history := history, candidateAge := f.candidateAge + 1, boundaryAge := f.boundaryAge + 1 } :=
        Framer.push_of_confirm hstate b
      have hage' : ¬(f.push b).boundaryAge = 328 := by
        rw [hpushed]
        show ¬f.boundaryAge + 1 = 328
        omega
      rw [hfree h, State.framerStep_of_confirm (by rw [hline, hpushed, hstate]), hline, if_neg hage', ← hpushed]
      rfl
    · have hne : f.state ≠ .confirm := by rw [hstate]; nofun
      rw [hfree h, State.framerStep_of_locked (by rw [hline, hpush hne, hstate]), hput, hput, hline, hpush hne]
      dsimp only
      rw [if_neg (by omega), if_neg (by omega), if_neg hpos]
    · have hne : f.state ≠ .confirm := by rw [hstate]; nofun
      rw [hfree h, State.framerStep_of_locked (by rw [hline, hpush hne, hstate]), hput, hput, hline, hpush hne,
        hrecent]
      dsimp only
      rw [if_neg (by omega), if_neg (by omega), if_pos hpos]
    · have hne : f.state ≠ .confirm := by rw [hstate]; nofun
      have hdeliver : (s.bitTaken n b).deliver n = (taken { f with
          history := history, framePosition := 0, payload := [], expected := f.expected + 1 }).writeFrame n
            (f.payload ++ [o]) f.expected := by
        unfold State.deliver
        dsimp only
        rw [hput, hline, hpush hne, hrecent]
      have hdelivery : ∀ t : State, t.phase ≠ .inReset →
          exec (.frameDelivery n frame f.expected) t = .next (t.writeFrame n frame.toList f.expected) :=
        fun t ht => by
          show Host.Outcome.next (if t.outOfReset then t.writeFrame n frame.toList f.expected else t) = _
          rw [if_pos (t.outOfReset_of_ne ht)]
      rw [hfree h, State.framerStep_of_locked (by rw [hline, hpush hne, hstate]), hline, hpush hne]
      dsimp only
      rw [if_neg (by omega), if_pos (by omega), hdeliver, hdelivery (taken _) hp, hframe]
  · intro f taken hheld
    have htaken : taken = .next ((bitsOf o).foldl (fun t b => t.takeBit n b) s) :=
      foldl_lineBitTaken n (bitsOf o) hp
    refine ⟨fun hstate hage => ?_, fun hstate hpos => ?_⟩
    · have hin : s.framerIn n .confirm = true := State.framerIn_iff.mpr ⟨hp, hheld, hstate⟩
      rw [htaken, State.takeOctet_of_confirm o hheld hstate hage]
      exact (next_ite_of hin).symm
    · have hin : s.framerIn n .locked = true := State.framerIn_iff.mpr ⟨hp, hheld, hstate⟩
      rw [htaken, State.takeOctet_of_locked o hheld hstate hpos]
      exact (next_ite_of hin).symm

end Sys2Proof.Proofs
end

section
/-!
SUPPORT. The words of the report halves, list by list and field by field.
-/
namespace Sys2Proof.Machine

theorem placedFrom_eq_mapIdx (k : Nat) (l : List Word) :
    placedFrom k l = l.mapIdx fun i w => (k + i, w) := by
  induction l generalizing k with
  | nil => rfl
  | cons w l ih =>
    rw [placedFrom, ih, List.mapIdx_cons, Nat.add_zero]
    refine congrArg _ (congrArg₂ List.mapIdx (funext fun i => funext fun x => ?_) rfl)
    rw [Nat.add_assoc, Nat.add_comm 1 i]

/-- A packed word has the value of its fields, in whatever order they are summed. -/
theorem pack_eq {fields : List (Nat × Nat)} {v : Nat}
    (h : fields.foldl (fun acc f => acc + f.1 * 2 ^ f.2) 0 = v) : pack fields = word v :=
  congrArg word h

theorem WindowMode.bit_single (m : WindowMode) :
    bit (m == .single) = match m with | .continuous => 0 | .single => 1 := by
  cases m <;> rfl

theorem stagedModeCode_eq (x : Option (Nat × WindowMode)) :
    stagedModeCode x = match x with
      | none => 0 | some (_, .continuous) => 1 | some (_, .single) => 2 := by
  rcases x with _ | ⟨k, _ | _⟩ <;> rfl

theorem word_busCode (i : Bus) : word (busCode i) = match i with | .a => 0 | .b => 1 := by
  cases i <;> rfl

theorem SpareState.bank_code (x : SpareState) : (x.bank.map (·.val)).getD 0 =
    match x with | .standby => 0 | .mirror k | .spared k | .restore k => k.val := by
  cases x <;> rfl

theorem Line.service_eq (l : Line) : l.service = (l.state != .out) := by
  unfold Line.service
  cases l.state <;> rfl

/-- How many things answer a test, as the length of those that do. -/
theorem finRange_countP_eq {m : Nat} (f : Fin m → Bool) (p : Fin m → Prop) [DecidablePred p]
    (h : ∀ i, f i = true ↔ p i) :
    (List.finRange m).countP f = ((List.finRange m).filter fun i => decide (p i)).length := by
  rw [List.countP_eq_length_filter]
  refine congrArg List.length (congrArg₂ List.filter (funext fun i => ?_) rfl)
  rw [Bool.eq_iff_iff, h i, decide_eq_true_iff]

theorem Spare.outstanding_eq (s : State) : s.spare.outstanding =
    ((List.finRange 64).filter fun n => (s.cover n).mark = .pending).length :=
  finRange_countP_eq _ _ fun _ => beq_iff_eq

theorem Journal.heldCount_eq (s : State) : s.journal.heldCount =
    ((List.finRange 128).filter fun i => (s.journalSlot i).state = .held).length :=
  finRange_countP_eq _ _ fun _ => beq_iff_eq

theorem Journal.badCount_eq (s : State) : s.journal.badCount =
    ((List.finRange 128).filter fun i => (s.journalSlot i).state = .bad).length :=
  finRange_countP_eq _ _ fun _ => beq_iff_eq

/-- The frame counter's words are its bits 32 on, 16 on and 0 on. -/
theorem setWidth_ushiftRight_eq (x : BitVec 48) (k : Nat) : (x >>> k).setWidth 16 = x.extractLsb' k 16 := by
  refine BitVec.eq_of_getLsbD_eq fun i hi => ?_
  simp [hi]

theorem lineReport_head (l : Line) :
    pack [(l.state.code, 13), (l.framer.state.code, 11), (l.deadCount, 7), (l.lastCause.code, 3),
      (bit l.reader.recentrePending, 2), (bit l.reader.lastSubstituted, 1), (bit l.service, 0)] =
    word (8192 * l.state.code + 2048 * l.framer.state.code + 128 * l.deadCount
          + 8 * l.lastCause.code + 4 * bit l.reader.recentrePending + 2 * bit l.reader.lastSubstituted
          + bit (l.state != .out)) := by
  rw [l.service_eq]
  refine pack_eq ?_
  simp only [List.foldl]
  omega

theorem lineReport_window (l : Line) :
    pack [(l.confirmCount, 12), (l.lossCount, 8), (bit l.reader.slipEvents, 7), (bit l.window.counting, 6),
      (bit l.window.startPending, 5), (bit (l.window.mode == .single), 4), (stagedModeCode l.window.staged, 2),
      (bit l.window.reportWindows, 1)] =
    word (4096 * l.confirmCount + 256 * l.lossCount + 128 * bit l.reader.slipEvents
          + 64 * bit l.window.counting + 32 * bit l.window.startPending
          + 16 * (match l.window.mode with | .continuous => 0 | .single => 1)
          + 4 * (match l.window.staged with | none => 0 | some (_, .continuous) => 1 | some (_, .single) => 2)
          + 2 * bit l.window.reportWindows) := by
  rw [WindowMode.bit_single, stagedModeCode_eq]
  refine pack_eq ?_
  simp only [List.foldl]
  omega

theorem lineReport_flags (w : Window) :
    pack (flagFields w.record.flags ++ [(w.horizonLimit, 0)]) =
    word (32768 * bit w.record.flags.incomplete + 16384 * bit w.record.flags.noFill
          + 8192 * bit w.record.flags.refNotLocked + 4096 * bit w.record.flags.saturated + w.horizonLimit) := by
  refine pack_eq ?_
  simp only [flagFields, List.cons_append, List.nil_append, List.foldl]
  omega

theorem lineReport_output (l : Line) :
    pack [(l.idleCode.toNat, 8), (l.placement.bank.val, 5), (l.placement.unit.code, 4),
      (l.reader.lastDecision.code, 0)] =
    word (256 * l.idleCode.toNat + 32 * l.placement.bank.val + 16 * l.placement.unit.code
      + l.reader.lastDecision.code) := by
  refine pack_eq ?_
  simp only [List.foldl]
  omega

theorem lineReport_placement (p : Placement) :
    pack [(p.base, 8), (p.capacity, 0)] = word (256 * p.base + p.capacity) := by
  refine pack_eq ?_
  simp only [List.foldl]
  omega

theorem lineReport_ring (l : Line) :
    pack [(l.ring.readIndex, 10), (l.ring.held, 5), (l.placement.heldMax, 0)] =
    word (1024 * l.ring.readIndex + 32 * l.ring.held + l.placement.heldMax) := by
  refine pack_eq ?_
  simp only [List.foldl]
  omega

theorem timingReport_office (t : Timing) (holdreq : Bool) :
    pack [(bit t.realignPending, 0), (bit t.holdLatch, 1), (bit holdreq, 2), (t.history.length, 8)] =
    word (bit t.realignPending + 2 * bit t.holdLatch + 4 * bit holdreq + 256 * t.history.length) := by
  refine pack_eq ?_
  simp only [List.foldl]
  omega

theorem setWidth_eq_extractLsb' (x : BitVec 48) : x.setWidth 16 = x.extractLsb' 0 16 :=
  setWidth_ushiftRight_eq x 0

theorem storeReport_head (x y z : Nat) : pack [(x, 14), (y, 8), (z, 0)] = word (16384 * x + 256 * y + z) := by
  refine pack_eq ?_
  simp only [List.foldl]
  omega

theorem coverReport_eq (c : Coverage) :
    pack [(c.mark.code, 14), (c.count, 0)] = word (16384 * c.mark.code + c.count) := by
  refine pack_eq ?_
  simp only [List.foldl]
  omega

theorem monitorReport_head (m : Monitor) (freeze : Bool) :
    pack [(bit m.settings.enabled, 15), (bit m.settings.less, 14), (bit m.settings.edge, 13),
      (m.settings.overflowAction.code, 11), (bit m.armed, 10), (bit m.edgeHistory, 9), (bit m.overflow, 8),
      (bit freeze, 7), (m.settings.event.code, 0)] =
    word (32768 * bit m.settings.enabled + 16384 * bit m.settings.less + 8192 * bit m.settings.edge
          + 2048 * m.settings.overflowAction.code + 1024 * bit m.armed + 512 * bit m.edgeHistory
          + 256 * bit m.overflow + 128 * bit freeze + m.settings.event.code) := by
  refine pack_eq ?_
  simp only [List.foldl]
  omega

theorem busReport_eq (m : BusMonitor) : busReport m =
    [ word (16384 * m.state.code + 8192 * bit m.windowPassed + m.badCount), word m.goodCount,
        BitVec.ofInt 16 m.lastX ] := by
  refine congrArg (· :: _) (pack_eq ?_)
  simp only [List.foldl]
  omega

end Sys2Proof.Machine
end

section
/-!
PROOFS. The report halves.
-/
namespace Sys2Proof.Proofs

open Sys2Proof.Machine

/-- Settles O42, record by record and word by word. -/
theorem reportHalvesShowTheState : Obligations.ReportHalvesShowTheState := by
  refine ⟨fun s n => ?_, fun s => ?_, fun s => ?_, fun s i => ?_, fun s => ?_, rfl, rfl, rfl, rfl, rfl, rfl, rfl,
    rfl, fun _ => rfl, rfl, rfl, rfl, rfl⟩
  · refine (placedFrom_eq_mapIdx 21 (lineReport (s.line n))).trans (congrArg _ ?_)
    unfold lineReport
    dsimp only
    rw [lineReport_head, lineReport_window, lineReport_flags, lineReport_output, lineReport_placement,
      lineReport_ring, LineCounters.toList]
    simp only [List.map, List.flatten, halves, List.append_assoc, WindowRecord.words]
    rcases (s.line n).window.staged with _ | ⟨k, _ | _⟩ <;> rfl
  · refine (placedFrom_eq_mapIdx 21 (timingReport s.timing s.holdreq)).trans (congrArg _ ?_)
    unfold timingReport
    dsimp only
    rw [busReport_eq, busReport_eq, word_busCode]
    rw [timingReport_office, setWidth_ushiftRight_eq, setWidth_ushiftRight_eq, setWidth_eq_extractLsb']
    rfl
  · refine (placedFrom_eq_mapIdx 21 (storeReport s)).trans (congrArg _ ?_)
    unfold storeReport
    rw [SpareState.bank_code, Spare.outstanding_eq, storeReport_head]
    refine congrArg _ (List.map_congr_left fun n _ => coverReport_eq (s.cover n))
  · refine (placedFrom_eq_mapIdx 21 (monitorReport (s.monitor i) s.monitorUnit.freeze)).trans (congrArg _ ?_)
    unfold monitorReport
    dsimp only
    rw [monitorReport_head]
    rfl
  · refine congrArg (· ++ identityWords) ((placedFrom_eq_mapIdx 21 (directoryReport s)).trans (congrArg _ ?_))
    unfold directoryReport
    rw [Journal.heldCount_eq, Journal.badCount_eq]
    rfl

end Sys2Proof.Proofs
end

section
/-!
SUPPORT. A report that is not posted, the words of a post, and the grants that write them.
-/
namespace Sys2Proof.Machine

/-! ## The mask, the words and the serials -/

theorem pack_kind (k : Kind) (record : Nat) :
    pack [(k.code, 8), (record, 0)] = word (256 * k.code + record) := by
  refine pack_eq ?_
  simp only [List.foldl]
  omega

/-- The words of a post in order, word by word (R165). -/
theorem postedWords_eq (x : Report) (serial : Long) : postedWords x serial =
    [(4, word (256 * x.kind.code + x.record)), (5, highHalf x.stamp), (6, lowHalf x.stamp)]
      ++ (List.range 9).map (fun d => (7 + d, x.detail.getD d 0))
      ++ [(0, highHalf serial), (1, lowHalf serial)] := by
  rw [postedWords, pack_kind]

/-- The words of a post, each at its place in the slot (R165). -/
theorem mem_postedWords (x : Report) (serial : Long) :
    (0, highHalf serial) ∈ postedWords x serial ∧ (1, lowHalf serial) ∈ postedWords x serial ∧
    (4, word (256 * x.kind.code + x.record)) ∈ postedWords x serial ∧
    (5, highHalf x.stamp) ∈ postedWords x serial ∧ (6, lowHalf x.stamp) ∈ postedWords x serial ∧
    ∀ d, d < 9 → (7 + d, x.detail.getD d 0) ∈ postedWords x serial := by
  rw [postedWords_eq]
  refine ⟨by simp, by simp, by simp, by simp, by simp, fun d hd => ?_⟩
  exact List.mem_append_left _ (List.mem_append_right _ (List.mem_map.mpr ⟨d, List.mem_range.mpr hd, rfl⟩))

/-- A journal with no FREE slot (R168). -/
theorem Journal.freeSlot_eq_none {j : Journal} (h : ∀ i : Fin 128, j.slots[i].state ≠ .free) :
    j.freeSlot = none := by
  rw [Journal.freeSlot, List.find?_eq_none]
  intro i _
  rw [beq_iff_eq]
  exact h i

/-! ## A report that the writer takes -/

section
variable {s : State} {k : Kind} (record : Nat) (detail : List Word)

theorem State.post_of_masked (h : s.phase = .ready) (hl : s.journal.lets k = false) :
    s.post k record detail = s := by
  rw [State.post_of_ready k record detail h, if_neg (by rw [hl]; decide)]

theorem State.post_of_let (h : s.phase = .ready) (hl : s.journal.lets k = true) :
    s.post k record detail =
      s.handle { kind := k, record := record, stamp := s.timing.stamp, detail := detail } := by
  rw [State.post_of_ready k record detail h, if_pos hl]

end

theorem State.handle_of_halted {s : State} (h : s.journal.current = none) (hh : s.journal.halted = true)
    (x : Report) : s.handle x = s.countUnposted x.kind := by
  rw [State.handle_of_none h, if_pos hh]

/-- A report with no slot to take (R168). -/
theorem State.handle_of_full {s : State} (h : s.journal.current = none) (hh : s.journal.halted = false)
    (hf : s.journal.freeSlot = none) (x : Report) : s.handle x = s.noRoom x.kind := by
  rw [State.handle_of_none h, if_neg (by rw [hh]; decide), State.postUnmasked, State.place_of_full x _ hf]
  rfl

end Sys2Proof.Machine
end

section
/-!
PROOFS. What a report comes to.
-/
namespace Sys2Proof.Proofs

open Sys2Proof.Machine

/-- Settles O12, by the phase and the writer's state; a report that is posted is the one that stands. -/
theorem reportsArePostedOrCounted : Obligations.ReportsArePostedOrCounted := by
  refine ⟨fun s k record detail => ?_, fun s k record detail i hp hl hc hh hplans hfree hbelow => ?_⟩
  · intro counted
    refine ⟨fun h => State.post_of_reset k record detail h, fun h => State.post_of_restarting k record detail h,
      fun h hl => State.post_of_masked record detail h hl, fun h hl => ⟨fun hc => ?_, fun hc hh => ?_,
        fun hc hh hfree => ?_⟩⟩
    all_goals rw [State.post_of_let record detail h hl]
    · exact State.handle_of_current hc _
    · exact State.handle_of_halted hc hh _
    · exact State.handle_of_full hc hh (Journal.freeSlot_eq_none hfree) _
  · intro t serial stamp
    let x : Report := { kind := k, record := record, stamp := s.timing.stamp, detail := detail }
    have ht : t = _ := State.post_stands s k record detail hp hl hc hh
      (Journal.freeSlot_eq_some.mpr ⟨hfree, hbelow⟩) hplans
    have hbase : journalBase i = 0x1800 + 16 * i.val := rfl
    have hword : ∀ w v, (w, v) ∈ postedWords x serial → t.memWord (0x1800 + 16 * i.val + w) = { raw := v } :=
      fun w v hmem => by
        rw [ht, State.modJournal_memWord, ← hbase]
        exact s.slotWrites_memWord x i serial hmem
    obtain ⟨h0, h1, h4, h5, h6, h7⟩ := mem_postedWords x serial
    have hhigh := hword 0 (highHalf serial) h0
    rw [Nat.add_zero] at hhigh
    refine ⟨?_, hhigh, hword 1 _ h1, hword 4 _ h4, hword 5 _ h5, hword 6 _ h6, fun d hd => ?_, fun a ha => ?_⟩
    · rw [ht, s.memWriteAll_frame]
      simp only [State.modJournal, hc, nextSerialAfter] <;> rfl
    · rw [Nat.add_assoc]
      exact hword (7 + d) (detail.getD d 0) (h7 d hd)
    · rw [ht, State.modJournal_memWord]
      refine s.slotWrites_memWord_ne x i serial fun w hw => ?_
      have hin : w < 16 ∧ w ≠ 2 ∧ w ≠ 3 := by
        revert w
        decide
      exact ha w hin.1 hin.2.1 hin.2.2

end Sys2Proof.Proofs
end

section
/-!
SUPPORT. Where reports leave the journal alone: the writer takes FREE slots, and writes in them the words
of a post and no others.
-/
namespace Sys2Proof.Machine

/-! ## The writing of one slot -/

/-- From s to t one slot is written at most, at the words of a post. -/
structure State.WritesSlot (i : Fin 128) (s t : State) : Prop where
  plans : t.journal.plans <:+ s.journal.plans
  kindMask : t.journal.kindMask = s.journal.kindMask
  attention : t.attention = s.attention
  slots : ∀ k, k ≠ i → t.journalSlot k = s.journalSlot k
  memory : ∀ a, (∀ w ∈ readBackWords, a ≠ journalBase i + w) → t.memWord a = s.memWord a

section
variable {i : Fin 128} {s t u : State}

theorem State.WritesSlot.trans (h : State.WritesSlot i s t) (g : State.WritesSlot i t u) :
    State.WritesSlot i s u where
  plans := g.plans.trans h.plans
  kindMask := g.kindMask.trans h.kindMask
  attention := g.attention.trans h.attention
  slots k hk := (g.slots k hk).trans (h.slots k hk)
  memory a ha := (g.memory a ha).trans (h.memory a ha)

theorem State.WritesSlot.of_memory {m : Memory} (h : t = { s with memory := m })
    (hm : ∀ a, (∀ w ∈ readBackWords, a ≠ journalBase i + w) → t.memWord a = s.memWord a) :
    State.WritesSlot i s t where
  plans := by rw [h]
  kindMask := by rw [h]
  attention := by rw [h]
  slots k _ := by rw [h]; rfl
  memory := hm

variable (s)

theorem State.setJournalSlot_writesSlot (x : JournalSlot) : State.WritesSlot i s (s.setJournalSlot i x) where
  plans := List.suffix_rfl
  kindMask := rfl
  attention := rfl
  slots _ hk := s.setJournalSlot_journalSlot_ne hk x
  memory _ _ := rfl

/-- A change of the writer's own items that keeps the slots and the mask. -/
theorem State.modJournal_writesSlot {f : Journal → Journal} (hp : (f s.journal).plans <:+ s.journal.plans)
    (hk : (f s.journal).kindMask = s.journal.kindMask) (hs : (f s.journal).slots = s.journal.slots) :
    State.WritesSlot i s (s.modJournal f) where
  plans := hp
  kindMask := hk
  attention := rfl
  slots k _ := congrArg (fun v : Vector JournalSlot 128 => v[k]) hs
  memory _ _ := rfl

theorem State.strikeSlot_writesSlot {hits : List (Fin 16 × Nat)} (h : ∀ x ∈ hits, x.1 ≠ 2 ∧ x.1 ≠ 3) :
    State.WritesSlot i s (s.strikeSlot i hits) :=
  .of_memory (s.strikeSlot_frame i hits) fun _ ha => s.strikeSlot_memWord_ne i fun x hx =>
    ha _ (mem_readBackWords (h x hx).1 (h x hx).2)

theorem State.mendSlot_writesSlot (x : Report) (serial : Long) :
    State.WritesSlot i s (s.mendSlot i (postedWords x serial)) :=
  .of_memory (s.mendSlot_frame i _) fun _ ha => s.mendSlot_memWord_ne i fun _ hp =>
    ha _ (mem_readBackWords_of_posted hp)

/-- The words that a post writes in one go, by their addresses (R165). -/
def PostInProgress.nextWrites (c : PostInProgress) (k : Nat) : List (Nat × Word) :=
  (((postedWords c.report c.serial).take k).drop c.written).map fun p => (journalBase c.slot + p.1, p.2)

theorem PostInProgress.mem_nextWrites {c : PostInProgress} {k : Nat} {q : Nat × Word}
    (hq : q ∈ c.nextWrites k) : ∃ p ∈ postedWords c.report c.serial, q = (journalBase c.slot + p.1, p.2) := by
  obtain ⟨p, hp, rfl⟩ := List.mem_map.mp hq
  exact ⟨p, List.mem_of_mem_take (List.mem_of_mem_drop hp), rfl⟩

theorem State.writeUpTo_eq (c : PostInProgress) (k : Nat) :
    s.writeUpTo c k = (s.memWriteAll (c.nextWrites k)).modJournal fun j =>
      { j with nextSerial := if 14 ≤ k then nextSerialAfter c.serial else j.nextSerial } := rfl

theorem State.writeUpTo_writesSlot (c : PostInProgress) (k : Nat) :
    State.WritesSlot c.slot s (s.writeUpTo c k) := by
  rw [s.writeUpTo_eq]
  refine .trans (.of_memory (s.memWriteAll_frame _) fun a ha => s.memWriteAll_memWord_ne fun q hq => ?_)
    (State.modJournal_writesSlot _ List.suffix_rfl rfl rfl)
  obtain ⟨p, hp, rfl⟩ := PostInProgress.mem_nextWrites hq
  exact (ha _ (mem_readBackWords_of_posted hp)).symm

theorem State.readBack_writesSlot (x : Report) (serial : Long) :
    State.WritesSlot i s (s.readBack i x serial).1 := by
  unfold State.readBack
  dsimp only
  split
  · exact (s.mendSlot_writesSlot x serial).trans (State.setJournalSlot_writesSlot _ _)
  · exact (s.mendSlot_writesSlot x serial).trans (State.setJournalSlot_writesSlot _ _)

/-- A post goes on in its own slot alone, where its plan strikes words of the post (R165, R166). -/
theorem State.writeOn_writesSlot {c : PostInProgress} (h : ∀ x ∈ c.plan.hits, x.1 ≠ 2 ∧ x.1 ≠ 3) :
    State.WritesSlot c.slot s (s.writeOn c).1 := by
  unfold State.writeOn
  split
  · dsimp only
    exact (s.writeUpTo_writesSlot c _).trans (State.modJournal_writesSlot _ List.suffix_rfl rfl rfl)
  · exact (((s.writeUpTo_writesSlot c 14).trans
      (State.modJournal_writesSlot _ List.suffix_rfl rfl rfl)).trans
        (State.strikeSlot_writesSlot _ h)).trans (State.readBack_writesSlot _ _ _)

end

/-! ## Reports in FREE slots -/

/-- Plans that strike words of a post alone. -/
def State.StrikesPosted (s : State) : Prop :=
  ∀ plan ∈ s.journal.plans, ∀ x ∈ plan.hits, x.1 ≠ 2 ∧ x.1 ≠ 3

/-- From s to t reports have been taken into FREE slots, counted or left waiting. -/
structure State.FillsFree (s t : State) : Prop where
  plans : t.journal.plans <:+ s.journal.plans
  kindMask : t.journal.kindMask = s.journal.kindMask
  attention : t.attention = { s.attention with lost := t.attention.lost, critical := t.attention.critical }
  lost : s.attention.lost = true → t.attention.lost = true
  critical : s.attention.critical = true → t.attention.critical = true
  slots : ∀ i, (s.journalSlot i).state ≠ .free → t.journalSlot i = s.journalSlot i
  memory : ∀ a, (∀ i, (s.journalSlot i).state = .free → ∀ w ∈ readBackWords, a ≠ journalBase i + w) →
    t.memWord a = s.memWord a

section
variable {s t u : State}

theorem State.FillsFree.refl (s : State) : State.FillsFree s s where
  plans := List.suffix_rfl
  kindMask := rfl
  attention := rfl
  lost := id
  critical := id
  slots _ _ := rfl
  memory _ _ := rfl

theorem State.FillsFree.trans (h : State.FillsFree s t) (g : State.FillsFree t u) : State.FillsFree s u where
  plans := g.plans.trans h.plans
  kindMask := g.kindMask.trans h.kindMask
  attention := by rw [g.attention, h.attention]
  lost := g.lost ∘ h.lost
  critical := g.critical ∘ h.critical
  slots i hi := by
    have ht := h.slots i hi
    rw [g.slots i (by rw [ht]; exact hi), ht]
  memory a ha := by
    rw [g.memory a fun i hi w hw => ha i (not_not.mp fun hs => hs ?_) w hw, h.memory a ha]
    rw [← h.slots i hs, hi]

theorem State.FillsFree.strikesPosted (h : State.FillsFree s t) (hs : s.StrikesPosted) : t.StrikesPosted :=
  fun plan hp => hs plan (h.plans.subset hp)

theorem State.WritesSlot.fillsFree {i : Fin 128} (h : State.WritesSlot i s t)
    (hi : (s.journalSlot i).state = .free) : State.FillsFree s t where
  plans := h.plans
  kindMask := h.kindMask
  attention := by rw [h.attention]
  lost := by rw [h.attention]; exact id
  critical := by rw [h.attention]; exact id
  slots k hk := h.slots k fun e => hk (e ▸ hi)
  memory a ha := h.memory a (ha i hi)

variable (s)

theorem State.countUnposted_fillsFree (k : Kind) : State.FillsFree s (s.countUnposted k) where
  plans := List.suffix_rfl
  kindMask := rfl
  attention := rfl
  lost := id
  critical := id
  slots _ _ := rfl
  memory _ _ := rfl

theorem State.noRoom_fillsFree (k : Kind) : State.FillsFree s (s.noRoom k) where
  plans := List.suffix_rfl
  kindMask := rfl
  attention := rfl
  lost _ := rfl
  critical := id
  slots _ _ := rfl
  memory _ _ := rfl

theorem State.haltJournal_fillsFree : State.FillsFree s s.haltJournal where
  plans := List.suffix_rfl
  kindMask := rfl
  attention := rfl
  lost := id
  critical _ := rfl
  slots _ _ := rfl
  memory _ _ := rfl

/-- A report is placed in a slot that was FREE, or in none (R165). -/
theorem State.place_fillsFree (h : s.StrikesPosted) (x : Report) (stage : PostStage) :
    State.FillsFree s (s.place x stage).1 := by
  cases hi : s.journal.freeSlot with
  | none => rw [State.place_of_full x stage hi]; exact .refl s
  | some i =>
    unfold State.place
    rw [hi]
    dsimp only
    refine State.WritesSlot.fillsFree (i := i) ?_ (Journal.freeSlot_eq_some.mp hi).1
    have hstart := (s.setJournalSlot_writesSlot (i := i)
      { state := .held, serial := s.journal.nextSerial, posting := true }).trans
        (State.modJournal_writesSlot (f := fun j => { j with plans := j.plans.tail }) _
          (List.tail_suffix _) rfl rfl)
    refine hstart.trans (State.writeOn_writesSlot (c := {
      slot := i, serial := s.journal.nextSerial, report := x, stage := stage, written := 0
      plan := s.journal.plans.headD {} }) _ fun p hp => ?_)
    cases hplans : s.journal.plans with
    | nil =>
      rw [hplans] at hp
      exact absurd hp List.not_mem_nil
    | cons plan plans =>
      rw [hplans] at hp
      exact h plan (by rw [hplans]; exact List.mem_cons_self) p hp

theorem Report.afterRetry_fillsFree (x : Report) (p : Placed) : State.FillsFree s (x.afterRetry (s, p)) := by
  cases p with
  | noSlot => exact s.noRoom_fillsFree _
  | waits => exact .refl s
  | stands => exact .refl s
  | failed i serial => exact s.haltJournal_fillsFree.trans (State.countUnposted_fillsFree _ _)

theorem State.retry_fillsFree (h : s.StrikesPosted) (x : Report) : State.FillsFree s (s.retry x) :=
  (s.place_fillsFree h x .retry).trans (Report.afterRetry_fillsFree _ x _)

theorem Report.afterSlotBad_fillsFree (h : s.StrikesPosted) (x : Report) (p : Placed) :
    State.FillsFree s (x.afterSlotBad (s, p)) := by
  cases p with
  | noSlot => exact (s.noRoom_fillsFree _).trans (State.retry_fillsFree (s.noRoom .journalSlotBad) h x)
  | waits => exact .refl s
  | stands => exact s.retry_fillsFree h x
  | failed i serial =>
    exact (s.haltJournal_fillsFree.trans (State.countUnposted_fillsFree _ _)).trans
      (State.countUnposted_fillsFree _ _)

theorem Report.afterFirst_fillsFree (h : s.StrikesPosted) (x : Report) (p : Placed) :
    State.FillsFree s (x.afterFirst (s, p)) := by
  cases p with
  | noSlot => exact s.noRoom_fillsFree _
  | waits => exact .refl s
  | stands => exact .refl s
  | failed i serial =>
    unfold Report.afterFirst
    dsimp only
    split
    · have hplaced := s.place_fillsFree h (slotBadReport x s.timing.stamp i serial) (.slotBad x)
      exact hplaced.trans (Report.afterSlotBad_fillsFree _ (hplaced.strikesPosted h) x _)
    · exact s.retry_fillsFree h x

theorem State.handle_fillsFree (h : s.StrikesPosted) (x : Report) : State.FillsFree s (s.handle x) := by
  by_cases hc : s.journal.current = none
  · rw [State.handle_of_none hc]
    split
    · exact s.countUnposted_fillsFree _
    · have hplaced := s.place_fillsFree h x .first
      exact hplaced.trans (Report.afterFirst_fillsFree _ (hplaced.strikesPosted h) x _)
  · rw [State.handle_of_current hc]
    exact ⟨List.suffix_rfl, rfl, rfl, id, id, fun _ _ => rfl, fun _ _ => rfl⟩

/-- Whatever a report comes to, it leaves alone what is not FREE (R162, R165, R166, R168, R169). -/
theorem State.post_fillsFree (h : s.StrikesPosted) (k : Kind) (record : Nat) (detail : List Word) :
    State.FillsFree s (s.post k record detail) := by
  cases hp : s.phase with
  | inReset => rw [State.post_of_reset k record detail (.inl hp)]; exact .refl s
  | initialising => rw [State.post_of_reset k record detail (.inr hp)]; exact .refl s
  | restarting =>
    rw [State.post_of_restarting k record detail hp]
    exact ⟨List.suffix_rfl, rfl, rfl, id, id, fun _ _ => rfl, fun _ _ => rfl⟩
  | ready =>
    rw [State.post_of_ready k record detail hp]
    split
    · exact s.handle_fillsFree h _
    · exact .refl s

end

/-- A slot's words are no other slot's. -/
theorem journalBase_add_ne {i k : Fin 128} (h : i ≠ k) {v w : Nat} (hv : v < 16) (hw : w < 16) :
    journalBase i + v ≠ journalBase k + w := by
  rw [Laws.journalBase_eq, Laws.journalBase_eq]
  omega

theorem lt_of_mem_readBackWords {w : Nat} (h : w ∈ readBackWords) : w < 16 := by
  revert w
  decide

end Sys2Proof.Machine
end

section
/-!
PROOFS. The frame of a report.
-/
namespace Sys2Proof.Proofs

open Sys2Proof.Machine

/-- Settles O15: a report fills FREE slots, whose posted words no host owns. -/
theorem reportsLeaveTheRestAlone : Obligations.ReportsLeaveTheRestAlone := by
  intro s k record detail hplans
  have h : State.FillsFree s (s.post k record detail) := s.post_fillsFree hplans k record detail
  refine ⟨⟨s.post_frame k record detail, fun a ha => h.memory a fun i _ w hw => ?_, h.kindMask, h.attention,
    h.lost, h.critical⟩, fun i hi => ⟨h.slots i hi, fun w hw => h.memory _ fun j hj v hv => ?_⟩⟩
  · have hbound : w < 16 ∧ w ≠ 2 ∧ w ≠ 3 := by
      revert w
      decide
    rintro rfl
    rcases ha with ha | ha
    · rw [Laws.journalBase_eq, Laws.journalStart_eq] at ha
      omega
    · rw [ownerOf_journal hbound.1 hbound.2.1 hbound.2.2] at ha
      cases ha
  · exact journalBase_add_ne (fun e : i = j => hi (e ▸ hj)) hw (lt_of_mem_readBackWords hv)

end Sys2Proof.Proofs
end

section
/-!
SUPPORT. A post in progress: what its next grants write, where it stops, and how it ends.
-/
namespace Sys2Proof.Machine

/-! ## The words of a grant -/

section
variable (s : State) (c : PostInProgress) (k : Nat)

theorem PostInProgress.nextWrites_nodup : ((c.nextWrites k).map (·.1)).Nodup := by
  have hsub : (c.nextWrites k).Sublist (slotWrites c.slot c.report c.serial) :=
    ((List.drop_sublist _ _).trans (List.take_sublist _ _)).map _
  exact (slotWrites_nodup c.report c.slot c.serial).sublist (hsub.map _)

/-- A word that a grant writes stands clean in the slot (R165). -/
theorem State.nextWrites_memWord {p : Nat × Word}
    (hp : p ∈ ((postedWords c.report c.serial).take k).drop c.written) :
    (s.memWriteAll (c.nextWrites k)).memWord (journalBase c.slot + p.1) = { raw := p.2 } :=
  s.memWriteAll_memWord_mem (c.nextWrites_nodup k) (p := (journalBase c.slot + p.1, p.2))
    (List.mem_map_of_mem (f := fun p => (journalBase c.slot + p.1, p.2)) hp)

theorem State.nextWrites_memWord_ne {a : Nat}
    (h : ∀ p ∈ ((postedWords c.report c.serial).take k).drop c.written, a ≠ journalBase c.slot + p.1) :
    (s.memWriteAll (c.nextWrites k)).memWord a = s.memWord a := by
  refine s.memWriteAll_memWord_ne fun q hq => ?_
  obtain ⟨p, hp, rfl⟩ := List.mem_map.mp hq
  exact (h p hp).symm

/-- A post that a stop of its plan halts waits with the words up to there written (R148, R165). -/
theorem State.writeOn_of_stop {rest : List Nat} (h : c.plan.stops = k :: rest) :
    s.writeOn c = ({ s with
      memory := (s.memWriteAll (c.nextWrites k)).memory
      journal := { s.journal with
        nextSerial := if 14 ≤ k then nextSerialAfter c.serial else s.journal.nextSerial
        current := some { c with
          written := max c.written k, plan := { c.plan with stops := rest } } } }, .waits) := by
  unfold State.writeOn
  rw [h]
  dsimp only
  rw [s.writeUpTo_eq, s.memWriteAll_frame]
  rfl

/-- The state in which a post has come to its end (R165, R166). -/
def State.postEnded : State :=
  { s with
    memory := (s.memWriteAll (c.nextWrites 14)).memory
    journal := { s.journal with
      slots := s.journal.slots.set c.slot { state := .held, serial := c.serial }
      nextSerial := nextSerialAfter c.serial, current := none } }

variable {c}

/-- A post that nothing stops or strikes any more stands, if what it wrote before is in order (R165,
R166). -/
theorem State.writeOn_of_end (hplan : c.plan = {})
    (hclean : ∀ p ∈ (postedWords c.report c.serial).take c.written,
      (s.memWord (journalBase c.slot + p.1)).errors = []) :
    s.writeOn c = (s.postEnded c, .stands) := by
  have hwords : ∀ w ∈ readBackWords,
      ((s.memWriteAll (c.nextWrites 14)).memWord (journalBase c.slot + w)).condition = .clean := by
    intro w hw
    refine MemWord.condition_of_nil ?_
    by_cases h : ∃ p ∈ ((postedWords c.report c.serial).take 14).drop c.written, p.1 = w
    · obtain ⟨p, hp, rfl⟩ := h
      rw [s.nextWrites_memWord c 14 hp]
    · obtain ⟨p, hp, rfl⟩ := exists_mem_postedWords c.report c.serial hw
      rw [s.nextWrites_memWord_ne c 14 fun q hq e => h ⟨q, hq, by omega⟩]
      refine hclean p ((List.mem_append.mp ?_).resolve_right fun hd => h ⟨p, hd, rfl⟩)
      rw [show (postedWords c.report c.serial).take 14 = postedWords c.report c.serial from rfl,
        List.take_append_drop]
      exact hp
  unfold State.writeOn
  rw [hplan]
  dsimp only
  have hback := State.readBack_of_clean ((s.memWriteAll (c.nextWrites 14)).modJournal fun j =>
    { j with nextSerial := nextSerialAfter c.serial, current := none }) c.report c.slot c.serial hwords
  rw [State.strikeSlot, List.foldl_nil, s.writeUpTo_eq]
  refine hback.trans ?_
  rw [s.memWriteAll_frame]
  rfl

end

/-! ## The reports that follow a post -/

section
variable {s : State} (x : Report)

/-- The writer idle, with nothing to befall the slot writes to come. -/
structure State.Idle (s : State) : Prop where
  current : s.journal.current = none
  running : s.journal.halted = false
  plans : s.journal.plans = []

/-- A report that an idle writer takes (R165, R168). -/
theorem State.Idle.handle_eq (h : s.Idle) : s.handle x =
    match s.journal.freeSlot with
    | none => s.noRoom x.kind
    | some i => s.filled i .held (s.slotWritten i x).memory := by
  rw [State.handle_of_none h.current, if_neg (by rw [h.running]; decide), State.postUnmasked]
  cases hi : s.journal.freeSlot with
  | none => rw [State.place_of_full x _ hi]; rfl
  | some i => rw [State.place_unstruck x _ hi (by rw [h.plans]; rfl)]; rfl

/-- Where nothing is to befall it, the retry of a report is its handling (R166). -/
theorem State.Idle.retry_eq (h : s.Idle) : s.retry x = s.handle x := by
  rw [h.handle_eq, State.retry]
  cases hi : s.journal.freeSlot with
  | none => rw [State.place_of_full x _ hi]; rfl
  | some i => rw [State.place_unstruck x _ hi (by rw [h.plans]; rfl)]; rfl

/-- The reports that a placing which stands is followed by (R166). -/
def PostStage.told : PostStage → List Report
  | .first | .retry => []
  | .slotBad x => [x]

theorem State.Idle.after_stands (h : s.Idle) (c : PostInProgress) :
    c.after (s, .stands) = c.stage.told.foldl State.handle s := by
  unfold PostInProgress.after
  cases c.stage with
  | first => rfl
  | retry => rfl
  | slotBad x => exact h.retry_eq x

/-- The reports that wait, taken off the list. -/
def State.noneWaiting (s : State) : State := s.modJournal fun j => { j with waiting := [] }

theorem State.Idle.noneWaiting (h : s.Idle) : s.noneWaiting.Idle := ⟨h.current, h.running, h.plans⟩

/-- An idle writer handles a report whatever list of others it keeps. -/
theorem State.Idle.handle_noneWaiting (h : s.Idle) : s.noneWaiting.handle x = (s.handle x).noneWaiting := by
  rw [h.handle_eq, h.noneWaiting.handle_eq, show s.noneWaiting.journal.freeSlot = s.journal.freeSlot from rfl]
  cases hi : s.journal.freeSlot with
  | none => rfl
  | some i =>
    dsimp only
    rw [State.noneWaiting, State.slotWritten, State.memWriteAll_modJournal]
    rfl

/-- What an idle writer's handling of a report keeps of its items. -/
theorem State.Idle.handle_keeps (h : s.Idle) : (s.handle x).journal.current = none ∧
    (s.handle x).journal.waiting = s.journal.waiting ∧
    (s.handle x).journal.dropCount = s.journal.dropCount := by
  rw [h.handle_eq]
  cases hi : s.journal.freeSlot with
  | none => exact ⟨h.current, rfl, rfl⟩
  | some i => exact ⟨rfl, rfl, rfl⟩

theorem State.Idle.told_keeps (h : s.Idle) (p : PostStage) :
    (p.told.foldl State.handle s).journal.current = none ∧
    (p.told.foldl State.handle s).journal.waiting = s.journal.waiting ∧
    (p.told.foldl State.handle s).journal.dropCount = s.journal.dropCount := by
  cases p with
  | first => exact ⟨h.current, rfl, rfl⟩
  | retry => exact ⟨h.current, rfl, rfl⟩
  | slotBad x => exact h.handle_keeps x

theorem State.Idle.told_noneWaiting (h : s.Idle) (p : PostStage) :
    p.told.foldl State.handle s.noneWaiting = (p.told.foldl State.handle s).noneWaiting := by
  cases p with
  | first => rfl
  | retry => rfl
  | slotBad x => exact h.handle_noneWaiting x

end

/-! ## Grants and restarts -/

section
variable {s : State}

/-- A report that reaches a post in progress waits, in order (R165). -/
theorem State.foldl_handle_of_current (l : List Report) (h : s.journal.current ≠ none) :
    l.foldl State.handle s = s.modJournal fun j => { j with waiting := j.waiting ++ l } := by
  induction l generalizing s with
  | nil =>
    unfold State.modJournal
    simp only [List.append_nil]
    rfl
  | cons x l ih =>
    rw [List.foldl_cons, State.handle_of_current h, ih (by exact h)]
    simp [State.modJournal]

/-- A placing that waits leaves what follows it to later grants (R166). -/
theorem PostInProgress.after_waits (c : PostInProgress) (t : State) : c.after (t, .waits) = t := by
  unfold PostInProgress.after
  cases c.stage <;> rfl

theorem State.goOn_of_some {c : PostInProgress} (h : s.journal.current = some c) :
    s.goOn = (c.after (s.writeOn c)).journal.waiting.foldl State.handle (c.after (s.writeOn c)).noneWaiting := by
  unfold State.goOn
  rw [h]
  rfl

theorem State.finishPost_of_some {c : PostInProgress} (h : s.journal.current = some c)
    (hplan : c.plan.stops = []) (hplans : s.journal.plans = []) :
    s.finishPost = c.after (s.writeOn c) := by
  have hs : (s.modJournal fun j => { j with plans := j.plans.map fun p => { p with stops := [] } }) = s := by
    unfold State.modJournal
    simp only [hplans, List.map_nil]
    rw [← hplans]
  have hc : ({ c with plan := { c.plan with stops := [] } } : PostInProgress) = c := by
    rw [← hplan]
  unfold State.finishPost
  rw [h]
  dsimp only
  rw [hs, hc]

theorem State.ready_of_phase {s : State} (h : s.phase = .ready) : s.ready = true := by
  rw [State.ready, h]
  rfl

theorem exec_engineRestart_of_ready (h : s.phase = .ready) :
    exec .engineRestart s = .next (s.askRestart.finishStep.takeRestart.answerPort (.writeDone false)) := by
  have hready := State.ready_of_phase h
  have hopen : s.portClosed = false := by rw [State.portClosed, h]; rfl
  show Host.Outcome.next s.writeRestart = _
  rw [State.writeRestart, State.registerWrite, if_neg (by rw [hopen]; decide), if_pos hready]
  rfl

/-- Restarts asked for to the same end are the same restart (R155). -/
theorem exec_engineRestart_congr {t : State} (hs : s.phase = .ready) (ht : t.phase = .ready)
    (h : s.askRestart = t.askRestart) : exec .engineRestart s = exec .engineRestart t := by
  rw [exec_engineRestart_of_ready hs, exec_engineRestart_of_ready ht, h]

/-- A restart counts the reports that wait as dropped, whether it or the state before it does (R155,
R169). -/
theorem State.askRestart_of_finished {v : State} (hfin : s.finishPost.noneWaiting = v)
    (hcurrent : v.journal.current = none) :
    s.askRestart = State.askRestart { v with journal := { v.journal with
      dropCount := min 65535 (s.finishPost.journal.dropCount + s.finishPost.journal.waiting.length) } } := by
  subst hfin
  have hmin : ∀ a : Nat, satAdd 65535 (min 65535 a) ([] : List Report).length = min 65535 a := fun a => by
    simp [satAdd]
  refine Eq.trans ?_ (State.askRestart_of_none (s := { s.finishPost.noneWaiting with
    journal := { s.finishPost.noneWaiting.journal with
      dropCount := min 65535 (s.finishPost.journal.dropCount + s.finishPost.journal.waiting.length) } })
    hcurrent).symm
  unfold State.askRestart
  generalize s.finishPost = u
  simp only [State.noneWaiting, State.modJournal, State.modPatrol, State.setPhase, hmin]
  rfl

theorem State.goOn_journal_stop {c : PostInProgress} {k : Nat} {rest : List Nat}
    (h : s.journal.current = some c) (hstops : c.plan.stops = k :: rest) (hk : c.written ≤ k) :
    s.goOn = { s with
      memory := (s.memWriteAll (c.nextWrites k)).memory
      journal := { s.journal with
        nextSerial := if 14 ≤ k then nextSerialAfter c.serial else s.journal.nextSerial
        current := some { c with written := k, plan := { c.plan with stops := rest } } } } := by
  rw [State.goOn_of_some h, s.writeOn_of_stop c k hstops, PostInProgress.after_waits,
    State.foldl_handle_of_current _ (by nofun), Nat.max_eq_right hk]
  simp only [State.noneWaiting, State.modJournal, List.nil_append]

end

end Sys2Proof.Machine
end

section
/-!
PROOFS. A post over many grants.
-/
namespace Sys2Proof.Proofs

open Sys2Proof.Machine

/-- What a run of grants writes, in a state of which it gives the memory. -/
theorem nextWrites_words {s t : State} {c : PostInProgress} {k : Nat}
    (ht : t.memory = (s.memWriteAll (c.nextWrites k)).memory) :
    (∀ p ∈ ((postedWords c.report c.serial).take k).drop c.written,
      t.memWord (0x1800 + 16 * c.slot.val + p.1) = { raw := p.2 }) ∧
    ∀ a, (∀ p ∈ ((postedWords c.report c.serial).take k).drop c.written,
      a ≠ 0x1800 + 16 * c.slot.val + p.1) → t.memWord a = s.memWord a := by
  have hword : ∀ a, t.memWord a = (s.memWriteAll (c.nextWrites k)).memWord a := fun a => by
    rw [State.memWord, State.memWord, ht]
  exact ⟨fun p hp => (hword _).trans (s.nextWrites_memWord c k hp),
    fun a ha => (hword a).trans (s.nextWrites_memWord_ne c k ha)⟩

/-- Settles O14, from what one run of grants does and how a post ends. -/
theorem postInProgressGoesOn : Obligations.PostInProgressGoesOn := by
  unfold Obligations.PostInProgressGoesOn
  intro words after writes
  have hwords : ∀ x serial, words x serial = postedWords x serial := fun x serial =>
    (postedWords_eq x serial).symm
  refine ⟨fun s k record detail i stop stops hits rest hp hl hc hh hplans hfree hbelow => ?_,
    fun s c stop stops hc hstops hle => ?_, fun s h => State.goOn_of_none h,
    fun s k record detail hp hl => State.post_of_let record detail hp hl,
    fun s c hc hplan hplans hh hw hclean => ?_⟩
  · intro t serial x
    have hi : s.journal.freeSlot = some i := Journal.freeSlot_eq_some.mpr ⟨hfree, hbelow⟩
    let c : PostInProgress :=
      { slot := i, serial := serial, report := x, stage := .first, written := 0
        plan := { stops := stop :: stops, hits := hits } }
    have ht : t = { s with
        memory := (s.memWriteAll (c.nextWrites stop)).memory
        journal := { s.journal with
          slots := s.journal.slots.set i { state := .held, serial := serial, posting := true }
          nextSerial := if 14 ≤ stop then after serial else serial
          current := some { c with written := stop, plan := { stops := stops, hits := hits } }
          plans := rest } } := by
      show s.post k record detail = _
      rw [State.post_of_let record detail hp hl, State.handle_of_none hc, if_neg (by rw [hh]; decide),
        State.postUnmasked]
      unfold State.place
      rw [hi]
      dsimp only
      rw [State.writeOn_of_stop _ _ stop (rest := stops) (by rw [hplans]; rfl), hplans, Nat.zero_max]
      simp only [Report.afterFirst, State.setJournalSlot_eq_modJournal, State.memWriteAll_modJournal]
      simp only [State.modJournal, hplans, List.tail_cons]
      rfl
    refine ⟨?_, ?_⟩
    · rw [ht]
    · rw [hwords]
      exact nextWrites_words (c := c) (by rw [ht])
  · have hgo := State.goOn_journal_stop hc hstops hle
    rw [hwords]
    refine ⟨?_, nextWrites_words (by rw [hgo])⟩
    rw [hgo]
    rfl
  · intro told
    have hplan' : c.plan = {} := hplan
    have hend : s.writeOn c = (s.postEnded c, .stands) := s.writeOn_of_end hplan' (by
      rw [← hwords]
      exact hclean)
    have hidle : (s.postEnded c).Idle := ⟨rfl, hh, hplans⟩
    have htold : told = c.stage.told := rfl
    have hafter : c.after (s.writeOn c) = told.foldl State.handle (s.postEnded c) := by
      rw [hend, hidle.after_stands, htold]
    obtain ⟨hcurrent, hwaiting, hdrop⟩ := hidle.told_keeps c.stage
    have hmoved := hidle.told_noneWaiting c.stage
    rw [← htold] at hcurrent hwaiting hdrop hmoved
    refine ⟨(s.postEnded c).noneWaiting, rfl, ?_, ?_, fun hp => ⟨_, rfl, ?_⟩⟩
    · rw [hwords]
      exact nextWrites_words (c := c) (k := 14) rfl
    · rw [State.goOn_of_some hc, hafter, hwaiting, List.foldl_append, hmoved]
      rfl
    · have hfin : s.finishPost = told.foldl State.handle (s.postEnded c) := by
        rw [State.finishPost_of_some hc (by rw [hplan]) hplans, hafter]
      have hphase : s.finishPost.phase = s.phase := by
        rw [s.finishPost_frame]
        rfl
      have hask := State.askRestart_of_finished (s := s) (v := told.foldl State.handle (s.postEnded c).noneWaiting)
        (by rw [hfin, hmoved]) (by rw [hmoved]; exact hcurrent)
      rw [hfin, hdrop, hwaiting] at hask
      refine exec_engineRestart_congr hp ?_ hask
      rw [hmoved, ← hfin]
      exact hphase.trans hp

end Sys2Proof.Proofs
end

section
/-!
SUPPORT. What a restart does to the blocks when it takes hold.
-/
namespace Sys2Proof.Machine

section
variable (s : State)

/-- The lines at their restart values (R19). -/
def State.linesRestarted : State :=
  (s.modJournal fun j => { j with kindMask := 0x7FFF }).forLines fun n t => t.modLine n Line.restarted

theorem State.linesRestarted_frame : s.linesRestarted = { s with
    lines := s.linesRestarted.lines, journal := { s.journal with kindMask := 0x7FFF } } :=
  (State.forLines_modLine Line.restarted _).1

theorem State.linesRestarted_line (n : LineNo) : s.linesRestarted.line n = (s.line n).restarted :=
  (State.forLines_modLine Line.restarted _).2 n

/-- The blocks at their restart values, before the report serials are set to 0 (R155, R169). -/
def State.blocksRestarted : State :=
  s.linesRestarted.restartMonitors.clearJournalArea.modTiming fun t =>
    if t.phase < 320 then { t with realignPending := false } else t

theorem State.takeRestart_eq : s.takeRestart = allRecords.foldl State.clearSerials s.blocksRestarted := rfl

/-- A REALIGN that has not begun is dropped (R100). -/
theorem Timing.dropRealign_eq (t : Timing) : (if t.phase < 320 then { t with realignPending := false } else t) =
    { t with realignPending := t.realignPending && decide (320 ≤ t.phase) } := by
  split
  · next h => rw [decide_eq_false (by omega), Bool.and_false]
  · next h => rw [decide_eq_true (by omega), Bool.and_true]

theorem State.blocksRestarted_frame : s.blocksRestarted = { s with
    memory := s.memory.filter fun p => p.1 < journalStart
    lines := s.blocksRestarted.lines
    monitorUnit := { s.blocksRestarted.monitorUnit with
      freeze := false, gathered := s.monitorUnit.gathered }
    journal := { s.journal with kindMask := 0x7FFF }
    timing := { s.timing with
      realignPending := s.timing.realignPending && decide (320 ≤ s.timing.phase) } } := by
  unfold State.blocksRestarted
  rw [State.restartMonitors_frame, s.linesRestarted_frame]
  unfold State.modTiming
  dsimp only
  rw [← Timing.dropRealign_eq]
  rfl

theorem State.blocksRestarted_line (n : LineNo) : s.blocksRestarted.line n = (s.line n).restarted := by
  have hlines : s.blocksRestarted.lines = s.linesRestarted.lines := by
    unfold State.blocksRestarted
    rw [State.restartMonitors_frame]
    rfl
  rw [← s.linesRestarted_line n, State.line, State.line, hlines]

theorem State.blocksRestarted_monitor (i : MonitorNo) :
    s.blocksRestarted.monitor i = (s.monitor i).restarted := by
  have hunit : ∀ (t : State) f, (t.clearJournalArea.modTiming f).monitor i = t.monitor i := fun _ _ => rfl
  have hlines : ∀ (t : State) v j, ({ t with lines := v, journal := j } : State).monitor i = t.monitor i :=
    fun _ _ _ => rfl
  unfold State.blocksRestarted
  rw [hunit, State.restartMonitors_monitor, s.linesRestarted_frame, hlines]

theorem State.blocksRestarted_memWord (a : Nat) :
    s.blocksRestarted.memWord a = if a < journalStart then s.memWord a else {} := by
  have hmem : s.blocksRestarted.memory = s.memory.filter fun p => p.1 < journalStart :=
    congrArg State.memory s.blocksRestarted_frame
  unfold State.memWord
  rw [hmem]
  exact cellGet_filter_lt _ _ _ _

end

end Sys2Proof.Machine
end

section
/-!
PROOFS. The beginning of an engine restart.
-/
namespace Sys2Proof.Proofs

open Sys2Proof.Machine

/-- Settles O6, block by block; the serials' writes meet neither the journal area nor each other. -/
theorem engineRestartBegins : Obligations.EngineRestartBegins := by
  intro s hready hcurrent hstep
  have hphase : s.phase = .ready := by
    rw [State.ready, beq_iff_eq] at hready
    exact hready
  have hasked := State.askRestart_of_none hcurrent
  have hfinished : s.askRestart.finishStep = s.askRestart := State.finishStep_of_none (by rw [hasked]; exact hstep)
  have hexec := exec_engineRestart_of_ready hphase
  rw [hfinished, State.takeRestart_eq] at hexec
  obtain ⟨hframe, hheads, hserials, hmemory⟩ :=
    State.foldl_clearSerials allRecords_nodup s.askRestart.blocksRestarted
  have hblocks := s.askRestart.blocksRestarted_frame
  have hline := s.askRestart.blocksRestarted_line
  have hmonitor := s.askRestart.blocksRestarted_monitor
  have hmem := s.askRestart.blocksRestarted_memWord
  generalize allRecords.foldl State.clearSerials s.askRestart.blocksRestarted = t at *
  generalize s.askRestart.blocksRestarted = u at *
  rw [hasked] at hblocks hline hmonitor hmem
  have hlines : ∀ n, t.line n = u.line n := fun n => by rw [hframe]; rfl
  have hmonitors : ∀ m, t.monitor m = u.monitor m := fun m => by rw [hframe]; rfl
  have hhead : ∀ r, u.head r = s.head r := fun r => by rw [hblocks]; rfl
  refine ⟨t.answerPort (.writeDone false), hexec, ?_, fun n => (hlines n).trans (hline n),
    fun m => (hmonitors m).trans (hmonitor m), ?_, ?_, fun r => ?_, fun a ha => ?_, fun r => ?_,
    fun a ha hne => ?_⟩
  · rw [hframe, hblocks]
    rfl
  · rw [hframe, hblocks]
    rfl
  · rw [hframe, hblocks]
    rfl
  · refine (hheads r).trans ?_
    rw [if_pos (mem_allRecords r), hhead]
  · refine (hmemory a fun r _ k _ hk => ?_).trans ?_
    · have := r.base_lt_journal (k := k) (by omega)
      omega
    · rw [hmem, if_neg (by omega)]
  · have h := hserials r (mem_allRecords r)
    rw [hhead] at h
    exact h
  · refine (hmemory a fun r _ k hl hu => hne r k hl hu).trans ?_
    rw [hmem, if_pos ha]
    rfl

end Sys2Proof.Proofs
end

section
/-!
SUPPORT. What the reader does to a line that has just been set: each operation in the form of a state
that does not look at the line's items, with the line's items set last.
-/
namespace Sys2Proof.Machine

section
variable (s : State) (n : LineNo) (l : Line)

/-! ## Operations around the items of a line -/

theorem State.setBank_setLine (b : Fin 9) (c : BankCounts) :
    (s.setLine n l).setBank b c = (s.setBank b c).setLine n l := rfl

theorem State.modLine_setLine (f : Line → Line) : (s.setLine n l).modLine n f = s.setLine n (f l) := by
  rw [State.modLine, State.setLine_line_same, State.setLine_setLine]

theorem State.writeSlot_setLine (k : Fin 8) (i : Nat) (x : Slot) :
    (s.setLine n l).writeSlot k i x = (s.writeSlot k i x).setLine n l := by
  have hfold : ∀ (banks : List (Fin 9)) (t : State), banks.foldl (fun t b => t.setSlot b i x) (t.setLine n l) =
      (banks.foldl (fun t b => t.setSlot b i x) t).setLine n l := by
    intro banks
    induction banks with
    | nil => exact fun _ => rfl
    | cons b banks ih => exact fun t => ih (t.setSlot b i x)
  exact hfold _ s

theorem State.foldl_writeSlot_setLine (k : Fin 8) (at_ : Nat → Nat) (x : Slot) (js : List Nat) :
    js.foldl (fun t j => t.writeSlot k (at_ j) x) (s.setLine n l) =
      (js.foldl (fun t j => t.writeSlot k (at_ j) x) s).setLine n l := by
  induction js generalizing s with
  | nil => rfl
  | cons j js ih => rw [List.foldl_cons, List.foldl_cons, s.writeSlot_setLine, ih]

/-- The completion of an operation sees no line (R122). -/
theorem State.settleSpare_setLine : (s.setLine n l).settleSpare = s.settleSpare.setLine n l := by
  cases hk : s.spare.state.operating with
  | none =>
    have h : ∀ t : State, t.spare.state.operating = none → t.settleSpare = t := fun t ht => by
      unfold State.settleSpare
      rw [ht]
    rw [h s hk, h (s.setLine n l) hk]
  | some k =>
    by_cases h : s.spare.outstanding = 0
    · rw [State.settleSpare_of_none (s.setLine n l) hk h, s.settleSpare_of_none hk h, ← State.post_setLine]
      rfl
    · rw [State.settleSpare_of_outstanding (s.setLine n l) h, s.settleSpare_of_outstanding h]

theorem State.coverLine_setLine (m : LineNo) : (s.setLine n l).coverLine m = (s.coverLine m).setLine n l := by
  by_cases h : (s.cover m).mark = .pending
  · rw [State.coverLine_of_pending (s.setLine n l) m h, s.coverLine_of_pending m h,
      ← State.settleSpare_setLine]
    rfl
  · rw [State.coverLine_of_ne (s.setLine n l) m h, s.coverLine_of_ne m h]

/-- A change of state of a line that has just been set (R16). -/
theorem State.changeLine_setLine (new : LineState) (cause : LineCause) :
    (s.setLine n l).changeLine n new cause = (s.post .lineState (16 + n.val)
      [word l.state.code, word new.code, word cause.code]).setLine n (l.changed new cause) := by
  rw [State.changeLine_eq, State.setLine_line_same, State.setLine_setLine, State.post_setLine]

/-- What a store reset of line n does around the line's items (R16, R34, R121). -/
def State.resetAround (old : LineState) (p : Placement) (cause : LineCause) : State :=
  ((List.range p.u).foldl (fun t j => t.writeSlot p.bank (p.slotAt j) {})
    (s.post .lineState (16 + n.val) [word old.code, 2, word cause.code])).coverLine n

theorem State.refill_setLine (cause : LineCause) :
    (s.setLine n l).refill n cause =
      (s.resetAround n l.state l.placement cause).setLine n (l.refilled cause) := by
  unfold State.refill State.storeReset
  dsimp only
  rw [State.changeLine_setLine, State.modLine_setLine, State.setLine_line_same, State.foldl_writeSlot_setLine,
    State.coverLine_setLine]
  rfl

/-- A swap that a count starts sees of a line what its mark is taken from (R120, R127). -/
theorem State.autoSwap_setLine (b : Fin 9) (h : ∀ k, startMark k l = startMark k (s.line n)) :
    (s.setLine n l).autoSwap b = (s.autoSwap b).setLine n l := by
  have hcoverage : ∀ k, (s.setLine n l).startCoverage k = s.startCoverage k := fun k => by
    rw [State.startCoverage_eq, State.startCoverage_eq]
    congr 1
    funext m
    by_cases hm : m = n
    · rw [hm, State.setLine_line_same, h k]
    · rw [s.setLine_line_ne hm]
  have henter : ∀ k cause bank, (s.setLine n l).enterSpare (.mirror k) cause bank =
      (s.enterSpare (.mirror k) cause bank).setLine n l := fun k cause bank => by
    unfold State.enterSpare
    simp only [SpareState.operating, hcoverage]
    exact (s.modSpare fun x => { x with
      state := .mirror k, coverage := s.startCoverage k, lastCause := cause }).post_setLine _ _ _ n l
  have hstart : ∀ k cause bank, (s.setLine n l).startSpare (.mirror k) cause bank =
      (s.startSpare (.mirror k) cause bank).setLine n l := fun k cause bank => by
    rw [State.startSpare, henter, State.settleSpare_setLine, State.startSpare]
  unfold State.autoSwap
  by_cases hb : b.val < 8
  · rw [dif_pos hb, dif_pos hb, hstart]
    exact (apply_ite (fun t => State.setLine t n l) _ _ _).symm
  · rw [dif_neg hb, dif_neg hb]

theorem State.advanceRing_setLine (k : Nat) : (s.setLine n l).advanceRing n k =
    s.setLine n { l with ring := l.ring.advance l.placement.capacity k } := s.modLine_setLine n l _

/-- The counts that a read of a slot raises in its bank (R22). -/
def State.bankRead (b : Fin 9) (x : SlotResult) : State :=
  match x with
  | .clean => s
  | .corrected => s.setBank b { s.bank b with corrected := (s.bank b).corrected + 1 }
  | .uncorrectable => s.setBank b { s.bank b with uncorrected := (s.bank b).uncorrected + 1 }

/-- The counts that a read of a slot raises for its line (R53). -/
def Line.slotRead (x : SlotResult) : Line :=
  match x with
  | .clean => l
  | .corrected => { l with counters := { l.counters with storeCorrected := l.counters.storeCorrected + 1 } }
  | .uncorrectable =>
    { l with counters := { l.counters with storeUncorrected := l.counters.storeUncorrected + 1 } }

theorem State.countRead_setLine (b : Fin 9) (x : SlotResult) :
    (s.setLine n l).countRead n b x = (s.bankRead b x).setLine n (l.slotRead x) := by
  unfold State.countRead State.bankRead Line.slotRead
  cases x with
  | clean => rfl
  | corrected => exact State.modLine_setLine (s.setBank b _) n l _
  | uncorrectable => exact State.modLine_setLine (s.setBank b _) n l _

end

/-! ## The normal read -/

section
variable (s : State) (n : LineNo) (l : Line) (g : GroupPos) (d : Decision) (fill : Nat)

/-- The bank that serves a line's reads (R119). -/
def State.readBankOf : Fin 9 := s.spare.state.readBank l.placement.bank

/-- The slot that a line would read (R55). -/
def State.slotToRead : Slot := s.slot (s.readBankOf l) (l.placement.slotAt l.ring.readIndex)

/-- The line with one frame read from its ring (R55). -/
def Line.advanced (k : Nat) : Line := { l with ring := l.ring.advance l.placement.capacity k }

/-- A normal read of a slot without an uncorrectable word (R52, R53, R55). -/
theorem State.normalRead_of_read (start : Bool) {b : Fin 9} {x : Slot} (hb : s.readBankOf (s.line n) = b)
    (hs : s.slotToRead (s.line n) = x) (hx : x.result ≠ .uncorrectable) :
    s.normalRead n g d fill start =
      if (s.line n).placement.unit = .group ∧ x.filler = false ∧ x.position ≠ g then
        { state := (s.countRead n b x.result).tagMismatch n, decision := .tagMismatch
          corrected := if x.result = .corrected then 1 else 0 }
      else
        { state := ((s.countRead n b x.result).startLine n start).advanceRing n 1
          octets := if x.filler then alarmFill else x.payload
          decision := d, substituted := x.filler, fill := some fill
          corrected := if x.result = .corrected then 1 else 0 } := by
  subst hb hs
  unfold State.normalRead State.slotToRead State.readBankOf at *
  dsimp only at *
  split
  · next h => exact absurd h hx
  · rfl

end

end Sys2Proof.Machine
end

section
/-!
SUPPORT. A reader event by what the dead-line examination leaves, and the counts of bits and of empty frames
that its later stages do not look at.
-/
namespace Sys2Proof.Machine

/-! ## The stages -/

section
variable (s : State) (n : LineNo) (g : GroupPos)

/-- Every event adopts what is staged after the dead-line examination, and then acts (R39, R43). -/
theorem State.readerEvent_eq : s.readerEvent n g =
    State.handOver n ((s.deadStage n).line n).fill
      (((s.deadStage n).setLine n { (s.deadStage n).line n with
        reader := ((s.deadStage n).line n).reader.adopt }).readerAct n g ((s.deadStage n).line n).fill) := by
  unfold State.readerEvent
  dsimp only
  rw [State.modLine_line_same]
  rfl

theorem Reader.adopt_recentrePending (x : Reader) : x.adopt.recentrePending = x.recentrePending := by
  unfold Reader.adopt
  cases x.staged <;> rfl

/-- A line with what is staged adopted and no RECENTRE pending (R43, R58). -/
def Line.settled (l : Line) : Line := { l with reader := { l.reader.adopt with recentrePending := false } }

/-- The action of a line in a state, once it has adopted what was staged (R45, R58). -/
theorem State.readerAct_adopted (l : Line) (fill : Nat) :
    (s.setLine n { l with reader := l.reader.adopt }).readerAct n g fill =
      match l.state with
      | .out => { state := s.setLine n l.settled, octets := List.replicate 39 l.idleCode
                  decision := .idle, substituted := false }
      | .hunting => Sys2Proof.Machine.filled (s.setLine n l.settled) .fill
      | .dead => Sys2Proof.Machine.filled (s.setLine n l.settled) .fill
      | .filling => if l.reader.recentrePending then Sys2Proof.Machine.filled ((s.setLine n l.settled).refill n .recentre) .recentre
          else (s.setLine n l.settled).fillingAct n g fill
      | .running => if l.reader.recentrePending then Sys2Proof.Machine.filled ((s.setLine n l.settled).refill n .recentre) .recentre
          else (s.setLine n l.settled).runningAct n g fill := by
  unfold State.readerAct Line.settled
  simp only [State.setLine_line_same, State.modLine_setLine, l.reader.adopt_recentrePending] <;>
    cases l.state <;> rfl

variable {s n}

theorem State.deadStage_of_dead (h : (s.line n).state = .dead) (hb : (s.line n).bitCount = 0) :
    s.deadStage n = s := by
  simp only [State.deadStage, h, if_pos hb]

/-- A DEAD line with bits passes to HUNTING (R11). -/
theorem State.deadStage_of_alive (h : (s.line n).state = .dead) (hb : (s.line n).bitCount ≠ 0) :
    s.deadStage n = (s.post .lineState (16 + n.val) [4, 1, 11]).setLine n { s.line n with
      state := .hunting, lastCause := .alive, deadCount := 0
      framer := { state := .hunt, held := false } } := by
  have hstage : s.deadStage n = (s.modLine n fun l =>
      { l with deadCount := 0, framer := huntingFramer false }).changeLine n .hunting .alive := by
    simp only [State.deadStage, h, if_neg hb]
  rw [hstage, State.modLine, State.changeLine_setLine, Line.changed]
  dsimp only
  rw [h, if_neg (by decide)]
  rfl

/-- A line that received bits has no empty frame behind it (R10). -/
theorem State.deadStage_of_bits (h : (s.line n).state = .hunting ∨ (s.line n).state = .filling ∨
    (s.line n).state = .running) (hb : (s.line n).bitCount ≠ 0) :
    s.deadStage n = s.setLine n { s.line n with deadCount := 0 } := by
  rcases h with h | h | h <;> simp only [State.deadStage, h, if_neg hb, State.modLine]

/-- A frame of no bits counts toward DEAD (R10). -/
theorem State.deadStage_of_silent (h : (s.line n).state = .hunting ∨ (s.line n).state = .filling ∨
    (s.line n).state = .running) (hb : (s.line n).bitCount = 0) (hd : (s.line n).deadCount < 7) :
    s.deadStage n = s.setLine n { s.line n with deadCount := (s.line n).deadCount + 1 } := by
  have hlt : ¬Config.deadFrames ≤ (s.line n).deadCount + 1 := by
    show ¬8 ≤ (s.line n).deadCount + 1
    omega
  rcases h with h | h | h <;> simp only [State.deadStage, h, if_pos hb, if_neg hlt, State.modLine]

theorem State.deadStage_of_dying (h : (s.line n).state = .hunting ∨ (s.line n).state = .filling ∨
    (s.line n).state = .running) (hb : (s.line n).bitCount = 0) (hd : 7 ≤ (s.line n).deadCount) :
    s.deadStage n = s.enterDead n := by
  have hle : Config.deadFrames ≤ (s.line n).deadCount + 1 := by
    show 8 ≤ (s.line n).deadCount + 1
    omega
  rcases h with h | h | h <;> simp only [State.deadStage, h, if_pos hb, if_pos hle]

/-- An event whose examination leaves a line with the items l (R39). -/
theorem State.readerEvent_of_deadStage {t : State} {l : Line} (h : s.deadStage n = t.setLine n l) :
    s.readerEvent n g = State.handOver n l.fill
      ((t.setLine n { l with reader := l.reader.adopt }).readerAct n g l.fill) := by
  rw [s.readerEvent_eq, h, State.setLine_line_same, State.setLine_setLine]

end

/-! ## Bits and empty frames -/

/-- A line whose bits and empty frames are counted otherwise. -/
def Line.noted (l : Line) (b d : Nat) : Line := { l with bitCount := b, deadCount := d }

section
variable (s : State) (n : LineNo) (b d : Nat)

/-- Line n with its bits and empty frames counted otherwise. -/
def State.noted : State := s.modLine n fun l => l.noted b d

theorem State.noted_eq : s.noted n b d = s.setLine n ((s.line n).noted b d) := rfl

theorem State.noted_line : (s.noted n b d).line n = (s.line n).noted b d := s.modLine_line_same n _

theorem State.setLine_noted (l : Line) : (s.setLine n l).noted n b d = s.setLine n (l.noted b d) :=
  s.modLine_setLine n l _

theorem State.modLine_noted {f : Line → Line} (h : ∀ l, f (l.noted b d) = (f l).noted b d) :
    (s.noted n b d).modLine n f = (s.modLine n f).noted n b d := by
  rw [s.noted_eq, State.modLine_setLine, h, State.modLine, State.setLine_noted]

theorem State.refill_noted (cause : LineCause) :
    (s.noted n b d).refill n cause = (s.refill n cause).noted n b d := by
  conv_rhs => rw [← s.setLine_line_self n]
  rw [s.noted_eq, State.refill_setLine, State.refill_setLine, State.setLine_noted]
  rfl

theorem State.countRead_noted (k : Fin 9) (x : SlotResult) :
    (s.noted n b d).countRead n k x = (s.countRead n k x).noted n b d := by
  cases x with
  | clean => rfl
  | corrected =>
    exact State.modLine_noted (s.setBank k _) n b d (f := fun l =>
      { l with counters := { l.counters with storeCorrected := l.counters.storeCorrected + 1 } }) fun _ => rfl
  | uncorrectable =>
    exact State.modLine_noted (s.setBank k _) n b d (f := fun l => { l with
      counters := { l.counters with storeUncorrected := l.counters.storeUncorrected + 1 } }) fun _ => rfl

theorem State.tagMismatch_noted : (s.noted n b d).tagMismatch n = (s.tagMismatch n).noted n b d := by
  unfold State.tagMismatch
  dsimp only
  rw [← State.refill_noted]
  exact congrArg (fun t : State => t.refill n .tagMismatch) (s.modLine_noted n b d fun _ => rfl)

theorem State.postLine_noted (k : Kind) (detail : List Word) :
    (s.noted n b d).postLine k n detail = (s.postLine k n detail).noted n b d := s.post_modLine _ _ _ n _

theorem State.startLine_noted (start : Bool) :
    (s.noted n b d).startLine n start = (s.startLine n start).noted n b d := by
  cases start with
  | false => rfl
  | true =>
    show (s.noted n b d).changeLine n .running .started = (s.changeLine n .running .started).noted n b d
    unfold State.changeLine
    dsimp only
    rw [s.noted_line, ← State.postLine_noted]
    exact congrArg (fun t : State => t.postLine .lineState n _) (s.modLine_noted n b d fun _ => rfl)

theorem State.autoSwap_noted (k : Fin 9) : (s.noted n b d).autoSwap k = (s.autoSwap k).noted n b d := by
  rw [s.noted_eq, s.autoSwap_setLine n ((s.line n).noted b d) k fun _ => rfl, State.noted_eq, State.autoSwap_line]

theorem State.advanceRing_noted (k : Nat) :
    (s.noted n b d).advanceRing n k = (s.advanceRing n k).noted n b d :=
  s.modLine_noted n b d fun _ => rfl

/-- An action whose line has its bits and empty frames counted otherwise. -/
def Acted.noted (a : Acted) (n : LineNo) (b d : Nat) : Acted := { a with state := a.state.noted n b d }

variable (g : GroupPos) (fill : Nat)

theorem State.normalRead_noted (x : Decision) (start : Bool) :
    (s.noted n b d).normalRead n g x fill start = (s.normalRead n g x fill start).noted n b d := by
  have hbank : (s.noted n b d).readBankOf ((s.noted n b d).line n) = s.readBankOf (s.line n) := by
    rw [s.noted_line]
    rfl
  have hslot : (s.noted n b d).slotToRead ((s.noted n b d).line n) = s.slotToRead (s.line n) := by
    rw [s.noted_line]
    rfl
  by_cases hx : (s.slotToRead (s.line n)).result = .uncorrectable
  · have hindex : ((s.noted n b d).line n).placement.slotAt ((s.noted n b d).line n).ring.readIndex =
        (s.line n).placement.slotAt (s.line n).ring.readIndex := by
      rw [s.noted_line]
      rfl
    rw [State.normalRead_of_uncorrectable (s.noted n b d) n g x fill start hbank hindex hx,
      State.normalRead_of_uncorrectable s n g x fill start rfl rfl hx, s.countRead_noted, State.startLine_noted,
      State.postLine_noted, State.autoSwap_noted, State.advanceRing_noted, s.noted_line]
    rfl
  · rw [State.normalRead_of_read (s.noted n b d) n g x fill start hbank hslot hx,
      State.normalRead_of_read s n g x fill start rfl rfl hx, s.noted_line, s.countRead_noted,
      State.tagMismatch_noted, State.startLine_noted, State.advanceRing_noted]
    rw [show ((s.line n).noted b d).placement = (s.line n).placement from rfl]
    split <;> rfl

theorem Acted.countSlip_noted (a : Acted) (l : Line) (direction : Nat) :
    (a.noted n b d).countSlip n (l.noted b d) direction fill = (a.countSlip n l direction fill).noted n b d := by
  have hcount := a.state.modLine_noted n b d (f := fun m => { m with counters :=
    if direction = 1 then { m.counters with repeats := m.counters.repeats + 1 }
    else { m.counters with deletes := m.counters.deletes + 1 } }) fun _ => rfl
  unfold Acted.countSlip Acted.noted
  dsimp only
  rw [hcount, State.postLine_noted, State.noted_line]
  refine congrArg (fun t : State => { a with
    state := t, repeats := if direction = 1 then 1 else 0, deletes := if direction = 1 then 0 else 1 }) ?_
  exact (apply_ite (fun t => State.noted t n b d) (l.reader.slipEvents = true) _ _).symm

theorem State.slipAct_noted : (s.noted n b d).slipAct n g fill = (s.slipAct n g fill).noted n b d := by
  have hback := s.modLine_noted n b d (f := fun l =>
    { l with ring := l.ring.back l.placement.capacity (s.line n).placement.u }) fun _ => rfl
  unfold State.slipAct
  dsimp only
  rw [s.noted_line]
  show (if fill < (s.line n).reader.tLow then _ else if (s.line n).reader.tHigh < fill then _ else _) = _
  split
  · rw [← Acted.countSlip_noted, ← State.normalRead_noted]
    exact congrArg (fun t : State => (t.normalRead n g .repeatUnit fill false).countSlip n _ 1 fill) hback
  · split
    · rw [← Acted.countSlip_noted, ← State.normalRead_noted, ← State.advanceRing_noted]
      rfl
    · rw [State.normalRead_noted]

theorem State.underrun_noted : (s.noted n b d).underrun n = (s.underrun n).noted n b d := by
  have hcount := s.modLine_noted n b d (f := fun l =>
    { l with counters := { l.counters with underruns := l.counters.underruns + 1 } }) fun _ => rfl
  unfold State.underrun Acted.noted
  dsimp only
  rw [hcount, State.refill_noted]

theorem State.runningAct_noted : (s.noted n b d).runningAct n g fill = (s.runningAct n g fill).noted n b d := by
  unfold State.runningAct
  dsimp only
  rw [s.noted_line, s.slipAct_noted, s.underrun_noted, s.normalRead_noted]
  show (match (s.line n).placement.unit with
    | .frame => _
    | .group => if g = 0 then _ else if (s.line n).ring.held = 0 then _ else _) = _
  cases (s.line n).placement.unit with
  | frame => rfl
  | group =>
    dsimp only
    split
    · rfl
    · split <;> rfl

theorem State.fillingAct_noted : (s.noted n b d).fillingAct n g fill = (s.fillingAct n g fill).noted n b d := by
  unfold State.fillingAct
  dsimp only
  rw [s.noted_line, s.normalRead_noted, s.tagMismatch_noted]
  show (match (s.line n).placement.unit with
    | .frame => if (s.line n).reader.centre ≤ fill then _ else _
    | .group => if (s.line n).ring.held = 0 then _ else _) = _
  cases (s.line n).placement.unit with
  | frame =>
    dsimp only
    split <;> rfl
  | group =>
    dsimp only
    split
    · rfl
    · show (if (s.slotToRead (s.line n)).conditions.w0 = .uncorrectable then _ else
        if (s.line n).reader.centre + 320 * (g - (s.slotToRead (s.line n)).position).val ≤ fill then _ else _) = _
      unfold State.slotToRead State.readBankOf
      split
      · rfl
      · split
        · rw [← State.normalRead_noted, ← State.advanceRing_noted]
          rfl
        · rfl

/-- What ends an event sets the count of bits, and keeps that of empty frames (R1, R57). -/
theorem State.handOver_noted (a : Acted) : State.handOver n fill (a.noted n b d) =
    (State.handOver n fill a).modLine n fun l => { l with deadCount := d } := by
  rw [State.handOver_eq, State.handOver_eq]
  unfold Acted.noted
  dsimp only
  rw [State.noted_line, State.noted_eq, State.setLine_setLine]
  exact (((a.state.setGathered n (a.gathered (a.state.line n).state)).modHighway
    fun h => h.put n a.octets).modLine_setLine n ((a.state.line n).handed fill a)
      fun l => { l with deadCount := d }).symm

end

section
variable {s : State} {n : LineNo} {g : GroupPos}

/-- The line on which an event acts with RECENTRE not pending: d empty frames, nothing staged (R10, R43, R58). -/
def Line.acting (l : Line) (d : Nat) : Line := { l.settled with deadCount := d }

/-- The action of a line in service does not look at its empty frames (R10). -/
theorem State.readerAct_noted (l : Line) (fill b d : Nat) (h : l.state = .filling ∨ l.state = .running) :
    (s.setLine n { l.noted b d with reader := l.reader.adopt }).readerAct n g fill =
      ((s.setLine n { l with reader := l.reader.adopt }).readerAct n g fill).noted n b d := by
  have hsettled : s.setLine n (l.noted b d).settled = (s.setLine n l.settled).noted n b d :=
    (s.setLine_noted n b d l.settled).symm
  have hrefill : Sys2Proof.Machine.filled (((s.setLine n l.settled).noted n b d).refill n .recentre) .recentre =
      (Sys2Proof.Machine.filled ((s.setLine n l.settled).refill n .recentre) .recentre).noted n b d :=
    congrArg (fun t : State => Sys2Proof.Machine.filled t .recentre) (State.refill_noted _ n b d .recentre)
  have hleft := s.readerAct_adopted n g (l.noted b d) fill
  rw [hsettled] at hleft
  refine hleft.trans ?_
  rw [s.readerAct_adopted]
  show (match l.state with
    | .out => _ | .hunting => _ | .dead => _
    | .filling => if l.reader.recentrePending = true then _ else _
    | .running => if l.reader.recentrePending = true then _ else _) = _
  rcases h with h | h <;> rw [h] <;> dsimp only <;> split
  · exact hrefill
  · exact State.fillingAct_noted _ n b d g fill
  · exact hrefill
  · exact State.runningAct_noted _ n b d g fill

end

end Sys2Proof.Machine
end

section
/-!
PROOFS. The reader of a line that is not running.
-/
namespace Sys2Proof.Proofs

open Sys2Proof.Machine

/-- Settles O37, by the line's state and what the dead-line examination makes of it. -/
theorem readerOfALineNotRunning : Obligations.ReaderOfALineNotRunning := by
  intro s n g l c fill adopted
  have hserved : ∀ {t : State} {m : Line}, s.deadStage n = t.setLine n m → s.readerEvent n g = _ :=
    fun h => (s.readerEvent_of_deadStage g h).trans (congrArg _ (State.readerAct_adopted _ n g _ _))
  have hself : s.setLine n l = s := s.setLine_line_self n
  refine ⟨fun h => ?_, fun h hb => ?_, fun h hb => ?_, fun h hb => ?_, fun h hb hd => ?_, fun h hb hd hp => ?_,
    fun h hb hd => ?_, fun h hb hr => ?_⟩
  · rw [hserved (m := l) ((s.deadStage_of_out n h).trans hself.symm), h]
    rfl
  · rw [hserved (m := l) ((State.deadStage_of_dead h hb).trans hself.symm), h]
    rfl
  · rw [hserved (State.deadStage_of_alive h hb)]
    show State.handOver n (320 * l.ring.held) _ = State.handOver n (320 * l.ring.held) _
    refine congrArg _ ?_
    show ({ state := _, decision := .fill } : Acted) = _
    rw [← State.post_setLine]
    rfl
  · rw [hserved (State.deadStage_of_bits (.inl h) hb)]
    dsimp only
    rw [h]
    rfl
  · rw [hserved (State.deadStage_of_silent (.inl h) hb hd)]
    dsimp only
    rw [h]
    rfl
  · have hne : (s.line n).state ≠ .dead := by
      intro e
      rcases h with h | h | h <;> exact absurd (h.symm.trans e) (by decide)
    have hexec : exec (.dead n) s = .next (s.enterDead n) := by
      show Host.Outcome.next (if s.outOfReset then match (s.line n).state with
        | .hunting | .filling | .running => s.enterDead n
        | .out | .dead => s else s) = _
      rw [if_pos (s.outOfReset_of_ne hp)]
      rcases h with h | h | h <;> rw [show (s.line n).state = _ from h]
    have hdead := s.enterDead_eq n hne
    rw [State.post_setLine, State.coverLine_setLine] at hdead
    have hline : (s.enterDead n).line n = { l with
        state := .dead, lastCause := .dead, deadCount := 8
        framer := { state := .hunt, held := true }, ring := { l.ring with held := 0 } } := by
      rw [hdead, State.setLine_line_same]
    refine ⟨s.enterDead n, hexec, ?_⟩
    rw [hserved ((State.deadStage_of_dying h hb hd).trans (State.setLine_line_self _ n).symm), hline]
    rfl
  · intro t
    have hnoted : ∀ (u : State) b d, u.deadStage n = s.setLine n (l.noted b d) → u.readerEvent n g =
        (State.handOver n fill ((s.setLine n { l with reader := l.reader.adopt }).readerAct n g fill)).modLine n
          fun m => { m with deadCount := d } := fun u b d hu => by
      rw [← State.handOver_noted n b d, ← s.readerAct_noted l fill b d h]
      exact u.readerEvent_of_deadStage g hu
    have ht : (s.setLine n { l with bitCount := 1 }).deadStage n = s.setLine n (l.noted 1 0) := by
      rw [State.deadStage_of_bits]
      · rw [State.setLine_line_same, State.setLine_setLine]
        rfl
      · rw [State.setLine_line_same]
        exact .inr h
      · rw [State.setLine_line_same]
        exact Nat.one_ne_zero
    rw [hnoted s _ _ (State.deadStage_of_silent (.inr h) hb hd)]
    show _ = t.modLine n fun m => { m with deadCount := l.deadCount + 1 }
    rw [show t = _ from hnoted _ 1 0 ht]
    generalize State.handOver n fill _ = u
    exact (State.modLine_setLine u n { u.line n with deadCount := 0 }
      fun m => { m with deadCount := l.deadCount + 1 }).symm
  · rw [hserved (State.deadStage_of_bits (.inr (.inl h)) hb)]
    dsimp only
    rw [h]
    dsimp only
    rw [if_pos hr]
    rfl

end Sys2Proof.Proofs
end

section
/-!
SUPPORT. A slip and the read that follows it, as one change of the line.
-/
namespace Sys2Proof.Machine

/-! ## The result of a read -/

/-- A slot without an uncorrectable word is clean or corrected (R21). -/
theorem Slot.result_of_correctable {x : Slot} (h : .uncorrectable ∉ x.conditions.toList) :
    x.result = if x.conditions = {} then .clean else .corrected := by
  have hun : x.conditions.toList.any (· == .uncorrectable) = false :=
    List.any_eq_false.mpr fun c hc => by
      rw [beq_iff_eq]
      rintro rfl
      exact h hc
  have hclean : x.conditions.toList.any (· != .clean) = true ↔ x.conditions ≠ {} := by
    obtain ⟨a, b, c, d, e⟩ := x.conditions
    simp only [SlotConditions.toList, List.any_cons, List.any_nil, Bool.or_false, Bool.or_eq_true, bne_iff_ne, ne_eq,
      SlotConditions.mk.injEq]
    tauto
  unfold Slot.result
  rw [if_neg (by rw [hun]; decide)]
  by_cases hc : x.conditions = {}
  · rw [if_pos hc, if_neg fun e => hclean.mp e hc]
  · rw [if_neg hc, if_pos (hclean.mpr hc)]

section
variable (s : State) (n : LineNo) {k : Line} (g : GroupPos) (d : Decision) (fill : Nat) {b : Fin 9} {x : Slot}

/-- A slot read, and its corrected words counted in its bank (R22). -/
def State.corrects (b : Fin 9) (x : Slot) : State :=
  if x.conditions = {} then s else s.setBank b { s.bank b with corrected := (s.bank b).corrected + 1 }

/-- The counters of a line that has read a slot without an uncorrectable word (R53). -/
def LineCounters.reading (c : LineCounters) (x : Slot) : LineCounters :=
  if x.conditions = {} then c else { c with storeCorrected := c.storeCorrected + 1 }

theorem State.countRead_of_correctable (hu : .uncorrectable ∉ x.conditions.toList) (b : Fin 9) :
    (s.setLine n k).countRead n b x.result =
      (s.corrects b x).setLine n { k with counters := k.counters.reading x } := by
  rw [State.countRead_setLine, Slot.result_of_correctable hu]
  unfold State.corrects LineCounters.reading
  split <;> rfl

theorem State.startLine_false (t : State) : t.startLine n false = t := rfl

theorem State.startLine_true (t : State) : t.startLine n true = t.changeLine n .running .started := rfl

theorem Slot.corrected_eq (hu : .uncorrectable ∉ x.conditions.toList) :
    (if x.result = .corrected then 1 else 0) = if x.conditions = {} then 0 else 1 := by
  rw [Slot.result_of_correctable hu]
  split <;> rfl

theorem Slot.result_ne (hu : .uncorrectable ∉ x.conditions.toList) : x.result ≠ .uncorrectable := by
  rw [Slot.result_of_correctable hu]
  split <;> nofun

/-- A read that sends what it finds (R53, R55). -/
theorem State.normalRead_sent (hb : s.readBankOf k = b) (hs : s.slotToRead k = x)
    (hu : .uncorrectable ∉ x.conditions.toList)
    (hm : k.placement.unit = .group → x.filler = true ∨ x.position = g) :
    (s.setLine n k).normalRead n g d fill false =
      { state := (s.corrects b x).setLine n { k with
          ring := k.ring.advance k.placement.capacity 1, counters := k.counters.reading x }
        octets := if x.filler then alarmFill else x.payload
        decision := d, substituted := x.filler, fill := some fill
        corrected := if x.conditions = {} then 0 else 1 } := by
  have hno : ¬(k.placement.unit = .group ∧ x.filler = false ∧ x.position ≠ g) := fun ⟨hu, hf, hp⟩ =>
    (hm hu).elim (fun e => by rw [hf] at e; cases e) hp
  rw [State.normalRead_of_read (s.setLine n k) n g d fill false (b := b) (x := x)
    (by rw [State.setLine_line_same]; exact hb) (by rw [State.setLine_line_same]; exact hs) (Slot.result_ne hu),
    State.setLine_line_same, if_neg hno, s.countRead_of_correctable n hu, Slot.corrected_eq hu]
  rw [State.startLine_false, State.advanceRing_setLine]

/-- The start of a line at a read that sends what it finds (R48, R53, R55). -/
theorem State.normalRead_started (hb : s.readBankOf k = b) (hs : s.slotToRead k = x)
    (hu : .uncorrectable ∉ x.conditions.toList)
    (hm : k.placement.unit = .group → x.filler = true ∨ x.position = g) :
    (s.setLine n k).normalRead n g d fill true =
      { state := ((s.corrects b x).setLine n { (k.changed .running .started) with
          ring := k.ring.advance k.placement.capacity 1, counters := k.counters.reading x }).post .lineState
            (16 + n.val) [word k.state.code, word LineState.running.code, word LineCause.started.code]
        octets := if x.filler then alarmFill else x.payload
        decision := d, substituted := x.filler, fill := some fill
        corrected := if x.conditions = {} then 0 else 1 } := by
  have hno : ¬(k.placement.unit = .group ∧ x.filler = false ∧ x.position ≠ g) := fun ⟨hu, hf, hp⟩ =>
    (hm hu).elim (fun e => by rw [hf] at e; cases e) hp
  rw [State.normalRead_of_read (s.setLine n k) n g d fill true (b := b) (x := x)
    (by rw [State.setLine_line_same]; exact hb) (by rw [State.setLine_line_same]; exact hs) (Slot.result_ne hu),
    State.setLine_line_same, if_neg hno, s.countRead_of_correctable n hu, Slot.corrected_eq hu, State.post_setLine]
  rw [State.startLine_true, State.changeLine_setLine, State.advanceRing_setLine]
  rfl

/-- A read at a tag mismatch (R52). -/
theorem State.normalRead_mismatched (start : Bool) (hb : s.readBankOf k = b) (hs : s.slotToRead k = x)
    (hu : .uncorrectable ∉ x.conditions.toList) (hg : k.placement.unit = .group) (hf : x.filler = false)
    (hp : x.position ≠ g) :
    (s.setLine n k).normalRead n g d fill start =
      { state := ((s.corrects b x).setLine n { k with counters :=
          { k.counters.reading x with misalign := (k.counters.reading x).misalign + 1 } }).refill n .tagMismatch
        decision := .tagMismatch, corrected := if x.conditions = {} then 0 else 1 } := by
  rw [State.normalRead_of_read (s.setLine n k) n g d fill start (b := b) (x := x)
    (by rw [State.setLine_line_same]; exact hb) (by rw [State.setLine_line_same]; exact hs) (Slot.result_ne hu),
    State.setLine_line_same, if_pos ⟨hg, hf, hp⟩, s.countRead_of_correctable n hu, Slot.corrected_eq hu]
  unfold State.tagMismatch
  dsimp only
  rw [State.modLine_setLine]

end

/-! ## Slips -/

/-- The direction of a slip (R49, R50): 1 a repeat, 2 a delete, 0 none. -/
def Line.slipDirection (m : Line) (g : GroupPos) (fill : Nat) : Nat :=
  if (m.placement.unit = .frame ∨ g = 0) ∧ fill < m.reader.tLow then 1
  else if (m.placement.unit = .frame ∨ g = 0) ∧ m.reader.tHigh < fill then 2 else 0

/-- The ring once it has slipped (R49, R50). -/
def Line.slipRing (m : Line) (dir : Nat) : Ring :=
  if dir = 1 then m.ring.back m.placement.capacity m.placement.u
  else if dir = 2 then m.ring.advance m.placement.capacity m.placement.u else m.ring

theorem Line.slipRing_eq (m : Line) (dir : Nat) : m.slipRing dir =
    { readIndex := if dir = 1 then (m.ring.readIndex + (m.placement.capacity - m.placement.unit.slots)) %
          m.placement.capacity
        else if dir = 2 then (m.ring.readIndex + m.placement.unit.slots) % m.placement.capacity
        else m.ring.readIndex
      held := if dir = 1 then m.ring.held + m.placement.unit.slots
        else if dir = 2 then m.ring.held - m.placement.unit.slots else m.ring.held } := by
  unfold Line.slipRing
  split
  · rfl
  · split <;> rfl

/-- The decision that a slip brings (R56). -/
def slipDecision (dir : Nat) : Decision :=
  if dir = 1 then .repeatUnit else if dir = 2 then .deleteUnit else .normal

/-- The counters of a line that has slipped (R56). -/
def LineCounters.slipping (c : LineCounters) (dir : Nat) : LineCounters :=
  if dir = 1 then { c with repeats := c.repeats + 1 }
  else if dir = 2 then { c with deletes := c.deletes + 1 } else c

/-- An action counted with the slip before it, if there was one (R56). -/
def Acted.slipped (a : Acted) (n : LineNo) (m : Line) (dir fill : Nat) : Acted :=
  if dir = 0 then a else a.countSlip n m dir fill

section
variable (s : State) (n : LineNo) (m : Line) (g : GroupPos) (fill : Nat)

theorem Line.slipDirection_cases :
    (m.slipDirection g fill = 1 ∧ (m.placement.unit = .frame ∨ g = 0) ∧ fill < m.reader.tLow) ∨
    (m.slipDirection g fill = 2 ∧ (m.placement.unit = .frame ∨ g = 0) ∧ ¬fill < m.reader.tLow ∧
      m.reader.tHigh < fill) ∨
    (m.slipDirection g fill = 0 ∧
      ((m.placement.unit = .frame ∨ g = 0) → ¬fill < m.reader.tLow ∧ ¬m.reader.tHigh < fill)) := by
  unfold Line.slipDirection
  split
  · next h => exact .inl ⟨rfl, h⟩
  · next h =>
    split
    · next hd => exact .inr (.inl ⟨rfl, hd.1, fun e => h ⟨hd.1, e⟩, hd.2⟩)
    · next hd => exact .inr (.inr ⟨rfl, fun hm => ⟨fun e => h ⟨hm, e⟩, fun e => hd ⟨hm, e⟩⟩⟩)

/-- The read of a RUNNING line, after the slip that its fill calls for (R49, R50). -/
theorem State.slipAct_setLine (hmay : m.placement.unit = .frame ∨ g = 0) :
    (s.setLine n m).slipAct n g fill =
      ((s.setLine n { m with ring := m.slipRing (m.slipDirection g fill) }).normalRead n g
        (slipDecision (m.slipDirection g fill)) fill false).slipped n m (m.slipDirection g fill) fill := by
  unfold State.slipAct
  dsimp only
  rw [State.setLine_line_same, State.modLine_setLine, State.advanceRing_setLine]
  rcases m.slipDirection_cases g fill with ⟨hd, -, hlow⟩ | ⟨hd, -, hlow, hhigh⟩ | ⟨hd, hnone⟩
  · rw [hd, if_pos hlow]
    rfl
  · rw [hd, if_neg hlow, if_pos hhigh]
    rfl
  · rw [hd, if_neg (hnone hmay).1, if_neg (hnone hmay).2]
    rfl

theorem State.runningAct_setLine (h : (m.placement.unit = .frame ∨ g = 0) ∨ m.ring.held ≠ 0) :
    (s.setLine n m).runningAct n g fill =
      ((s.setLine n { m with ring := m.slipRing (m.slipDirection g fill) }).normalRead n g
        (slipDecision (m.slipDirection g fill)) fill false).slipped n m (m.slipDirection g fill) fill := by
  by_cases hmay : m.placement.unit = .frame ∨ g = 0
  · rw [← State.slipAct_setLine s n m g fill hmay]
    unfold State.runningAct
    dsimp only
    rw [State.setLine_line_same]
    rcases hmay with hf | hg
    · rw [hf]
    · cases m.placement.unit with
      | frame => rfl
      | group => exact if_pos hg
  · have hunit : m.placement.unit = .group := by
      cases hu : m.placement.unit with
      | frame => exact absurd (.inl hu) hmay
      | group => rfl
    have hnone : m.slipDirection g fill = 0 := by
      rcases m.slipDirection_cases g fill with ⟨_, hm, _⟩ | ⟨_, hm, _⟩ | ⟨hd, _⟩
      · exact absurd hm hmay
      · exact absurd hm hmay
      · exact hd
    unfold State.runningAct
    dsimp only
    rw [State.setLine_line_same, hunit, hnone]
    dsimp only
    rw [if_neg fun e => hmay (.inr e), if_neg (h.resolve_left hmay)]
    rfl

/-- A slip counted and reported on a line that has just been set (R56). -/
theorem Acted.slipped_setLine {a : Acted} {t : State} {k : Line} {dir : Nat} (hstate : a.state = t.setLine n k)
    (hdir : dir ≤ 2) (hrep : a.repeats = 0) (hdel : a.deletes = 0) :
    a.slipped n m dir fill = { a with
      state := if dir ≠ 0 ∧ m.reader.slipEvents = true then
          (t.setLine n { k with counters := k.counters.slipping dir }).post .slip (16 + n.val)
            (slipDetail dir m fill k.ring.held)
        else t.setLine n { k with counters := k.counters.slipping dir }
      repeats := if dir = 1 then 1 else 0, deletes := if dir = 2 then 1 else 0 } := by
  obtain ⟨st, octets, decision, substituted, handed, rep, del, under, corr, uncorr⟩ := a
  dsimp only at hstate hrep hdel
  subst hstate hrep hdel
  have hcases : dir = 0 ∨ dir = 1 ∨ dir = 2 := by omega
  rcases hcases with rfl | rfl | rfl
  · rfl
  all_goals
    unfold Acted.slipped Acted.countSlip
    dsimp only
    rw [State.modLine_setLine, State.setLine_line_same]
    cases m.reader.slipEvents <;> rfl

theorem Line.slipDirection_le : m.slipDirection g fill ≤ 2 := by
  rcases m.slipDirection_cases g fill with ⟨h, _⟩ | ⟨h, _⟩ | ⟨h, _⟩ <;> omega

variable {m g fill} {dir : Nat} {b : Fin 9} {x : Slot}

/-- The line once it has slipped. -/
def Line.slipTo (m : Line) (dir : Nat) : Line := { m with ring := m.slipRing dir }

/-- The action of a RUNNING line that sends what it reads (R49, R50, R53, R55, R56). -/
theorem State.runningAct_sent (hdir : m.slipDirection g fill = dir)
    (h : (m.placement.unit = .frame ∨ g = 0) ∨ m.ring.held ≠ 0)
    (hb : s.readBankOf m = b) (hs : s.slotToRead (m.slipTo dir) = x)
    (hu : .uncorrectable ∉ x.conditions.toList)
    (hm : m.placement.unit = .group → x.filler = true ∨ x.position = g) :
    (s.setLine n m).runningAct n g fill =
      { state := if dir ≠ 0 ∧ m.reader.slipEvents = true then
            ((s.corrects b x).setLine n { m with
              ring := (m.slipRing dir).advance m.placement.capacity 1
              counters := (m.counters.reading x).slipping dir }).post .slip (16 + n.val)
                (slipDetail dir m fill ((m.slipRing dir).advance m.placement.capacity 1).held)
          else (s.corrects b x).setLine n { m with
            ring := (m.slipRing dir).advance m.placement.capacity 1
            counters := (m.counters.reading x).slipping dir }
        octets := if x.filler then alarmFill else x.payload
        decision := slipDecision dir, substituted := x.filler, fill := some fill
        corrected := if x.conditions = {} then 0 else 1
        repeats := if dir = 1 then 1 else 0, deletes := if dir = 2 then 1 else 0 } := by
  have hsent : (s.setLine n { m with ring := m.slipRing dir }).normalRead n g (slipDecision dir) fill false = _ :=
    State.normalRead_sent s n g (slipDecision dir) fill hb hs hu hm
  have hslipped := Acted.slipped_setLine n m fill
    (a := (s.setLine n { m with ring := m.slipRing dir }).normalRead n g (slipDecision dir) fill false)
    (congrArg Acted.state hsent) (hdir ▸ m.slipDirection_le g fill) (congrArg Acted.repeats hsent)
    (congrArg Acted.deletes hsent)
  rw [State.runningAct_setLine s n m g fill h, hdir, hslipped, hsent]

end

/-! ## The event of a line in service -/

section
variable {s : State} {n : LineNo} (g : GroupPos)

/-- The event of a RUNNING line that received bits (R39, R58). -/
theorem State.readerEvent_of_running (h : (s.line n).state = .running) (hb : (s.line n).bitCount ≠ 0) :
    s.readerEvent n g = State.handOver n (s.line n).fill
      (if (s.line n).reader.recentrePending then
        Sys2Proof.Machine.filled ((s.setLine n ((s.line n).acting 0)).refill n .recentre) .recentre
      else (s.setLine n ((s.line n).acting 0)).runningAct n g (s.line n).fill) := by
  have hact : ∀ m : Line, m.state = .running → (s.setLine n { m with reader := m.reader.adopt }).readerAct n g m.fill =
      if m.reader.recentrePending then
        Sys2Proof.Machine.filled ((s.setLine n m.settled).refill n .recentre) .recentre
      else (s.setLine n m.settled).runningAct n g m.fill := fun m hm => by
    rw [State.readerAct_adopted, hm]
  rw [s.readerEvent_of_deadStage g (State.deadStage_of_bits (.inr (.inr h)) hb)]
  exact congrArg _ (hact { s.line n with deadCount := 0 } h)

/-- The event of a FILLING line that received bits (R39, R58). -/
theorem State.readerEvent_of_filling (h : (s.line n).state = .filling) (hb : (s.line n).bitCount ≠ 0) :
    s.readerEvent n g = State.handOver n (s.line n).fill
      (if (s.line n).reader.recentrePending then
        Sys2Proof.Machine.filled ((s.setLine n ((s.line n).acting 0)).refill n .recentre) .recentre
      else (s.setLine n ((s.line n).acting 0)).fillingAct n g (s.line n).fill) := by
  have hact : ∀ m : Line, m.state = .filling → (s.setLine n { m with reader := m.reader.adopt }).readerAct n g m.fill =
      if m.reader.recentrePending then
        Sys2Proof.Machine.filled ((s.setLine n m.settled).refill n .recentre) .recentre
      else (s.setLine n m.settled).fillingAct n g m.fill := fun m hm => by
    rw [State.readerAct_adopted, hm]
  rw [s.readerEvent_of_deadStage g (State.deadStage_of_bits (.inr (.inl h)) hb)]
  exact congrArg _ (hact { s.line n with deadCount := 0 } h)

end

end Sys2Proof.Machine
end

section
/-!
SUPPORT. The action of a RUNNING line that has no frame to send.
-/
namespace Sys2Proof.Machine

section
variable (s : State) (n : LineNo) {m : Line} {g : GroupPos} {fill dir : Nat} {b : Fin 9} {x : Slot}

/-- The action of a RUNNING line at a tag mismatch (R49, R50, R52, R56). -/
theorem State.runningAct_mismatched (hdir : m.slipDirection g fill = dir)
    (h : (m.placement.unit = .frame ∨ g = 0) ∨ m.ring.held ≠ 0)
    (hb : s.readBankOf m = b) (hs : s.slotToRead (m.slipTo dir) = x)
    (hu : .uncorrectable ∉ x.conditions.toList)
    (hg : m.placement.unit = .group) (hf : x.filler = false) (hp : x.position ≠ g) {c : LineCounters}
    (hc : ({ m.counters.reading x with misalign := (m.counters.reading x).misalign + 1 } : LineCounters).slipping
      dir = c) {t : State}
    (ht : ((s.corrects b x).setLine n { m with ring := m.slipRing dir, counters := c }).refill n .tagMismatch = t) :
    (s.setLine n m).runningAct n g fill =
      { state := if dir ≠ 0 ∧ m.reader.slipEvents = true then
            t.post .slip (16 + n.val) (slipDetail dir m fill (t.line n).ring.held)
          else t
        decision := .tagMismatch, corrected := if x.conditions = {} then 0 else 1
        repeats := if dir = 1 then 1 else 0, deletes := if dir = 2 then 1 else 0 } := by
  subst hc ht
  have hread : (s.setLine n { m with ring := m.slipRing dir }).normalRead n g (slipDecision dir) fill false = _ :=
    State.normalRead_mismatched s n g (slipDecision dir) fill false hb hs hu hg hf hp
  rw [State.refill_setLine] at hread
  have hslipped := Acted.slipped_setLine n m fill
    (a := (s.setLine n { m with ring := m.slipRing dir }).normalRead n g (slipDecision dir) fill false)
    (congrArg Acted.state hread) (hdir ▸ m.slipDirection_le g fill) (congrArg Acted.repeats hread)
    (congrArg Acted.deletes hread)
  rw [State.runningAct_setLine s n m g fill h, hdir, hslipped, hread, State.refill_setLine, State.setLine_line_same]
  rfl

/-- The state around a line whose read found an uncorrectable word (R22, R54, R127). -/
def State.lostAround (b : Fin 9) (x : Slot) (d : Decision) (i r : Nat) : State :=
  ((s.setBank b { s.bank b with uncorrected := (s.bank b).uncorrected + 1 }).post .storeUncorrectable
    (16 + n.val) [word b.val, word i, word r, word x.uncorrectableSet, word d.code]).autoSwap b

/-- The line whose read found an uncorrectable word (R53, R54, R55). -/
def Line.lost (k : Line) : Line :=
  { k with
    counters := { k.counters with storeUncorrected := k.counters.storeUncorrected + 1 }
    ring := k.ring.advance k.placement.capacity 1 }

theorem State.lost_setLine {k : Line} (hk : ∀ j, startMark j k = startMark j (s.line n)) (d : Decision)
    (i r : Nat) :
    ((((s.setBank b { s.bank b with uncorrected := (s.bank b).uncorrected + 1 }).setLine n { k with
      counters := { k.counters with storeUncorrected := k.counters.storeUncorrected + 1 } }).post
        .storeUncorrectable (16 + n.val) [word b.val, word i, word r, word x.uncorrectableSet, word d.code]).autoSwap
          b).advanceRing n 1 = (s.lostAround n b x d i r).setLine n k.lost := by
  rw [State.post_setLine, State.autoSwap_setLine _ n { k with
      counters := { k.counters with storeUncorrected := k.counters.storeUncorrected + 1 } } b
      fun j => (hk j).trans (by rw [State.post_line]; rfl), State.advanceRing_setLine]
  rfl

theorem State.normalRead_lost {k : Line} (hk : ∀ j, startMark j k = startMark j (s.line n)) (d : Decision)
    (hb : s.readBankOf k = b) (hs : s.slotToRead k = x) (hu : .uncorrectable ∈ x.conditions.toList) :
    (s.setLine n k).normalRead n g d fill false =
      { state := (s.lostAround n b x d (k.placement.slotAt k.ring.readIndex) k.ring.readIndex).setLine n k.lost
        decision := d, fill := some fill, uncorrected := 1 } := by
  subst hs
  rw [State.normalRead_of_uncorrectable (s.setLine n k) n g d fill false (b := b)
    (i := k.placement.slotAt k.ring.readIndex) (by rw [State.setLine_line_same]; exact hb)
    (by rw [State.setLine_line_same]) (by subst hb; exact Slot.result_of_uncorrectable hu),
    State.startLine_false, State.countRead_uncorrectable, State.setLine_line_same, State.setBank_setLine,
    State.setLine_setLine]
  subst hb
  refine congrArg (fun t : State => ({ state := t, decision := d, fill := some fill, uncorrected := 1 } : Acted)) ?_
  exact s.lost_setLine n hk d _ _

/-- The action of a RUNNING line at an uncorrectable slot (R49, R50, R54, R56, R127). -/
theorem State.runningAct_lost (hdir : m.slipDirection g fill = dir)
    (h : (m.placement.unit = .frame ∨ g = 0) ∨ m.ring.held ≠ 0)
    (hk : ∀ j, startMark j m = startMark j (s.line n))
    (hb : s.readBankOf m = b) (hs : s.slotToRead (m.slipTo dir) = x)
    (hu : .uncorrectable ∈ x.conditions.toList) {t : State}
    (ht : (s.lostAround n b x (slipDecision dir) (m.placement.slotAt (m.slipRing dir).readIndex)
      (m.slipRing dir).readIndex).setLine n
        ({ m with ring := m.slipRing dir, counters := m.counters.slipping dir } : Line).lost = t) :
    (s.setLine n m).runningAct n g fill =
      { state := if dir ≠ 0 ∧ m.reader.slipEvents = true then
            t.post .slip (16 + n.val) (slipDetail dir m fill (t.line n).ring.held)
          else t
        decision := slipDecision dir, fill := some fill, uncorrected := 1
        repeats := if dir = 1 then 1 else 0, deletes := if dir = 2 then 1 else 0 } := by
  subst ht
  have hread : (s.setLine n (m.slipTo dir)).normalRead n g (slipDecision dir) fill false = _ :=
    State.normalRead_lost s n (k := m.slipTo dir) (fun j => hk j) (slipDecision dir) hb hs hu
  have hslipped := Acted.slipped_setLine n m fill
    (a := (s.setLine n (m.slipTo dir)).normalRead n g (slipDecision dir) fill false)
    (congrArg Acted.state hread) (hdir ▸ m.slipDirection_le g fill) (congrArg Acted.repeats hread)
    (congrArg Acted.deletes hread)
  have hcounters : ({ (m.slipTo dir).lost with counters := (m.slipTo dir).lost.counters.slipping dir } : Line) =
      ({ m with ring := m.slipRing dir, counters := m.counters.slipping dir } : Line).lost := by
    unfold Line.lost Line.slipTo LineCounters.slipping
    dsimp only
    split
    · rfl
    · split <;> rfl
  rw [hcounters] at hslipped
  rw [State.runningAct_setLine s n m g fill h, hdir, show ({ m with ring := m.slipRing dir } : Line) =
    m.slipTo dir from rfl, hslipped, hread, State.setLine_line_same]
  rfl

end

end Sys2Proof.Machine
end

section
/-!
PROOFS. The reader of a RUNNING line.
-/
namespace Sys2Proof.Proofs

open Sys2Proof.Machine

/-- Settles O34: a slip, if the fill calls for one, and the read of the slot that r then names. -/
theorem runningLineSlipsAndReads : Obligations.RunningLineSlipsAndReads := by
  intro s n g l p u c fill mayslip direction r held bank x hstate hb hr hread hu hm fixed decision served counters
    read
  have hring : (l.acting 0).slipRing direction = { readIndex := r, held := held } :=
    (l.acting 0).slipRing_eq direction
  have hslot : s.slotToRead ((l.acting 0).slipTo direction) = x :=
    congrArg (fun y : Ring => s.slot bank (p.slotAt y.readIndex)) hring
  have hact := State.runningAct_sent s n (m := l.acting 0) (g := g) (fill := fill) (dir := direction) rfl hread (b := bank) rfl hslot hu hm
  rw [State.readerEvent_of_running g hstate hb, if_neg (by rw [hr]; decide)]
  refine congrArg _ (hact.trans ?_)
  have hserved : s.corrects bank x = served := by
    unfold State.corrects
    by_cases hx : x.conditions = {}
    · simp only [served, fixed, if_pos hx]
      rfl
    · simp only [served, fixed, if_neg hx]
      rfl
  have hcounters : (l.acting 0).counters.reading x = counters := by
    unfold LineCounters.reading
    by_cases hx : x.conditions = {}
    · simp only [counters, fixed, if_pos hx]
      rfl
    · simp only [counters, fixed, if_neg hx]
      rfl
  rw [hring, hserved, hcounters]
  rfl

/-- Settles O35, case by case of what keeps the line from sending a frame. -/
theorem runningLineSendsAlarmFill : Obligations.RunningLineSendsAlarmFill := by
  intro s n g l p u c fill mayslip direction r held bank i x counters at_ told decision fixed hstate hb
  have hevent := State.readerEvent_of_running g hstate hb
  have hring : (l.acting 0).slipRing direction = { readIndex := r, held := held } :=
    (l.acting 0).slipRing_eq direction
  have hslot : s.slotToRead ((l.acting 0).slipTo direction) = x :=
    congrArg (fun y : Ring => s.slot bank (p.slotAt y.readIndex)) hring
  refine ⟨fun hr => ?_, fun hr hg hg0 hheld => ?_, fun hr hread => ⟨fun hg hu hf hp => ?_, fun hu => ?_⟩⟩
  · rw [hevent, if_pos hr]
    rfl
  · rw [hevent, if_neg (by rw [hr]; decide)]
    refine congrArg _ ?_
    show State.runningAct (s.setLine n (l.acting 0)) n g fill = _
    unfold State.runningAct
    dsimp only
    rw [State.setLine_line_same, show (l.acting 0).placement.unit = .group from hg]
    dsimp only
    rw [if_neg hg0, if_pos (show (l.acting 0).ring.held = 0 from hheld)]
    unfold State.underrun
    dsimp only
    rw [State.modLine_setLine]
    rfl
  · rw [hevent, if_neg (by rw [hr]; decide)]
    refine congrArg _ ((State.runningAct_mismatched s n (m := l.acting 0) (g := g) (fill := fill) (dir := direction) rfl
      hread (b := bank) rfl hslot hu hg hf hp rfl rfl).trans ?_)
    have hcorrects : s.corrects bank x = if fixed = 1 then
        s.setBank bank { s.bank bank with corrected := (s.bank bank).corrected + 1 } else s := by
      unfold State.corrects
      by_cases hx : x.conditions = {}
      · simp only [fixed, if_pos hx]
        rfl
      · simp only [fixed, if_neg hx]
        rfl
    have hcounters : ({ (l.acting 0).counters.reading x with
        misalign := ((l.acting 0).counters.reading x).misalign + 1 } : LineCounters).slipping direction =
        { counters with
          misalign := counters.misalign + 1
          storeCorrected := if fixed = 1 then counters.storeCorrected + 1 else counters.storeCorrected } := by
      unfold LineCounters.reading LineCounters.slipping
      by_cases hx : x.conditions = {} <;> by_cases h1 : direction = 1 <;> by_cases h2 : direction = 2 <;>
        simp only [counters, fixed, hx, h1, h2, if_true, if_false] <;> rfl
    rw [hring, hcounters, hcorrects]
    rfl
  · rw [hevent, if_neg (by rw [hr]; decide)]
    refine congrArg _ ((State.runningAct_lost s n (m := l.acting 0) (g := g) (fill := fill) (dir := direction) rfl
      hread (fun _ => rfl) (b := bank) rfl hslot hu rfl).trans ?_)
    have hlost := s.lost_setLine n (b := bank) (x := x) (k := { l.acting 0 with
      ring := { readIndex := r, held := held }, counters := counters }) (fun _ => rfl) decision i r
    rw [hring]
    exact congrArg (fun t : State => ({
      state := told t, decision := decision, fill := some fill, uncorrected := 1
      repeats := if direction = 1 then 1 else 0, deletes := if direction = 2 then 1 else 0 } : Acted)) hlost.symm

end Sys2Proof.Proofs
end

section
/-!
SUPPORT. The action of a FILLING line: its trim, and the read at its centre.
-/
namespace Sys2Proof.Machine

section
variable (s : State) (n : LineNo) {m : Line} (g : GroupPos) (fill : Nat)

/-- The slots that a group trim discards (R47). -/
def State.trim (m : Line) : Nat :=
  if m.placement.unit = .group then (g - (s.slotToRead m).position).val else 0

/-- The ring after a group trim of k slots (R47, R48). -/
def Line.trimTo (m : Line) (k : Nat) : Line :=
  { m with ring :=
    { readIndex := if m.placement.unit = .group then (m.ring.readIndex + k) % m.placement.capacity
        else m.ring.readIndex
      held := m.ring.held - k } }

/-- The action of a FILLING line that can tell its trim (R46, R47, R48). -/
theorem State.fillingAct_setLine
    (h : m.placement.unit = .group → m.ring.held ≠ 0 ∧ ¬(s.slotToRead m).conditions.w0 = .uncorrectable) :
    (s.setLine n m).fillingAct n g fill =
      if m.reader.centre + 320 * s.trim g m ≤ fill then
        (s.setLine n (m.trimTo (s.trim g m))).normalRead n g .start (fill - 320 * s.trim g m) true
      else Sys2Proof.Machine.filled (s.setLine n m) .fill := by
  unfold State.fillingAct
  dsimp only
  rw [State.setLine_line_same]
  cases hu : m.placement.unit with
  | frame =>
    have hk : s.trim g m = 0 := by rw [State.trim, hu]; rfl
    have hline : m.trimTo 0 = m := by
      unfold Line.trimTo
      rw [hu]
      rfl
    rw [hk, hline]
    rfl
  | group =>
    obtain ⟨hheld, hlost⟩ := h hu
    have hk : s.trim g m = (g - (s.slotToRead m).position).val := by rw [State.trim, hu]; rfl
    have hline : (s.setLine n m).advanceRing n (s.trim g m) = s.setLine n (m.trimTo (s.trim g m)) := by
      rw [State.advanceRing_setLine]
      unfold Line.trimTo
      rw [hu]
      rfl
    dsimp only
    rw [if_neg hheld, ← hline, hk]
    exact if_neg hlost

theorem State.fillingAct_empty (hu : m.placement.unit = .group) (hheld : m.ring.held = 0) :
    (s.setLine n m).fillingAct n g fill = Sys2Proof.Machine.filled (s.setLine n m) .fill := by
  unfold State.fillingAct
  dsimp only
  rw [State.setLine_line_same, hu]
  exact if_pos hheld

/-- A trim whose tag word is uncorrectable is a tag mismatch (R47). -/
theorem State.fillingAct_lost (hu : m.placement.unit = .group) (hheld : m.ring.held ≠ 0)
    (hlost : (s.slotToRead m).conditions.w0 = .uncorrectable) :
    (s.setLine n m).fillingAct n g fill = Sys2Proof.Machine.filled
      ((s.setLine n { m with counters := { m.counters with misalign := m.counters.misalign + 1 } }).refill n
        .tagMismatch) .tagMismatch := by
  have hmis : (s.setLine n m).tagMismatch n =
      (s.setLine n { m with counters := { m.counters with misalign := m.counters.misalign + 1 } }).refill n
        .tagMismatch := by
    unfold State.tagMismatch
    dsimp only
    rw [State.modLine_setLine]
  unfold State.fillingAct
  dsimp only
  rw [State.setLine_line_same, hu, hmis]
  dsimp only
  rw [if_neg hheld]
  exact if_pos hlost

/-- A store reset leaves nothing of the ring before it (R34). -/
theorem State.refill_setLine_ring (m : Line) (x : Ring) (cause : LineCause) :
    (s.setLine n { m with ring := x }).refill n cause = (s.setLine n m).refill n cause := by
  rw [State.refill_setLine, State.refill_setLine]
  rfl

variable {b : Fin 9} {x : Slot}

/-- A start at an uncorrectable slot (R48, R54, R127). -/
theorem State.normalRead_startedLost {k : Line} (hstate : k.state = .filling)
    (hk : ∀ j, startMark j k = startMark j (s.line n)) (d : Decision) (hb : s.readBankOf k = b)
    (hs : s.slotToRead k = x) (hu : .uncorrectable ∈ x.conditions.toList) :
    (s.setLine n k).normalRead n g d fill true =
      { state := (((((s.setBank b { s.bank b with uncorrected := (s.bank b).uncorrected + 1 }).setLine n
          { k with
            state := .running, lastCause := .started, ring := k.ring.advance k.placement.capacity 1
            counters := { k.counters with storeUncorrected := k.counters.storeUncorrected + 1 } }).post .lineState
            (16 + n.val) [2, 3, 5]).post .storeUncorrectable (16 + n.val)
              [word b.val, word (k.placement.slotAt k.ring.readIndex), word k.ring.readIndex,
                word x.uncorrectableSet, word d.code]).autoSwap b)
        decision := d, fill := some fill, uncorrected := 1 } := by
  have hmark : ∀ (t : State) (r : Ring) (c : LineCounters) j, t.line n = s.line n → startMark j ({ k with
      state := .running, lastCause := .started, ring := r, counters := c } : Line) = startMark j (t.line n) :=
    fun t r c j ht => by
      rw [ht, ← hk j]
      unfold startMark
      dsimp only
      rw [hstate]
  subst hs hb
  rw [State.normalRead_of_uncorrectable (s.setLine n k) n g d fill true (b := s.readBankOf k)
    (i := k.placement.slotAt k.ring.readIndex) (by rw [State.setLine_line_same]; rfl)
    (by rw [State.setLine_line_same]) (Slot.result_of_uncorrectable hu), State.startLine_true,
    State.countRead_uncorrectable, State.setLine_line_same, State.setBank_setLine, State.setLine_setLine,
    State.changeLine_setLine]
  refine congrArg (fun t : State => ({ state := t, decision := d, fill := some fill, uncorrected := 1 } : Acted)) ?_
  have hchanged : ({ k with counters := { k.counters with
      storeUncorrected := k.counters.storeUncorrected + 1 } } : Line).changed .running .started = { k with
        state := .running, lastCause := .started
        counters := { k.counters with storeUncorrected := k.counters.storeUncorrected + 1 } } := by
    unfold Line.changed
    dsimp only
    rw [hstate]
    rfl
  rw [hchanged, State.postLine, State.post_setLine, State.post_setLine, State.post_setLine,
    State.autoSwap_setLine _ n { k with
      state := .running, lastCause := .started
      counters := { k.counters with storeUncorrected := k.counters.storeUncorrected + 1 } } _
      fun j => hmark _ _ _ j (by rw [State.post_line, State.post_line]; rfl),
    State.autoSwap_setLine _ n { k with
      state := .running, lastCause := .started, ring := k.ring.advance k.placement.capacity 1
      counters := { k.counters with storeUncorrected := k.counters.storeUncorrected + 1 } } _
      fun j => hmark _ _ _ j (by rw [State.post_line, State.post_line]; rfl), State.advanceRing_setLine, hstate]
  rfl

end

end Sys2Proof.Machine
end

section
/-!
PROOFS. The reader of a FILLING line.
-/
namespace Sys2Proof.Proofs

open Sys2Proof.Machine

/-- Settles O36, by what the line can tell of its trim and what it reads at its centre. -/
theorem fillingLineStartsAtItsCentre : Obligations.FillingLineStartsAtItsCentre := by
  intro s n g l p c fill centre bank first group k r i x fixed at_ waits lost started corrected counters hstate hb hr
  have hevent := State.readerEvent_of_filling g hstate hb
  rw [if_neg (by rw [hr]; decide)] at hevent
  have hcorrects : s.corrects bank x = corrected := by
    unfold State.corrects
    by_cases hx : x.conditions = {}
    · simp only [corrected, fixed, if_pos hx]
      rfl
    · simp only [corrected, fixed, if_neg hx]
      rfl
  have hcounters : (l.acting 0).counters.reading x = counters := by
    unfold LineCounters.reading
    by_cases hx : x.conditions = {} <;> simp only [counters, fixed, hx, if_true, if_false] <;> rfl
  refine ⟨fun hu hheld => ?_, fun hu hheld hlost => ?_, fun hready hshort => ?_, fun hready hfull =>
    ⟨fun hun hm => ?_, fun hun hu hf hp => ?_, fun hun => ?_⟩⟩
  · exact hevent.trans (congrArg _ (State.fillingAct_empty s n g fill (m := l.acting 0) hu hheld))
  · exact hevent.trans (congrArg _ (State.fillingAct_lost s n g fill (m := l.acting 0) hu hheld hlost))
  · have hact := State.fillingAct_setLine s n g fill (m := l.acting 0) hready
    exact hevent.trans (congrArg _ (hact.trans (if_neg (show ¬centre + 320 * k ≤ fill by omega))))
  all_goals
    have hact := State.fillingAct_setLine s n g fill (m := l.acting 0) hready
    refine hevent.trans (congrArg _ (hact.trans ((if_pos hfull).trans ?_)))
  · refine (State.normalRead_started s n (k := (l.acting 0).trimTo k) g .start (fill - 320 * k) (b := bank) (x := x) rfl
      rfl hun hm).trans ?_
    have hchanged : ((l.acting 0).trimTo k).changed .running .started =
        { (l.acting 0).trimTo k with state := .running, lastCause := .started } := by
      unfold Line.changed
      rw [show ((l.acting 0).trimTo k).state = .filling from hstate, if_neg (by decide)]
    rw [hcorrects, show ((l.acting 0).trimTo k).counters.reading x = counters from hcounters, hchanged,
      show ((l.acting 0).trimTo k).state = .filling from hstate]
    rfl
  · refine (State.normalRead_mismatched s n (k := (l.acting 0).trimTo k) g .start (fill - 320 * k) true (b := bank)
      (x := x) rfl rfl hun hu hf hp).trans ?_
    rw [hcorrects, show ((l.acting 0).trimTo k).counters.reading x = counters from hcounters]
    exact congrArg (fun t : State => ({ state := t, decision := .tagMismatch, corrected := fixed } : Acted))
      (corrected.refill_setLine_ring n { l.acting 0 with
        counters := { counters with misalign := counters.misalign + 1 } } ((l.acting 0).trimTo k).ring .tagMismatch)
  · refine (State.normalRead_startedLost s n g (fill - 320 * k) (k := (l.acting 0).trimTo k) hstate (fun _ => rfl) .start
      (b := bank) (x := x) rfl rfl hun).trans ?_
    rfl

end Sys2Proof.Proofs
end

section
/-!
SUPPORT. The patrol's readings and the words it scrubs, by which bits of a word are in error.
-/
namespace Sys2Proof.Machine

section
variable {s : State} {x : Nat}

/-! ## The bad-word list -/

theorem State.offerBadWord_of_held (h : x ∈ s.badWords.offsets) : s.offerBadWord x = s := by
  rw [State.offerBadWord, if_pos h]

theorem State.offerBadWord_of_room (h : x ∉ s.badWords.offsets) (hl : s.badWords.offsets.length < 16) :
    s.offerBadWord x = ({ s with badWords := { s.badWords with
      offsets := s.badWords.offsets ++ [x] } } : State).post .controlEcc 0
        [word x, word (s.badWords.offsets.length + 1)] := by
  rw [State.offerBadWord, if_neg h, if_pos (show _ < Config.badListSize from hl)]
  simp only [List.length_append, List.length_singleton]
  rfl

theorem State.offerBadWord_of_full (h : x ∉ s.badWords.offsets) (hl : 16 ≤ s.badWords.offsets.length) :
    s.offerBadWord x = { s with badWords := { s.badWords with
      overflow := min 65535 (s.badWords.overflow + 1) } } := by
  rw [State.offerBadWord, if_neg h, if_neg (show ¬_ < Config.badListSize from Nat.not_lt.mpr hl)]
  rfl

/-! ## Readings -/

theorem MemWord.corrected_of_clean {w : MemWord} (h : w.condition = .clean) : w.corrected = w.raw := by
  rw [MemWord.corrected, h]

theorem MemWord.corrected_of_single {w : MemWord} {b : Nat} (h : w.condition = .single b) :
    w.corrected = if b < 16 then w.raw ^^^ (1 <<< b) else w.raw := by
  rw [MemWord.corrected, h]

variable {r : Record} {i : Nat}

theorem State.readRequest_of_uncorrectable (h : (s.memWord (r.base + i)).condition = .uncorrectable) :
    s.readRequest r i = (s.offerBadWord (2 * (r.base + i)), none) := by
  rw [State.readRequest, h]

theorem State.readRequest_of_read (h : (s.memWord (r.base + i)).condition ≠ .uncorrectable) :
    s.readRequest r i = (s, some (s.memWord (r.base + i)).corrected) := by
  unfold State.readRequest
  cases hc : (s.memWord (r.base + i)).condition with
  | clean => rfl
  | single b => rfl
  | uncorrectable => exact absurd hc h

/-! ## The judgement -/

variable {appser a : Word} {fields : List (Option Word)}

theorem judgeSnapshot_of_unread {first last : Option Word} (h : first = none ∨ last = none) :
    judgeSnapshot appser first fields last = .poisonedSerial := by
  rcases h with rfl | rfl
  · rfl
  · cases first <;> rfl

theorem judgeSnapshot_torn {b : Word} (h : a ≠ b) : judgeSnapshot appser (some a) fields (some b) = .torn :=
  if_pos h

theorem judgeSnapshot_old : judgeSnapshot a (some a) fields (some a) = .old := by
  show (if a ≠ a then _ else if a = a then _ else _) = _
  rw [if_neg (not_not.mpr rfl), if_pos rfl]

/-- A new serial whose first unread field is the k-th is POISONED there (R160). -/
theorem judgeSnapshot_poisoned (h : a ≠ appser) {k : Nat} (hk : fields[k]? = some none)
    (hbefore : ∀ j, j < k → fields[j]? ≠ some none) :
    judgeSnapshot appser (some a) fields (some a) = .poisonedField a (k + 1) := by
  have hfind : fields.findIdx? (·.isNone) = some k := by
    obtain ⟨hlt, hnone⟩ := List.getElem?_eq_some_iff.mp hk
    refine List.findIdx?_eq_some_iff_getElem.mpr ⟨hlt, by rw [hnone]; rfl, fun j hj => ?_⟩
    intro hj'
    refine hbefore j hj (List.getElem?_eq_some_iff.mpr ⟨hj.trans hlt, ?_⟩)
    exact Option.isNone_iff_eq_none.mp hj'
  unfold judgeSnapshot
  dsimp only
  rw [if_neg (not_not.mpr rfl), if_neg h, hfind]

theorem judgeSnapshot_new (h : a ≠ appser) (words : List Word) :
    judgeSnapshot appser (some a) (words.map some) (some a) = .new (a :: words) := by
  have hfind : (words.map some).findIdx? (·.isNone) = none := by
    simp [List.findIdx?_eq_none_iff]
  unfold judgeSnapshot
  dsimp only
  rw [if_neg (not_not.mpr rfl), if_neg h, hfind]
  simp

end

end Sys2Proof.Machine
end

section
/-!
PROOFS. Readings, judgements and the scrub of a word.
-/
namespace Sys2Proof.Proofs

open Sys2Proof.Machine

/-- Settles O38, by the judgement and by the word's condition. -/
theorem snapshotsAreJudgedAndWordsScrubbed : Obligations.SnapshotsAreJudgedAndWordsScrubbed := by
  refine ⟨fun s r first last fields => ?_, fun s r i => ?_, fun s a => ?_⟩
  · intro h done poisoned
    refine ⟨fun hn => ?_, fun a b hf hl => ?_⟩
    · show s.actOn r (judgeSnapshot h.appser first fields last) = _
      rw [judgeSnapshot_of_unread hn]
      rfl
    · subst hf hl
      refine ⟨fun hne => ?_, fun he ho => ?_, fun he hn k _ hk hbefore => ?_, fun words he hn hw => ?_⟩
      · show s.actOn r (judgeSnapshot h.appser (some a) fields (some b)) = _
        rw [judgeSnapshot_torn hne]
        rfl
      · subst he ho
        show s.actOn r (judgeSnapshot h.appser (some h.appser) fields (some h.appser)) = _
        rw [judgeSnapshot_old]
        rfl
      · subst he
        show s.actOn r (judgeSnapshot h.appser (some a) fields (some a)) = _
        rw [judgeSnapshot_poisoned hn hk hbefore]
        rfl
      · subst he hw
        show s.actOn r (judgeSnapshot h.appser (some a) (words.map some) (some a)) = _
        rw [judgeSnapshot_new hn]
        rfl
  · intro a m l
    refine ⟨fun h => ?_, fun b h => ?_, fun b c e h => ?_⟩
    · have hclean : m.condition = .clean := MemWord.condition_of_nil h
      rw [State.readRequest_of_read (by rw [show (s.memWord (r.base + i)).condition = _ from hclean]; nofun),
        MemWord.corrected_of_clean hclean]
    · have hsingle : m.condition = .single b := MemWord.condition_of_singleton h
      rw [State.readRequest_of_read (by rw [show (s.memWord (r.base + i)).condition = _ from hsingle]; nofun),
        MemWord.corrected_of_single hsingle]
    · have hbad : m.condition = .uncorrectable := by
        rw [MemWord.condition, h]
        rfl
      rw [State.readRequest_of_uncorrectable hbad]
      exact ⟨fun hl => congrArg (·, none) (State.offerBadWord_of_held hl),
        fun hl hn => congrArg (·, none) (State.offerBadWord_of_room hl hn),
        fun hl hn => congrArg (·, none) (State.offerBadWord_of_full hl hn)⟩
  · intro m l
    refine ⟨fun h => ?_, fun b h => ?_, fun h => ⟨fun ho => ?_, fun ho => ?_, fun ho hl => ?_, fun ho hl hn => ?_,
      fun ho hl hn => ?_⟩⟩
    · rw [State.scrubWord, show (s.memWord a).condition = _ from h]
    · refine ⟨_, by rw [State.scrubWord, show (s.memWord a).condition = _ from h], rfl, ?_, fun c hc => ?_⟩
      · rw [← MemWord.corrected_of_single h]
        exact s.memWrite_memWord_same a _
      · exact s.memWrite_memWord_ne hc _
    all_goals rw [State.scrubWord, show (s.memWord a).condition = _ from h]; dsimp only; rw [ho] <;> dsimp only
    · exact State.offerBadWord_of_held hl
    · exact State.offerBadWord_of_room hl hn
    · exact State.offerBadWord_of_full hl hn

end Sys2Proof.Proofs
end

section
/-!
SUPPORT. A local cycle part by part: the errors that strike, the silence counts, the NCO and the patrol's
interval (R21, R89, R103, R147, R156).
-/
namespace Sys2Proof.Machine

/-! ## The errors that strike -/

theorem mem_strikeBit {l : List Nat} {b c : Nat} :
    c ∈ strikeBit l b ↔ if c = b then b ∉ l else c ∈ l := by
  unfold strikeBit
  by_cases hb : b ∈ l
  · rw [if_pos hb]
    split <;> simp [*]
  · rw [if_neg hb]
    split
    · next h => simp [h, hb]
    · next h =>
      simp only [List.mem_append, List.mem_cons, List.mem_filter, decide_eq_true_eq]
      have := Nat.lt_or_gt_of_ne h
      tauto

/-- The bits in error stay in ascending order. -/
theorem pairwise_strikeBit {l : List Nat} (h : l.Pairwise (· < ·)) (b : Nat) :
    (strikeBit l b).Pairwise (· < ·) := by
  unfold strikeBit
  split
  · exact h.filter _
  · refine List.pairwise_append.mpr ⟨h.filter _, List.pairwise_cons.mpr ⟨?_, h.filter _⟩, ?_⟩
    · simp
    · simp only [List.mem_filter, List.mem_cons, decide_eq_true_eq]
      rintro x ⟨-, hx⟩ y (rfl | ⟨-, hy⟩) <;> omega

theorem SlotErrors.struck_eq (e : SlotErrors) (w : Fin 5) (b : Nat) :
    e.struck w b =
      { w0 := if w = 0 then strikeBit e.w0 b else e.w0
        w1 := if w = 1 then strikeBit e.w1 b else e.w1
        w2 := if w = 2 then strikeBit e.w2 b else e.w2
        w3 := if w = 3 then strikeBit e.w3 b else e.w3
        w4 := if w = 4 then strikeBit e.w4 b else e.w4 } := by
  fin_cases w <;> rfl

section
variable (s : State)

theorem State.struck_phase (x : Strike) : (s.struck x).phase = s.phase := by cases x <;> rfl

/-- An event that is no host cycle comes before the rest of its cycle. -/
theorem exec_localCycle_cons (holdreq : Bool) {x : Strike} (rest : List Strike)
    (h : hostCycles (x :: rest) = hostCycles rest) :
    exec (.localOscillatorCycle holdreq (x :: rest)) s =
      exec (.localOscillatorCycle holdreq rest) (s.struck x) := by
  show execLocalOscillatorCycle holdreq (x :: rest) s = execLocalOscillatorCycle holdreq rest (s.struck x)
  simp only [execLocalOscillatorCycle, State.localCycle, State.outOfReset, List.foldl_cons,
    s.struck_phase, h]

theorem hostCycles_map (l : List (Nat × HostCycle)) :
    hostCycles (l.map fun c => .host c.1 c.2) = l := by
  simp [hostCycles, List.filterMap_map]

theorem State.foldl_struck_host (l : List (Nat × HostCycle)) :
    (l.map fun c => Strike.host c.1 c.2).foldl State.struck s = s := by
  induction l with
  | nil => rfl
  | cons c l ih => exact ih

/-! ## The silence counts -/

theorem State.takeSelector_silence (cause : SelectorCause) (x : Bus) :
    ((s.takeSelector cause).timing.bus x).silence = (s.timing.bus x).silence := by
  have hswitch : ∀ new, ((s.timing.switch new).bus x).silence = (s.timing.bus x).silence := fun new => by
    rw [Timing.switch_bus]
    split <;> rfl
  by_cases h : s.timing.nextSelector = s.timing.selector
  · rw [s.takeSelector_of_eq h]
  · rw [s.takeSelector_of_ne h, State.changeSelector_timing]
    split
    · rw [Timing.tick_bus, hswitch]
    · exact hswitch _

theorem State.changeBus_silence (x : Bus) (new : MonitorState) (cause : BusCause) (y : Bus) :
    ((s.changeBus x new cause).timing.bus y).silence = (s.timing.bus y).silence := by
  rw [s.changeBus_eq, State.takeSelector_silence]
  cases x <;> cases y <;> simp [State.moveBus, Timing.bus] <;> rfl

/-- A missing clock of bus A leaves the silence count of bus B alone. -/
theorem State.loseClock_silence : ((s.loseClock .a).timing.bus .b).silence = s.timing.busB.silence := by
  rw [State.loseClock_eq]
  dsimp only
  split
  · rfl
  · rw [State.changeBus_silence]
    rfl

/-- The missing clock overrides what the cycle counted (R89). -/
theorem State.loseClock_cycled (x : Bus) : (s.modBus x BusMonitor.cycle).loseClock x = s.loseClock x := by
  have hstate : ((s.modBus x BusMonitor.cycle).timing.bus x).state = (s.timing.bus x).state := by
    rw [State.modBus_timing, Timing.setBus_bus_same]
    rfl
  rw [State.loseClock_eq, State.loseClock_eq, hstate, State.modBus_modBus]
  rfl

/-- The cycle that brings the silence count to 32 takes the missing clock (R89). -/
theorem State.cycleBus_of_last {x : Bus} (hp : s.phase ≠ .inReset) (h : (s.timing.bus x).silence = 31) :
    exec (.missingClock x) s = .next (s.cycleBus x) := by
  rw [exec_missingClock_of_ne _ _ hp, if_neg (by omega), State.cycleBus, if_pos (by rw [h]; rfl),
    s.loseClock_cycled]

theorem State.cycleBus_of_ne {x : Bus} (h : (s.timing.bus x).silence ≠ 31) :
    s.cycleBus x = s.modBus x BusMonitor.cycle := by
  rw [State.cycleBus, if_neg]
  simpa [Config.silenceLimit] using h

theorem State.cycleBus_silence : ((s.cycleBus .a).timing.bus .b).silence = s.timing.busB.silence := by
  unfold State.cycleBus
  dsimp only
  split
  · rw [State.loseClock_silence]
    rfl
  · rfl

/-! ## The NCO -/

theorem State.cycleNco_of_on (h : ¬(s.timing.selector = .free ∨ s.timing.selector = .holdover)) :
    s.cycleNco = s := by
  unfold State.cycleNco
  cases hs : s.timing.selector <;> simp_all

theorem State.cycleNco_of_nco (h : s.timing.selector = .free ∨ s.timing.selector = .holdover) :
    s.cycleNco =
      let u := s.modTiming fun t => { t with ncoAccumulator := t.ncoAccumulator + t.ncoStep }
      if 2 ^ 32 ≤ s.timing.ncoAccumulator.toNat + s.timing.ncoStep.toNat then u.ncoBit else u := by
  have hadd : BitVec.ofNat 32 (s.timing.ncoAccumulator.toNat + s.timing.ncoStep.toNat) =
      s.timing.ncoAccumulator + s.timing.ncoStep := by
    rw [BitVec.ofNat_add, BitVec.ofNat_toNat, BitVec.ofNat_toNat, BitVec.setWidth_eq, BitVec.setWidth_eq]
  unfold State.cycleNco
  rcases h with h | h <;> rw [h] <;> dsimp only <;> rw [hadd] <;> rfl

/-- A carry of the NCO is one office bit (R98, R103). -/
theorem State.ncoBit_of_lt (h : s.timing.phase < 319) :
    s.ncoBit = { s with
      timing := { s.timing with phase := s.timing.phase + 1 }
      highway := { s.highway with sent := match s.highway.inHand with
        | some f => some (Vector.ofFn fun x => f.highwayOctet x (s.timing.phase + 1))
        | none => s.highway.sent } } := by
  rw [State.ncoBit, if_neg (by omega)]
  unfold State.sendOctets
  rw [State.modTiming_highway]
  cases s.highway.inHand <;> rfl

theorem State.ncoBit_of_last (hp : s.phase ≠ .inReset) (h : s.timing.phase = 319) :
    exec .officeTick s = .next s.ncoBit := by
  rw [exec_officeTick_of_lt _ hp (by omega), State.ncoBit, if_pos h.ge]

/-! ## The patrol's interval -/

theorem State.advancePatrol_of_lt (h : s.patrol.timer + 1 < 2560) :
    s.advancePatrol = s.modPatrol fun p => { p with timer := s.patrol.timer + 1 } := by
  rw [State.advancePatrol, if_neg (show ¬Config.patrolInterval ≤ _ from Nat.not_le.mpr h)]

theorem State.advancePatrol_of_le (h : 2560 ≤ s.patrol.timer + 1) :
    s.advancePatrol = (s.modPatrol fun p => { p with timer := 0 }).dueStep := by
  rw [State.advancePatrol, if_pos (show Config.patrolInterval ≤ _ from h)]

/-- With no work and no host cycle the patrol's turn changes nothing (R156). -/
theorem State.patrolTurn_of_idle (h : s.patrol.step = none) (hd : s.patrol.due = false) :
    s.patrolTurn [] = s := by
  cases hr : s.ready with
  | false => rw [State.patrolTurn_of_not_ready _ hr, State.serveAlone_nil]
  | true =>
    rw [State.patrolTurn_of_ready _ hr, State.patrolWork_of_idle h hd, State.serveAlone_nil,
      State.settleRestart_of_ne]
    rw [of_decide_eq_true hr]
    decide

end

end Sys2Proof.Machine
end

section
/-!
PROOFS. A local oscillator cycle advances the counters, and errors strike as their bits say.
-/
namespace Sys2Proof.Proofs

open Sys2Proof.Machine

theorem localCycle_of_latched {s : State} {holdreq : Bool} {strikes : List Strike}
    (hs : strikes.foldl State.struck s = s) (hl : holdreq = true → s.timing.holdLatch = true) :
    s.localCycle holdreq strikes =
      (((s.goOn.setHoldreq holdreq).cycleBus .a).cycleBus .b).cycleNco.cyclePatrol (hostCycles strikes) := by
  rw [State.localCycle, hs, State.cycleClocks]
  cases holdreq with
  | false => rfl
  | true =>
    rw [if_pos rfl, State.latchHold_of_set _ (by simpa using hl rfl)]

/-- Settles O24: the cycle clock by clock, and each error as one word struck. -/
theorem localCycleAdvancesTheCounters : Obligations.LocalCycleAdvancesTheCounters := by
  unfold Obligations.LocalCycleAdvancesTheCounters
  refine ⟨fun s holdreq hp hl => ?_, fun l b c => ⟨mem_strikeBit, fun h => pairwise_strikeBit h b⟩,
    fun s holdreq rest => ⟨fun a b => ?_, fun k i w b => ?_, fun plan => ?_⟩⟩
  · intro cycled g
    have hg : g.phase ≠ .inReset := by
      rw [show g.phase = s.goOn.phase from rfl, s.goOn_frame]
      exact hp
    have hgt : g.timing = s.timing := s.goOn_timing
    have hgp : g.patrol = s.patrol := by
      rw [show g.patrol = s.goOn.patrol from rfl, s.goOn_frame]
      rfl
    have hak : g.ControlKept (g.cycleBus .a) := g.cycleBus_kept .a
    have hap : (g.cycleBus .a).phase ≠ .inReset := by rwa [hak.phase]
    have has : ((g.cycleBus .a).timing.bus .b).silence = s.timing.busB.silence := by
      rw [State.cycleBus_silence, hgt]
    refine ⟨g.cycleBus .a, (g.cycleBus .a).cycleBus .b, ?_, ?_, ?_⟩
    · split
      · next h => exact g.cycleBus_of_last hg (by rw [hgt]; exact h)
      · next h =>
        exact g.cycleBus_of_ne (by rw [hgt]; exact h)
    · split
      · next h => exact (g.cycleBus .a).cycleBus_of_last hap (has.trans h)
      · next h =>
        rw [(g.cycleBus .a).cycleBus_of_ne (by rw [has]; exact h)]
        rfl
    · have hbk := hak.trans ((g.cycleBus .a).cycleBus_kept .b)
      generalize hb : (g.cycleBus .a).cycleBus .b = b at hbk
      have hvk := hbk.trans b.cycleNco_kept
      have hcycle : ∀ l : List (Nat × HostCycle),
          exec (.localOscillatorCycle holdreq (l.map fun c => .host c.1 c.2)) s =
            .next (b.cycleNco.cyclePatrol l) := fun l => by
        rw [exec_localCycle_of_ne s _ _ hp, localCycle_of_latched (s.foldl_struck_host l) hl, hostCycles_map, ← hb]
        rfl
      have hvt : b.cycleNco.patrol = s.patrol := hvk.patrol.trans hgp
      have hshort : ∀ l : List (Nat × HostCycle), s.patrol.timer + 1 < 2560 →
          exec (.localOscillatorCycle holdreq (l.map fun c => .host c.1 c.2)) s =
            .next ((b.cycleNco.modPatrol fun p => { p with timer := s.patrol.timer + 1 }).patrolTurn l) :=
        fun l h => by
          rw [hcycle, State.cyclePatrol, State.advancePatrol_of_lt _ (by rw [hvt]; exact h), hvt]
      refine ⟨b.cycleNco, fun h => ?_, fun hn ht hph => ?_, fun hn ht hph => ?_, fun _ => ?_⟩
      · by_cases hn : b.timing.selector = .free ∨ b.timing.selector = .holdover
        · have ht : ¬2 ^ 32 ≤ b.timing.ncoAccumulator.toNat + b.timing.ncoStep.toNat := by
            rcases h with h | h
            · exact absurd hn h
            · exact Nat.not_le.mpr h
          rw [b.cycleNco_of_nco hn, if_pos hn]
          exact if_neg ht
        · rw [b.cycleNco_of_on hn, if_neg hn]
      · rw [b.cycleNco_of_nco hn, if_pos hn]
        exact (if_pos ht).trans (State.ncoBit_of_lt _ hph)
      · rw [b.cycleNco_of_nco hn, if_pos hn]
        dsimp only
        rw [if_pos ht]
        exact State.ncoBit_of_last _ (fun e => hg (hbk.phase.symm.trans e)) hph
      · intro timed
        have htimed : ∀ k, timed k = b.cycleNco.modPatrol fun p => { p with timer := k } := fun k => by
          rw [State.modPatrol, hvt]
        refine ⟨fun hstep hdue h => ?_, fun l => ⟨fun h => ?_, fun h => ?_⟩⟩
        · rw [htimed]
          refine (hshort [] h).trans ?_
          rw [State.patrolTurn_of_idle _ (by rw [← hstep, ← hvt]; rfl) (by rw [← hdue, ← hvt]; rfl)]
        · rw [htimed]
          exact hshort l h
        · rw [htimed]
          refine (hcycle l).trans ?_
          rw [State.cyclePatrol, State.advancePatrol_of_le _ (by rw [hvt]; exact h)]
          rfl
  · exact ⟨s.setMemWord a.toNat ((s.memWord a.toNat).struck b), rfl, s.setMemWord_memWord_same _ _,
      fun c hc => s.setMemWord_memWord_ne hc _, exec_localCycle_cons s holdreq rest rfl⟩
  · refine ⟨s.struck (.slot k i w b), rfl, ?_, fun c j hj hne => ?_, exec_localCycle_cons s holdreq rest rfl⟩
    · refine (s.setSlot_slot_same k i.val _).trans ?_
      rw [SlotErrors.struck_eq]
    · refine s.setSlot_slot_ne (fun e => ?_) _
      obtain ⟨hc, hi⟩ := slotKey_inj hj i.isLt e
      exact hne.elim (absurd hc) (absurd hi)
  · exact exec_localCycle_cons s holdreq rest rfl

end Sys2Proof.Proofs
end

section
/-!
SUPPORT. The stages of a patrol step grant by grant: the writer served before them, a host cycle before a
grant, and the words of control memory without errors (R148, R151, R152, R158, R161).
-/
namespace Sys2Proof.Machine

/-! ## The writer served to the end -/

section
variable {s : State}

/-- The writer served often enough to end has been served to the end. -/
theorem State.drainUpTo_of_lt {n m : Nat} (hn : s.journal.stopsLeft < n) (hm : s.journal.stopsLeft < m) :
    s.drainUpTo n = s.drainUpTo m := by
  induction n generalizing s m with
  | zero => exact absurd hn (Nat.not_lt_zero _)
  | succ n ih =>
    obtain ⟨m, rfl⟩ := Nat.exists_eq_add_one_of_ne_zero (Nat.ne_zero_of_lt hm)
    by_cases hc : s.journal.current = none
    · rw [State.drainUpTo_of_none hc, State.drainUpTo_of_none hc]
    · rw [State.drainUpTo_of_some hc, State.drainUpTo_of_some hc]
      by_cases hg : s.goOn.journal.current = none
      · rw [State.drainUpTo_of_none hg, State.drainUpTo_of_none hg]
      · have hlt := (State.goOn_spent hc).2 hg
        exact ih (hlt.trans_le (Nat.le_of_lt_succ hn)) (hlt.trans_le (Nat.le_of_lt_succ hm))

/-- A post in progress is taken to its next stop before it is served to the end. -/
theorem State.drainPosts_of_some (h : s.journal.current ≠ none) : s.drainPosts = s.goOn.drainPosts := by
  unfold State.drainPosts
  rw [State.drainUpTo_of_some h]
  by_cases hg : s.goOn.journal.current = none
  · rw [State.drainUpTo_of_none hg, State.drainUpTo_of_none hg]
  · exact State.drainUpTo_of_lt ((State.goOn_spent h).2 hg) (Nat.lt_succ_self _)

theorem State.drainPosts_drainPosts : s.drainPosts.drainPosts = s.drainPosts :=
  State.drainPosts_of_none State.drainPosts_current

theorem State.goOn_modPatrol (f : Patrol → Patrol) : (s.modPatrol f).goOn = s.goOn.modPatrol f := by
  refine (State.goOn_withJournalOf (s.modPatrol f) s rfl).trans ?_
  rw [State.modPatrol, s.goOn_frame]
  rfl

/-- The writer does not see the patrol. -/
theorem State.drainPosts_modPatrol (f : Patrol → Patrol) :
    (s.modPatrol f).drainPosts = s.drainPosts.modPatrol f := by
  have hup : ∀ (n : Nat) (t : State), (t.modPatrol f).drainUpTo n = (t.drainUpTo n).modPatrol f := by
    intro n
    induction n with
    | zero => exact fun t => rfl
    | succ n ih =>
      intro t
      by_cases hc : t.journal.current = none
      · rw [State.drainUpTo_of_none hc, State.drainUpTo_of_none (s := t.modPatrol f) hc]
      · rw [State.drainUpTo_of_some hc, State.drainUpTo_of_some (s := t.modPatrol f) hc, ← ih]
        congr 1
        refine (State.goOn_withJournalOf (t.modPatrol f) t rfl).trans ?_
        rw [State.modPatrol, t.goOn_frame]
        rfl
  exact hup _ s

end

/-! ## Host cycles before a grant -/

section
variable {s : State} {between : List (Nat × HostCycle)} {k : Nat} {r : Record}

/-- Once the grants have passed every host cycle, none is left to be served or to wait at. -/
theorem State.unserved_of_lt (s : State) (h : ∀ c ∈ between, c.1 ≠ k) :
    s.serveBefore between k = s ∧ s.waitsAt between k = false := by
  refine ⟨s.serveBefore_of_ne fun c hc e => absurd e (h c hc), ?_⟩
  rw [State.waitsAt, decide_eq_false fun hw => h _ hw rfl, Bool.and_false]

/-- A host cycle before its grant is served and does not wait. -/
theorem State.serveBefore_singleton {c : HostCycle} (hc : c ≠ .wait) :
    s.serveBefore [(k, c)] k = s.hostBefore c :=
  s.serveBefore_cons_self [] k hc

theorem State.waitsAt_singleton {c : HostCycle} (hc : c ≠ .wait) : s.waitsAt [(k, c)] k = false := by
  rw [State.waitsAt, decide_eq_false, Bool.and_false]
  simp [hc.symm]

theorem State.scrubStage_of_lt (h : ∀ c ∈ between, c.1 < k) (left : Nat) :
    s.scrubStage between r left k = s.scrubStage [] r left k := by
  induction left generalizing s k with
  | zero => rfl
  | succ left ih =>
    obtain ⟨hserved, hwaits⟩ := s.unserved_of_lt fun c hc => (h c hc).ne
    rw [State.scrubStage_nil, State.scrubStage, hserved, hwaits, if_neg Bool.false_ne_true]
    exact ih fun c hc => (h c hc).trans (Nat.lt_succ_self k)

theorem State.writeStage_of_lt (h : ∀ c ∈ between, c.1 < k) (l : List (Nat × Word)) :
    s.writeStage between r l k = s.writeStage [] r l k := by
  induction l generalizing s k with
  | nil => exact State.scrubStage_of_lt h _
  | cons p l ih =>
    obtain ⟨hserved, hwaits⟩ := s.unserved_of_lt fun c hc => (h c hc).ne
    rw [State.writeStage_nil, State.writeStage, hserved, hwaits, if_neg Bool.false_ne_true]
    exact ih fun c hc => (h c hc).trans (Nat.lt_succ_self k)

theorem State.judgeStage_of_lt (h : ∀ c ∈ between, c.1 < k) (read : List (Option Word)) :
    s.judgeStage between r read k = s.judgeStage [] r read k := by
  unfold State.judgeStage
  dsimp only
  rw [State.scrubStage_of_lt h, State.writeStage_of_lt h]

theorem State.readStage_of_lt (h : ∀ c ∈ between, c.1 < k) (read : List (Option Word)) (l : List Nat) :
    s.readStage between r read l k = s.readStage [] r read l k := by
  induction l generalizing s read k with
  | nil => exact State.judgeStage_of_lt h read
  | cons i l ih =>
    obtain ⟨hserved, hwaits⟩ := s.unserved_of_lt fun c hc => (h c hc).ne
    rw [State.readStage_nil, State.readStage, hserved, hwaits, if_neg Bool.false_ne_true]
    exact ih (fun c hc => (h c hc).trans (Nat.lt_succ_self k)) _

theorem State.scrubStage_cycle {c : HostCycle} (hc : c ≠ .wait) (left : Nat) :
    s.scrubStage [(k, c)] r (left + 1) k = (s.hostBefore c).scrubStage [] r (left + 1) k := by
  rw [State.scrubStage_nil, State.scrubStage, State.serveBefore_singleton hc, State.waitsAt_singleton hc,
    if_neg Bool.false_ne_true]
  exact State.scrubStage_of_lt (by simp) left

theorem State.writeStage_cycle {c : HostCycle} (hc : c ≠ .wait) (p : Nat × Word) (l : List (Nat × Word)) :
    s.writeStage [(k, c)] r (p :: l) k = (s.hostBefore c).writeStage [] r (p :: l) k := by
  rw [State.writeStage_nil, State.writeStage, State.serveBefore_singleton hc, State.waitsAt_singleton hc,
    if_neg Bool.false_ne_true]
  exact State.writeStage_of_lt (by simp) l

theorem State.readStage_cycle {c : HostCycle} (hc : c ≠ .wait) (read : List (Option Word)) (i : Nat)
    (l : List Nat) :
    s.readStage [(k, c)] r read (i :: l) k = (s.hostBefore c).readStage [] r read (i :: l) k := by
  rw [State.readStage_nil, State.readStage, State.serveBefore_singleton hc, State.waitsAt_singleton hc,
    if_neg Bool.false_ne_true]
  exact State.readStage_of_lt (by simp) _ l

/-! ## Control memory without errors and no post in progress -/

/-- No post is in progress, and every word of control memory is clean. -/
structure State.Calm (s : State) : Prop where
  current : s.journal.current = none
  clean : ∀ a, (s.memWord a).condition = .clean

theorem State.Calm.memWrite (h : s.Calm) (a : Nat) (x : Word) : (s.memWrite a x).Calm := by
  refine ⟨h.current, fun b => ?_⟩
  by_cases hb : b = a
  · rw [hb, s.memWrite_memWord_same]
    rfl
  · rw [s.memWrite_memWord_ne hb]
    exact h.clean b

theorem State.Calm.memWriteAll (h : s.Calm) (l : List (Nat × Word)) : (s.memWriteAll l).Calm := by
  induction l generalizing s with
  | nil => exact h
  | cons p l ih => exact ih (h.memWrite p.1 p.2)

theorem State.Calm.advanceUpdcnt (h : s.Calm) (r : Record) : (s.advanceUpdcnt r).Calm :=
  ⟨h.current, h.clean⟩

/-- What one reading of the request half brings (R158). -/
def State.reading (s : State) (r : Record) (i : Nat) : Option Word := some (s.memWord (r.base + i)).raw

theorem State.Calm.readRequest (h : s.Calm) (i : Nat) : s.readRequest r i = (s, s.reading r i) := by
  rw [State.readRequest_of_read (by rw [h.clean]; decide), MemWord.corrected_of_clean (h.clean _)]
  rfl

theorem State.Calm.scrubWord (h : s.Calm) (a : Nat) : s.scrubWord a = s := by
  rw [State.scrubWord, h.clean]

theorem State.Calm.scrubStage_add (h : s.Calm) (m left : Nat) (hb : ∀ c ∈ between, ∀ i < m, c.1 ≠ k + i) :
    s.scrubStage between r (left + m) k = s.scrubStage between r left (k + m) := by
  induction m generalizing k with
  | zero => rfl
  | succ m ih =>
    obtain ⟨hserved, hwaits⟩ := s.unserved_of_lt (k := k) fun c hc => hb c hc 0 m.succ_pos
    rw [← Nat.add_assoc, State.scrubStage, hserved, hwaits, if_neg Bool.false_ne_true,
      State.drainPosts_of_none h.current]
    dsimp only
    rw [h.scrubWord, ih fun c hc i hi => ?_, Nat.add_right_comm, Nat.add_assoc]
    have := hb c hc (i + 1) (by omega)
    omega

theorem State.Calm.writeStage_append (h : s.Calm) (l l' : List (Nat × Word))
    (hb : ∀ c ∈ between, ∀ i < l.length, c.1 ≠ k + i) :
    s.writeStage between r (l ++ l') k = (s.memWriteAll l).writeStage between r l' (k + l.length) := by
  induction l generalizing s k with
  | nil => rfl
  | cons p l ih =>
    obtain ⟨hserved, hwaits⟩ := s.unserved_of_lt (k := k) fun c hc => hb c hc 0 (Nat.succ_pos _)
    rw [List.cons_append, State.writeStage, hserved, hwaits, if_neg Bool.false_ne_true,
      State.drainPosts_of_none h.current, ih (h.memWrite _ _) fun c hc i hi => ?_, s.memWriteAll_cons,
      List.length_cons, Nat.add_right_comm, Nat.add_assoc]
    have := hb c hc (i + 1) (Nat.succ_lt_succ hi)
    omega

theorem State.Calm.readStage_append (h : s.Calm) (read : List (Option Word)) (l l' : List Nat)
    (hb : ∀ c ∈ between, ∀ i < l.length, c.1 ≠ k + i) :
    s.readStage between r read (l ++ l') k =
      s.readStage between r (read ++ l.map (s.reading r)) l' (k + l.length) := by
  induction l generalizing read k with
  | nil => simp
  | cons j l ih =>
    obtain ⟨hserved, hwaits⟩ := s.unserved_of_lt (k := k) fun c hc => hb c hc 0 (Nat.succ_pos _)
    rw [List.cons_append, State.readStage, hserved, hwaits, if_neg Bool.false_ne_true,
      State.drainPosts_of_none h.current, h.readRequest]
    dsimp only
    rw [ih _ fun c hc i hi => ?_, List.map_cons, List.append_assoc, List.singleton_append,
      List.length_cons, Nat.add_right_comm, Nat.add_assoc]
    have := hb c hc (i + 1) (Nat.succ_lt_succ hi)
    omega

/-- A step on a calm memory with nothing between its grants: the words it scrubs stand (R152). -/
theorem State.Calm.scrubStage_nil (h : s.Calm) (left : Nat) :
    s.scrubStage [] r left k = (s.advanceScrub, k + left) := by
  have := h.scrubStage_add (between := []) (r := r) (k := k) left 0 (by simp)
  rwa [Nat.zero_add] at this

theorem State.Calm.writeStage_nil (h : s.Calm) (l : List (Nat × Word)) :
    s.writeStage [] r l k =
      (((s.memWriteAll l).advanceUpdcnt r).advanceScrub, k + l.length + Config.scrubWords) := by
  rw [State.writeStage_of_none r h.current, ((h.memWriteAll l).advanceUpdcnt r).scrubStage_nil]

/-- The readings of a calm memory, in the order of a snapshot. -/
theorem State.Calm.readStage_nil (h : s.Calm) :
    s.readStage [] r [] (snapshotOffsets r) k =
      s.judgeStage [] r ((snapshotOffsets r).map (s.reading r)) (k + (snapshotOffsets r).length) := by
  have := h.readStage_append (between := []) (r := r) (k := k) [] (snapshotOffsets r) [] (by simp)
  rwa [List.append_nil, List.nil_append, State.readStage_done] at this

end

/-! ## The judgement of readings -/

section
variable (appser : Word)

/-- The judgement of readings, taken apart into the two of REQSER and those of the fields. -/
theorem judgeReadings_snapshot (first last : Option Word) (fields : List (Option Word)) :
    judgeReadings appser (first :: fields ++ [last]) = judgeSnapshot appser first fields last := by
  have hlast : (first :: fields ++ [last]).getLastD none = last := List.getLastD_concat
  rw [judgeReadings, hlast, List.cons_append, List.drop_one, List.tail_cons, List.dropLast_concat]
  rfl

end

end Sys2Proof.Machine
end

section
/-!
SUPPORT. A whole patrol step: the record it serves, the request it takes, and the report it writes (R151,
R156, R159, R161).
-/
namespace Sys2Proof.Machine

/-! ## The grants are numbered in order -/

section
variable {s : State} {between : List (Nat × HostCycle)} {k : Nat} {r : Record}

theorem State.le_scrubStage (left : Nat) : k ≤ (s.scrubStage between r left k).2 := by
  induction left generalizing s k with
  | zero => exact le_rfl
  | succ left ih =>
    rw [State.scrubStage]
    dsimp only
    split
    · exact Nat.le_succ k
    · exact (Nat.le_succ k).trans ih

theorem State.le_writeStage (l : List (Nat × Word)) : k ≤ (s.writeStage between r l k).2 := by
  induction l generalizing s k with
  | nil => exact State.le_scrubStage _
  | cons p l ih =>
    rw [State.writeStage]
    split
    · exact Nat.le_succ k
    · exact (Nat.le_succ k).trans ih

theorem State.le_judgeStage (read : List (Option Word)) : k ≤ (s.judgeStage between r read k).2 := by
  unfold State.judgeStage
  dsimp only
  split
  · exact State.le_scrubStage _
  · exact State.le_writeStage _

theorem State.le_readStage (read : List (Option Word)) (l : List Nat) :
    k ≤ (s.readStage between r read l k).2 := by
  induction l generalizing s read k with
  | nil => exact State.le_judgeStage read
  | cons i l ih =>
    rw [State.readStage]
    dsimp only
    split
    · exact Nat.le_succ k
    · exact (Nat.le_succ k).trans (ih _)

/-! ## The writer before the first grant of a stage -/

theorem State.writeStage_drained (p : Nat × Word) (l : List (Nat × Word)) :
    s.drainPosts.writeStage [] r (p :: l) k = s.writeStage [] r (p :: l) k := by
  rw [State.writeStage_nil, State.writeStage_nil, State.drainPosts_drainPosts]

theorem State.readStage_drained (read : List (Option Word)) (i : Nat) (l : List Nat) :
    s.drainPosts.readStage [] r read (i :: l) k = s.readStage [] r read (i :: l) k := by
  rw [State.readStage_nil, State.readStage_nil, State.drainPosts_drainPosts]

end

/-! ## The record that a step serves -/

section
variable {s : State}

/-- The state in which a step has taken its record (R156). -/
def State.recordTaken (s : State) : State :=
  s.modPatrol fun p => { p.choose.2 with due := false, timer := 0 }

theorem State.recordTaken_eq : s.recordTaken = { s with patrol := match s.patrol.prompts with
    | [] => { s.patrol with pointer := s.patrol.pointer.next, timer := 0, due := false }
    | _ :: rest => { s.patrol with prompts := rest, timer := 0, due := false } } := by
  unfold State.recordTaken State.modPatrol Patrol.choose
  generalize s.patrol = p
  obtain ⟨pointer, prompts, timer, due, step⟩ := p
  cases prompts <;> rfl

theorem Patrol.choose_record (p : Patrol) : p.choose.1 = match p.prompts with
    | [] => p.pointer
    | r :: _ => r := by
  obtain ⟨pointer, prompts, timer, due, step⟩ := p
  cases prompts <;> rfl

theorem State.recordTaken_modPatrol_due (d : Bool) :
    (s.modPatrol fun p => { p with due := d }).recordTaken = s.recordTaken := by
  unfold State.recordTaken State.modPatrol Patrol.choose
  dsimp only
  cases s.patrol.prompts <;> rfl

theorem Patrol.choose_due (p : Patrol) (d : Bool) : ({ p with due := d } : Patrol).choose.1 = p.choose.1 := by
  unfold Patrol.choose
  dsimp only
  cases p.prompts <;> rfl

theorem State.recordTaken_drainPosts : s.drainPosts.recordTaken = s.recordTaken.drainPosts :=
  (State.drainPosts_modPatrol _).symm

theorem State.recordTaken_goOn : s.goOn.recordTaken = s.recordTaken.goOn := (State.goOn_modPatrol _).symm

/-- A restart that a cycle asks for is settled by whether READY was 1 before it. -/
theorem State.settleRestart_congr {t : State} (h : s.phase = t.phase) (x : State) :
    s.settleRestart x = t.settleRestart x := by
  rw [State.settleRestart, State.settleRestart, State.ready, State.ready, h]

/-- A step that begins at once is taken from its first grant (R156). -/
theorem State.patrolStep_of_ready (hp : s.phase = .ready) (hstep : s.patrol.step = none)
    (between : List (Nat × HostCycle)) :
    s.patrolStep between =
      let x := s.recordTaken.readStage between s.patrol.choose.1 []
        (snapshotOffsets s.patrol.choose.1) 0
      (s.settleRestart x.1).serveAlone between x.2 := by
  have hready := State.ready_of_phase hp
  have hdue : s.dueStep = s.modPatrol fun p => { p with due := true } := by
    rw [State.dueStep, if_pos hready]
  rw [State.patrolStep, State.patrolTurn_of_ready _ (by rw [hdue]; exact hready),
    State.patrolWork_of_due (by rw [hdue]; exact hready) (by rw [hdue]; exact hstep) (by rw [hdue]; rfl),
    hdue, State.beginStep, ← s.recordTaken_modPatrol_due true]
  dsimp only
  rw [State.modPatrol_patrol, Patrol.choose_due]
  rfl

/-- With nothing between its grants the step is the last thing its command does. -/
theorem State.patrolStep_nil (hp : s.phase = .ready) (hstep : s.patrol.step = none) {t : State}
    (h : (s.recordTaken.readStage [] s.patrol.choose.1 [] (snapshotOffsets s.patrol.choose.1) 0).1 = t)
    (ht : t.phase ≠ .restarting) : s.patrolStep [] = t := by
  rw [State.patrolStep_of_ready hp hstep]
  dsimp only
  rw [State.serveAlone_nil, h, State.settleRestart_of_ne _ ht]

/-! ## The request that a step takes -/

theorem State.cleared_stage (q : DirectoryRequest) :
    (s.cleared q).phase = s.phase ∧ (s.cleared q).scrub = s.scrub ∧ (s.cleared q).patrol = s.patrol := by
  unfold State.cleared
  split_ifs <;> exact ⟨rfl, rfl, rfl⟩

theorem State.applyDirectory_stage (q : DirectoryRequest) :
    (s.applyDirectory q).phase = s.phase ∧ (s.applyDirectory q).scrub = s.scrub ∧
      (s.applyDirectory q).patrol = s.patrol := by
  obtain ⟨hphase, hscrub, hpatrol⟩ := s.cleared_stage q
  have hk := (s.cleared q).unfreeze_quiet
  rw [State.applyDirectory_eq]
  split
  · exact ⟨hk.phase.trans hphase, hk.scrub.trans hscrub, hk.patrol.trans hpatrol⟩
  · exact ⟨hphase, hscrub, hpatrol⟩

theorem State.answerRequest_stage (r : Record) (serial : Word) (v : Verdict) {accepted : State}
    (h : accepted.phase = s.phase ∧ accepted.scrub = s.scrub ∧ accepted.patrol = s.patrol) :
    (s.answerRequest r serial v accepted).phase = s.phase ∧
      (s.answerRequest r serial v accepted).scrub = s.scrub ∧
      (s.answerRequest r serial v accepted).patrol = s.patrol := by
  cases v with
  | refused reason detail =>
    have hk := s.post_kept .requestRefused r.number.val [serial, word reason.code, detail]
    exact ⟨hk.phase, hk.scrub, hk.patrol⟩
  | accepted mask => exact h

theorem State.ControlKept.stage {t : State} (h : s.ControlKept t) :
    t.phase = s.phase ∧ t.scrub = s.scrub ∧ t.patrol = s.patrol := ⟨h.phase, h.scrub, h.patrol⟩

/-- A request taken leaves the phase, the scrub and the patrol alone. -/
theorem State.takeRequest_stage (r : Record) (l : List Word) :
    (s.takeRequest r l).phase = s.phase ∧ (s.takeRequest r l).scrub = s.scrub ∧
      (s.takeRequest r l).patrol = s.patrol := by
  cases r with
  | directory => exact State.answerRequest_stage _ _ _ (State.applyDirectory_stage _)
  | timing => exact State.answerRequest_stage _ _ _ (s.applyTiming_kept _).stage
  | store => exact State.answerRequest_stage _ _ _ (s.applyStore_quiet _).stage
  | monitor m => exact State.answerRequest_stage _ _ _ (s.applyMonitor_quiet m _).stage
  | line n => exact State.answerRequest_stage _ _ _ (s.applyLine_quiet n _).stage

/-! ## The words of a report -/

/-- The offsets of the words of a report between its two writes of UPDCNT. -/
def reportOffsets : Record → List Nat
  | .directory => List.range' 17 50 ++ [120, 121, 122, 123]
  | .timing => List.range' 17 34
  | .store => List.range' 17 107
  | .monitor _ => List.range' 17 12
  | .line _ => List.range' 17 47

theorem placedFrom_offsets (k : Nat) (l : List Word) :
    (placedFrom k l).map (·.1) = List.range' k l.length := by
  induction l generalizing k with
  | nil => rfl
  | cons w l ih => rw [placedFrom, List.map_cons, ih]; rfl

/-- The words of a report between its two writes of UPDCNT, by offset (R161). -/
def State.visitBody (s : State) (r : Record) : List (Nat × Word) :=
  placedFrom 17 (s.head r).words ++ s.reportBody r

theorem State.visitBody_offsets (r : Record) : (s.visitBody r).map (·.1) = reportOffsets r := by
  cases r <;>
    simp only [State.visitBody, State.reportBody, List.map_append, placedFrom_offsets] <;> rfl

theorem State.visitWrites_eq (r : Record) :
    s.visitWrites r = reportWrites r (s.head r).updcnt (s.visitBody r) := rfl

theorem reportOffsets_nodup (r : Record) : (reportOffsets r).Nodup := by
  cases r with
  | directory => decide
  | _ => exact List.nodup_range'

/-- The words of a report are listed, and none is UPDCNT (R145). -/
theorem reportListed_of_mem {r : Record} {i : Nat} (h : i ∈ reportOffsets r) :
    reportListed r i = true ∧ i ≠ 16 := by
  cases r <;> simp [reportOffsets, reportListed, List.mem_range'_1] at h ⊢ <;> omega

theorem reportListed_updcnt (r : Record) : reportListed r 16 = true := by cases r <;> rfl

section
variable {r : Record} {u : Word} {body : List (Nat × Word)}

theorem reportWrites_eq : reportWrites r u body =
    (r.base + 16, u + 1) :: (body.map fun p => (r.base + p.1, p.2)) ++ [(r.base + 16, u + 2)] := by
  simp [reportWrites]

/-- UPDCNT is even again after the writes of a report (R151). -/
theorem State.reportWrites_updcnt :
    (s.memWriteAll (reportWrites r u body)).memWord (r.base + 16) = { raw := u + 2 } := by
  rw [reportWrites_eq, State.memWriteAll_append]
  exact State.memWrite_memWord_same _ _ _

theorem State.reportWrites_mem (hn : (body.map (·.1)).Nodup) (hu : 16 ∉ body.map (·.1)) {i : Nat} {w : Word}
    (h : (i, w) ∈ body) :
    (s.memWriteAll (reportWrites r u body)).memWord (r.base + i) = { raw := w } := by
  have hi : i ≠ 16 := fun e => hu (List.mem_map.mpr ⟨_, h, e⟩)
  have hmapped : ((body.map fun p => (r.base + p.1, p.2)).map (·.1)).Nodup := by
    rw [List.map_map, show ((·.1) ∘ fun p : Nat × Word => (r.base + p.1, p.2)) =
      (r.base + ·) ∘ (·.1) from rfl, ← List.map_map]
    exact hn.map fun a b e => Nat.add_left_cancel e
  rw [reportWrites_eq, State.memWriteAll_append]
  refine (State.memWrite_memWord_ne _ (by omega) _).trans ?_
  rw [State.memWriteAll_cons]
  exact State.memWriteAll_memWord_mem _ hmapped (List.mem_map.mpr ⟨_, h, rfl⟩)

theorem State.reportWrites_ne {a : Nat} (hu : a ≠ r.base + 16) (h : ∀ p ∈ body, a ≠ r.base + p.1) :
    (s.memWriteAll (reportWrites r u body)).memWord a = s.memWord a := by
  refine State.memWriteAll_memWord_ne _ fun p hp => ?_
  rw [reportWrites_eq] at hp
  simp only [List.cons_append, List.mem_cons, List.mem_append, List.mem_map, List.not_mem_nil, or_false] at hp
  rcases hp with rfl | ⟨q, hq, rfl⟩ | rfl
  · exact hu.symm
  · exact (h q hq).symm
  · exact hu.symm

end

theorem State.visitBody_nodup (r : Record) : ((s.visitBody r).map (·.1)).Nodup := by
  rw [State.visitBody_offsets]
  exact reportOffsets_nodup r

theorem State.visitBody_updcnt (r : Record) : 16 ∉ (s.visitBody r).map (·.1) := by
  rw [State.visitBody_offsets]
  exact fun h => (reportListed_of_mem h).2 rfl

/-! ## The step on a calm memory -/

/-- The words of a report written, UPDCNT advanced, and the scrub's pointer advanced (R151, R152). -/
def State.visited (v : State) (r : Record) (l : List (Nat × Word)) : State :=
  ((v.memWriteAll l).advanceUpdcnt r).advanceScrub

theorem State.visited_frame (v : State) (r : Record) (l : List (Nat × Word)) (h : v.scrub.pointer < 8192) :
    v.visited r l = { v with
      memory := (v.visited r l).memory, reportHeads := (v.visited r l).reportHeads
      scrub := { v.scrub with
        pointer := (v.scrub.pointer + 8) % 8192
        passes := if v.scrub.pointer + 8 = 8192 then v.scrub.passes + 1 else v.scrub.passes } } := by
  have hwrap : (v.scrub.pointer + 8) % 8192 = 0 ↔ v.scrub.pointer + 8 = 8192 := by omega
  rw [State.visited, State.memWriteAll_frame]
  simp only [← hwrap]
  rfl

theorem State.visited_head (v : State) (r : Record) (l : List (Nat × Word)) :
    (v.visited r l).head r = { v.head r with updcnt := (v.head r).updcnt + 2 } := by
  rw [State.visited, State.memWriteAll_frame]
  exact State.setHead_head_same _ _ _

theorem State.visited_head_ne (v : State) {q r : Record} (h : q ≠ r) (l : List (Nat × Word)) :
    (v.visited r l).head q = v.head q := by
  rw [State.visited, State.memWriteAll_frame]
  exact State.setHead_head_ne _ h _

theorem State.visited_memWord (v : State) (r : Record) (l : List (Nat × Word)) (a : Nat) :
    (v.visited r l).memWord a = (v.memWriteAll l).memWord a := rfl

theorem State.visited_phase (v : State) (r : Record) (l : List (Nat × Word)) :
    (v.visited r l).phase = v.phase := by
  rw [State.visited, State.memWriteAll_frame]
  rfl

theorem State.readings_eq (r : Record) :
    (snapshotOffsets r).map (s.reading r) =
      some (s.memWord r.base).raw :: ((requestFields r).map fun i => (s.memWord (r.base + i)).raw).map some ++
        [some (s.memWord r.base).raw] := by
  simp [snapshotOffsets, State.reading]

theorem State.judgeReadings_old (r : Record) (h : (s.memWord r.base).raw = (s.head r).appser) :
    judgeReadings (s.head r).appser ((snapshotOffsets r).map (s.reading r)) = .old := by
  rw [State.readings_eq, judgeReadings_snapshot, h, judgeSnapshot_old]

theorem State.judgeReadings_new (r : Record) (h : (s.memWord r.base).raw ≠ (s.head r).appser) :
    judgeReadings (s.head r).appser ((snapshotOffsets r).map (s.reading r)) =
      .new ((s.memWord r.base).raw :: (requestFields r).map fun i => (s.memWord (r.base + i)).raw) := by
  rw [State.readings_eq, judgeReadings_snapshot, judgeSnapshot_new h]

/-- The report follows a snapshot that is old (R158, R161). -/
theorem State.Calm.step_of_old (hs : s.Calm) (r : Record) (h : (s.memWord r.base).raw = (s.head r).appser) :
    (s.readStage [] r [] (snapshotOffsets r) 0).1 = s.visited r (s.visitWrites r) := by
  rw [hs.readStage_nil, State.judgeStage, s.judgeReadings_old r h]
  dsimp only [State.actOn]
  rw [if_neg (by simp), hs.writeStage_nil]
  rfl

/-- A new request is taken, the writer is served, and the report of the state the request left is written
(R148, R159, R161). -/
theorem State.Calm.step_of_new (hs : s.Calm) (r : Record) (h : (s.memWord r.base).raw ≠ (s.head r).appser)
    {u : State} (hu : s.takeRequest r ((s.memWord r.base).raw ::
      (requestFields r).map fun i => (s.memWord (r.base + i)).raw) = u) (hv : u.drainPosts.Calm) :
    (s.readStage [] r [] (snapshotOffsets r) 0).1 = u.drainPosts.visited r (u.visitWrites r) := by
  rw [hs.readStage_nil, State.judgeStage, s.judgeReadings_new r h]
  dsimp only [State.actOn]
  rw [hu, if_neg (by simp), State.visitWrites_eq, reportWrites_eq, List.cons_append,
    ← State.writeStage_drained, ← List.cons_append, ← reportWrites_eq, hv.writeStage_nil]
  rfl

end

end Sys2Proof.Machine
end

section
/-!
PROOFS. A patrol step serves a record, and the writer is served before it.
-/
namespace Sys2Proof.Proofs

open Sys2Proof.Machine

/-- The row of a record's request, with its words. -/
def requestRow (r : Record) (words : List Word) : Instr :=
  match r with
  | .directory => .directoryRequest (directoryRequestOf words)
  | .timing => .timingRequest (timingRequestOf words)
  | .store => .storeRequest (storeRequestOf words)
  | .monitor m => .monitorRequest m (monitorRequestOf words)
  | .line n => .lineRequest n (lineRequestOf words)

theorem exec_requestRow {s : State} (h : s.phase = .ready) (r : Record) (words : List Word) :
    exec (requestRow r words) s = .next (s.takeRequest r words) := by
  have hready := State.ready_of_phase h
  cases r <;> exact congrArg _ (if_pos hready)

/-- A request takes the words of its fields alone. -/
theorem takeRequest_words (s : State) (r : Record) (f : Nat → Word) :
    s.takeRequest r ((List.range 16).map f) = s.takeRequest r (f 0 :: (requestFields r).map f) := by
  cases r <;> rfl

theorem hostRead_modPatrol (s : State) (f : Patrol → Patrol) (a : Nat) :
    (s.modPatrol f).hostRead a = (s.hostRead a).modPatrol f := by
  unfold State.hostRead
  simp only [State.modPatrol_memWord]
  show (if s.portClosed = true then _ else _) = _
  cases s.portClosed <;> cases ownerOf a <;> cases (s.memWord a).condition <;> rfl

theorem hostRead_patrol (s : State) (a : Nat) :
    (s.hostRead a).patrol = s.patrol ∧ (s.hostRead a).phase = s.phase := by
  unfold State.hostRead
  cases s.portClosed <;> cases ownerOf a <;> cases (s.memWord a).condition <;> exact ⟨rfl, rfl⟩

/-- Settles O39: on a calm memory through the closed form of the step, and with a post in progress by the
grants of the writer before the first reading. -/
theorem patrolStepServesARecord : Obligations.PatrolStepServesARecord := by
  unfold Obligations.PatrolStepServesARecord
  refine ⟨fun s u r hp hstep hcurrent hclean => ?_, fun s =>
    ⟨State.drainPosts_of_none, fun h => ⟨State.drainPosts_of_some h, State.drainPosts_current⟩,
      fun hp hstep => ⟨?_, fun a v hc hread => ?_⟩⟩⟩
  · intro chosen words request hr hu v hv hpointer
    have hchosen : chosen = s.recordTaken := State.recordTaken_eq.symm
    have hrecord : r = s.patrol.choose.1 := hr.trans s.patrol.choose_record.symm
    have hcalm : s.recordTaken.Calm := ⟨hcurrent, hclean⟩
    have hvcalm : u.drainPosts.Calm := ⟨State.drainPosts_current, hv⟩
    have hkept : u.phase = s.phase ∧ u.scrub = s.scrub ∧
        (s.recordTaken.readStage [] r [] (snapshotOffsets r) 0).1 = v.visited r (u.visitWrites r) := by
      by_cases hold : (s.memWord r.base).raw = (s.head r).appser
      · rw [if_pos hold, hchosen] at hu
        have hnone : v = u := State.drainPosts_of_none (by rw [hu]; exact hcurrent)
        rw [hnone, hu]
        exact ⟨rfl, rfl, hcalm.step_of_old r hold⟩
      · rw [if_neg hold, hchosen] at hu
        have htaken : s.recordTaken.takeRequest r words = u :=
          Host.Outcome.next.inj ((exec_requestRow (s := s.recordTaken) hp r words).symm.trans hu)
        obtain ⟨hphase, hscrub, -⟩ := s.recordTaken.takeRequest_stage r words
        rw [htaken] at hphase hscrub
        refine ⟨hphase, hscrub, hcalm.step_of_new r hold ?_ hvcalm⟩
        rw [← htaken]
        exact (takeRequest_words _ r _).symm
    obtain ⟨hphase, hscrub, hstage⟩ := hkept
    have hvu : v = u.withJournalOf v := u.drainPosts_frame
    have hvscrub : v.scrub = u.scrub := by rw [hvu]; rfl
    have hvhead : ∀ q, v.head q = u.head q := fun q => by rw [hvu]; rfl
    have hvphase : v.phase = u.phase := by rw [hvu]; rfl
    clear_value v
    have hmem : ∀ i w, (i, w) ∈ u.visitBody r →
        (v.visited r (u.visitWrites r)).memWord (r.base + i) = { raw := w } := fun i w h =>
      (v.visited_memWord r _ _).trans (v.reportWrites_mem (u.visitBody_nodup r) (u.visitBody_updcnt r) h)
    have hhead : ∀ i w, (i, w) ∈ placedFrom 17 (u.head r).words → (i, w) ∈ u.visitBody r :=
      fun i w h => List.mem_append_left _ h
    refine ⟨v.visited r (u.visitWrites r), ?_, ?_, ?_, fun q hq => ?_,
      (v.visited_memWord r _ _).trans (v.reportWrites_updcnt),
      hmem _ _ (hhead _ _ ?_), hmem _ _ (hhead _ _ ?_), hmem _ _ (hhead _ _ ?_), hmem _ _ (hhead _ _ ?_),
      fun i w h => hmem _ _ (List.mem_append_right _ h), fun a ha => ?_⟩
    · refine congrArg _ (State.patrolStep_nil hp hstep (hrecord ▸ hstage) ?_)
      rw [State.visited_phase, hvphase, hphase, hp]
      decide
    · rw [← hvscrub]
      exact v.visited_frame r _ (by rw [hvscrub, hscrub]; exact hpointer)
    · rw [State.visited_head, hvhead]
    · rw [State.visited_head_ne _ hq, hvhead]
    · exact List.mem_cons_self
    · exact List.mem_cons_of_mem _ List.mem_cons_self
    · rw [← pack_eq (fields := [((u.head r).result.code, 8), ((u.head r).reason.code, 0)]) (by simp; omega)]
      exact List.mem_cons_of_mem _ (List.mem_cons_of_mem _ List.mem_cons_self)
    · exact List.mem_cons_of_mem _ (List.mem_cons_of_mem _ (List.mem_cons_of_mem _ List.mem_cons_self))
    · refine (v.visited_memWord r _ _).trans (v.reportWrites_ne (ha _ (reportListed_updcnt r)) fun p hp => ?_)
      refine ha _ (reportListed_of_mem ?_).1
      rw [← u.visitBody_offsets]
      exact List.mem_map_of_mem hp
  · have hframe := s.drainPosts_frame
    have hphase : s.drainPosts.phase = .ready := by rw [hframe]; exact hp
    have hpatrol : s.drainPosts.patrol = s.patrol := by rw [hframe]; rfl
    have hstage (r : Record) : s.recordTaken.readStage [] r [] (snapshotOffsets r) 0 =
        s.drainPosts.recordTaken.readStage [] r [] (snapshotOffsets r) 0 := by
      rw [State.recordTaken_drainPosts]
      exact (State.readStage_drained _ _ _).symm
    refine congrArg Host.Outcome.next ?_
    rw [State.patrolStep_of_ready hp hstep, State.patrolStep_of_ready hphase (hpatrol ▸ hstep), hpatrol]
    dsimp only
    rw [hstage, State.settleRestart_congr (hp.trans hphase.symm)]
  · have hv : s.hostRead a.toNat = v := Host.Outcome.next.inj hread
    obtain ⟨hvpatrol, hvphase⟩ := hostRead_patrol s a.toNat
    rw [hv] at hvpatrol hvphase
    have hphase : v.goOn.phase = .ready := by
      rw [v.goOn_frame]
      exact hvphase.trans hp
    have hpatrol : v.goOn.patrol = s.patrol := by
      rw [v.goOn_frame]
      exact hvpatrol
    have hserved : s.recordTaken.hostBefore (.read a) = v.goOn.recordTaken := by
      rw [State.hostBefore_of_some (s := s.recordTaken) hc, State.recordTaken_goOn, ← hv]
      exact congrArg State.goOn (hostRead_modPatrol s _ _)
    refine congrArg Host.Outcome.next ?_
    rw [State.patrolStep_of_ready hp hstep, State.patrolStep_of_ready hphase (hpatrol ▸ hstep), hpatrol]
    dsimp only
    rw [show snapshotOffsets s.patrol.choose.1 = 0 :: (requestFields s.patrol.choose.1 ++ [0]) from rfl,
      State.readStage_cycle (by simp), hserved, State.settleRestart_congr (hp.trans hphase.symm),
      State.serveAlone_nil, State.serveAlone_of_lt]
    rw [State.readStage_nil]
    intro c hc
    rw [List.mem_singleton.mp hc]
    exact State.le_readStage _ _

end Sys2Proof.Proofs
end

section
/-!
SUPPORT. A host cycle between the grants of a patrol step that reports an old request: where it falls, and
the operations that may be taken after the step as well (R148, R151, R155).
-/
namespace Sys2Proof.Machine

/-! ## Words of a record -/

theorem recordAt_base (r : Record) {i : Nat} (hi : i < 32) : recordAt (r.base + i) = some (r, i) := by
  cases r with
  | monitor m =>
    have hm : (512 + 32 * m.val + i - 512) / 32 = m.val := by omega
    have hj : (512 + 32 * m.val + i - 512) % 32 = i := by omega
    simp only [recordAt, Record.base, hm, hj, Fin.eta, show ¬512 + 32 * m.val + i < 128 by omega,
      show ¬512 + 32 * m.val + i < 256 by omega, show ¬512 + 32 * m.val + i < 512 by omega,
      show 512 + 32 * m.val + i < 768 by omega, if_false, dite_true]
  | line n =>
    have hn : (2048 + 64 * n.val + i - 2048) / 64 = n.val := by omega
    have hj : (2048 + 64 * n.val + i - 2048) % 64 = i := by omega
    simp only [recordAt, Record.base, hn, hj, Fin.eta, show ¬2048 + 64 * n.val + i < 128 by omega,
      show ¬2048 + 64 * n.val + i < 256 by omega, show ¬2048 + 64 * n.val + i < 512 by omega,
      show ¬2048 + 64 * n.val + i < 768 by omega, show ¬2048 + 64 * n.val + i < 2048 by omega,
      show 2048 + 64 * n.val + i < 6144 by omega, if_false, dite_false, dite_true]
  | directory =>
    simp only [recordAt, Record.base, Nat.zero_add, show i < 128 by omega, if_true]
  | timing =>
    simp only [recordAt, Record.base, show ¬128 + i < 128 by omega, show 128 + i < 256 by omega, if_false,
      if_true, Nat.add_sub_cancel_left]
  | store =>
    simp only [recordAt, Record.base, show ¬256 + i < 128 by omega, show ¬256 + i < 256 by omega,
      show 256 + i < 512 by omega, if_false, if_true, Nat.add_sub_cancel_left]

theorem ownerOf_base (r : Record) {i : Nat} (hi : i < 32) : ownerOf (r.base + i) = recordOwner r i := by
  simp only [ownerOf, recordAt_base r hi]

theorem ownerOf_reqser (r : Record) : ownerOf r.base = .host := ownerOf_base r (i := 0) (by omega)

theorem ownerOf_updcnt (r : Record) : ownerOf (r.base + 16) = .device := by
  rw [ownerOf_base r (by omega), recordOwner, if_neg (by omega), reportListed_updcnt]
  rfl

theorem Record.base_add_lt (r : Record) {i : Nat} (hi : i < 32) : r.base + i < 6144 :=
  r.base_lt_journal (by omega)

theorem takeserSlot_reqser (r : Record) : takeserSlot r.base = none := by
  rw [takeserSlot, dif_neg]
  have := r.base_add_lt (i := 0) (by omega)
  have : journalStart = 6144 := rfl
  omega

/-- The address of a word of a record, as the host gives it. -/
theorem Record.toNat_base (r : Record) {i : Nat} (hi : i < 32) : (BitVec.ofNat 13 (r.base + i)).toNat = r.base + i := by
  have := r.base_add_lt hi
  rw [BitVec.toNat_ofNat, Nat.mod_eq_of_lt (by omega)]

/-! ## Operations aside from the step -/

/-- An operation that a step neither sees nor undoes: it may as well be taken after it. -/
structure Aside (g : State → State) : Prop where
  memWrite : ∀ t a x, g (t.memWrite a x) = (g t).memWrite a x
  advanceUpdcnt : ∀ t r, g (t.advanceUpdcnt r) = (g t).advanceUpdcnt r
  advanceScrub : ∀ t, g t.advanceScrub = (g t).advanceScrub
  memWord : ∀ t a, (g t).memWord a = t.memWord a
  current : ∀ t, (g t).journal.current = t.journal.current
  head : ∀ t r, (g t).head r = t.head r
  visitWrites : ∀ t r, (g t).visitWrites r = t.visitWrites r

section
variable {g : State → State} (hg : Aside g) {s : State} {r : Record}
include hg

theorem Aside.memWriteAll (t : State) (l : List (Nat × Word)) : g (t.memWriteAll l) = (g t).memWriteAll l := by
  induction l generalizing t with
  | nil => rfl
  | cons p l ih => rw [State.memWriteAll_cons, State.memWriteAll_cons, ih, hg.memWrite]

theorem Aside.visited (t : State) (r : Record) (l : List (Nat × Word)) :
    g (t.visited r l) = (g t).visited r l := by
  rw [State.visited, State.visited, hg.advanceScrub, hg.advanceUpdcnt, hg.memWriteAll]

theorem Aside.calm (h : s.Calm) : (g s).Calm :=
  ⟨(hg.current s).trans h.current, fun a => by rw [hg.memWord]; exact h.clean a⟩

theorem Aside.reading (r : Record) : (g s).reading r = s.reading r := by
  funext i
  rw [State.reading, State.reading, hg.memWord]

end

theorem aside_answerPort (x : PortResult) : Aside fun t => t.answerPort x :=
  ⟨fun _ _ _ => rfl, fun _ _ => rfl, fun _ => rfl, fun _ _ => rfl, fun _ => rfl, fun _ _ => rfl, fun _ _ => rfl⟩

/-- A restart asked for with no post in progress, and the answer of the cycle that asks (R155, R169). -/
def State.restartAsked (t : State) : State :=
  ({ t with
    phase := .restarting, patrol := { t.patrol with prompts := [], due := false }
    journal := { t.journal with
      waiting := [], dropCount := satAdd 65535 t.journal.dropCount t.journal.waiting.length
      heldBeforeRestart := t.journal.heldCount } } : State).answerPort (.writeDone false)

theorem aside_restartAsked : Aside State.restartAsked :=
  ⟨fun _ _ _ => rfl, fun _ _ => rfl, fun _ => rfl, fun _ _ => rfl, fun _ => rfl, fun _ _ => rfl,
    fun t r => by cases r <;> rfl⟩

/-! ## Where a cycle falls -/

section
variable {s : State} {r : Record} {k : Nat}

/-- The grants of a step that reports an old request: its readings, its writes and its scrub. -/
def State.grants (s : State) (r : Record) : Nat :=
  (snapshotOffsets r).length + (s.visitWrites r).length + Config.scrubWords

/-- The state before grant k of a step that reports an old request. -/
def State.partWay (s : State) (r : Record) (k : Nat) : State :=
  if k < (snapshotOffsets r).length then s
  else if k < (snapshotOffsets r).length + (s.visitWrites r).length then
    s.memWriteAll ((s.visitWrites r).take (k - (snapshotOffsets r).length))
  else if k < s.grants r then (s.memWriteAll (s.visitWrites r)).advanceUpdcnt r
  else s.visited r (s.visitWrites r)

theorem State.partWay_phase : (s.partWay r k).phase = s.phase := by
  unfold State.partWay
  generalize s.visitWrites r = l
  split_ifs
  · rfl
  · exact (s.memWriteAll_quiet _).phase
  · exact (s.memWriteAll_quiet l).phase
  · exact State.visited_phase _ _ _

theorem State.Calm.partWay (h : s.Calm) : (s.partWay r k).Calm := by
  unfold State.partWay
  generalize s.visitWrites r = l
  split_ifs
  · exact h
  · exact h.memWriteAll _
  · exact (h.memWriteAll _).advanceUpdcnt r
  · exact ⟨(h.memWriteAll l).current, (h.memWriteAll l).clean⟩

variable {between : List (Nat × HostCycle)}

/-- Readings with no cycle between them bring the judgement. -/
theorem State.Calm.readStage_free (hs : s.Calm)
    (hb : ∀ c ∈ between, ∀ i < (snapshotOffsets r).length, c.1 ≠ 0 + i) :
    s.readStage between r [] (snapshotOffsets r) 0 =
      s.judgeStage between r ((snapshotOffsets r).map (s.reading r)) (snapshotOffsets r).length := by
  have := hs.readStage_append (r := r) [] (snapshotOffsets r) [] hb
  rwa [List.append_nil, List.nil_append, State.readStage_done, Nat.zero_add] at this

theorem State.judgeStage_old (hold : (s.memWord r.base).raw = (s.head r).appser) :
    s.judgeStage between r ((snapshotOffsets r).map (s.reading r)) k =
      s.writeStage between r (s.visitWrites r) k := by
  rw [State.judgeStage, s.judgeReadings_old r hold]
  exact if_neg (by simp)

/-- Writes with no cycle between them bring the scrub. -/
theorem State.Calm.writeStage_free (hs : s.Calm) (l : List (Nat × Word))
    (hb : ∀ c ∈ between, ∀ i < l.length, c.1 ≠ k + i) :
    s.writeStage between r l k =
      ((s.memWriteAll l).advanceUpdcnt r).scrubStage between r Config.scrubWords (k + l.length) := by
  have := hs.writeStage_append (r := r) l [] hb
  rwa [List.append_nil, State.writeStage_done] at this

/-- A step on a calm memory that reports an old request, with every cycle after its grants. -/
theorem State.Calm.step_free (hs : s.Calm) (hold : (s.memWord r.base).raw = (s.head r).appser)
    (hb : ∀ c ∈ between, s.grants r ≤ c.1) :
    s.readStage between r [] (snapshotOffsets r) 0 = (s.visited r (s.visitWrites r), s.grants r) := by
  have hscrub := ((hs.memWriteAll (s.visitWrites r)).advanceUpdcnt r).scrubStage_add (between := between)
    (r := r) (k := (snapshotOffsets r).length + (s.visitWrites r).length) Config.scrubWords 0
  unfold State.grants at hb
  have hafter : ∀ c ∈ between, ∀ j, j < (snapshotOffsets r).length + (s.visitWrites r).length +
      Config.scrubWords → c.1 ≠ j := fun c hc j hj e => by
    have := hb c hc
    omega
  rw [hs.readStage_free fun c hc i hi => hafter c hc _ (by omega), State.judgeStage_old hold,
    hs.writeStage_free _ fun c hc i hi => hafter c hc _ (by omega)]
  rw [Nat.zero_add] at hscrub
  exact hscrub fun c hc i hi => hafter c hc _ (by omega)

/-- A cycle among the grants of a step that reports an old request, where it may be taken after the step as
well. -/
theorem State.Calm.step_cycle (hs : s.Calm) (hold : (s.memWord r.base).raw = (s.head r).appser)
    {g : State → State} (hg : Aside g) {c : HostCycle} (hc : c ≠ .wait)
    (hcycle : (s.partWay r k).hostCycle c = g (s.partWay r k)) (hk : k < s.grants r) :
    s.readStage [(k, c)] r [] (snapshotOffsets r) 0 = (g (s.visited r (s.visitWrites r)), s.grants r) := by
  have hbefore : (s.partWay r k).hostBefore c = g (s.partWay r k) := by
    rw [State.hostBefore_of_none hs.partWay.current, hcycle]
  have hone : ∀ {n m : Nat}, (∀ i < n, k ≠ m + i) → ∀ d ∈ [(k, c)], ∀ i < n, d.1 ≠ m + i :=
    fun h d hd => by rw [List.mem_singleton.mp hd]; exact h
  unfold State.partWay at hbefore
  by_cases hread : k < (snapshotOffsets r).length
  · rw [if_pos hread] at hbefore
    have hlen : ((snapshotOffsets r).take k).length = k := List.length_take_of_le hread.le
    have hstart := hs.readStage_append (r := r) (between := [(k, c)]) (k := 0) []
      ((snapshotOffsets r).take k) ((snapshotOffsets r).drop k)
      (hone fun i hi => by rw [hlen] at hi; omega)
    rw [List.take_append_drop, hlen, Nat.zero_add, List.nil_append] at hstart
    have hend := (hg.calm hs).readStage_append (r := r) (between := []) (k := k)
      (((snapshotOffsets r).take k).map (s.reading r)) ((snapshotOffsets r).drop k) [] (by simp)
    rw [List.append_nil, hg.reading, ← List.map_append, List.take_append_drop, State.readStage_done,
      ← hg.reading r, State.judgeStage_old (by rw [hg.memWord, hg.head, hold]), hg.visitWrites,
      (hg.calm hs).writeStage_nil, hg.reading] at hend
    rw [hstart, List.drop_eq_getElem_cons hread, State.readStage_cycle hc, hbefore,
      ← List.drop_eq_getElem_cons hread, hend, hg.visited, List.length_drop, Nat.add_sub_cancel' hread.le]
    rfl
  · rw [if_neg hread] at hbefore
    rw [hs.readStage_free (hone fun i hi => by omega), State.judgeStage_old hold]
    by_cases hwrite : k < (snapshotOffsets r).length + (s.visitWrites r).length
    · rw [if_pos hwrite] at hbefore
      obtain ⟨m, hm⟩ := Nat.exists_eq_add_of_le (Nat.not_lt.mp hread)
      rw [hm, Nat.add_sub_cancel_left] at hbefore
      have hmlt : m < (s.visitWrites r).length := by omega
      have hlen : ((s.visitWrites r).take m).length = m := List.length_take_of_le hmlt.le
      have hstart := hs.writeStage_append (r := r) (between := [(k, c)]) (k := (snapshotOffsets r).length)
        ((s.visitWrites r).take m) ((s.visitWrites r).drop m)
        (hone fun i hi => by rw [hlen] at hi; omega)
      rw [List.take_append_drop, hlen, ← hm] at hstart
      rw [hstart, List.drop_eq_getElem_cons hmlt, State.writeStage_cycle hc, hbefore,
        ← List.drop_eq_getElem_cons hmlt, (hg.calm (hs.memWriteAll _)).writeStage_nil, ← hg.memWriteAll,
        ← State.memWriteAll_append, List.take_append_drop, State.visited, hg.advanceScrub, hg.advanceUpdcnt,
        List.length_drop, State.grants, hm]
      exact congrArg (Prod.mk _) (by omega)
    · rw [if_neg hwrite, if_pos hk] at hbefore
      have hcalm := (hs.memWriteAll (s.visitWrites r)).advanceUpdcnt r
      unfold State.grants Config.scrubWords at hk
      obtain ⟨m, hm⟩ := Nat.exists_eq_add_of_le (Nat.not_lt.mp hwrite)
      obtain ⟨left, hleft⟩ : ∃ left, 8 = left + 1 + m := ⟨7 - m, by omega⟩
      rw [hs.writeStage_free _ (hone fun i hi => by omega), Config.scrubWords, hleft,
        hcalm.scrubStage_add _ _ (hone fun i hi => by omega), ← hm, State.scrubStage_cycle hc, hbefore,
        (hg.calm hcalm).scrubStage_nil, State.visited, hg.advanceScrub, State.grants, Config.scrubWords]
      exact congrArg (Prod.mk _) (by omega)

end

end Sys2Proof.Machine
end

section
/-!
SUPPORT. The cycles of the host port that come with a command, and a restart asked for in one (R148, R149,
R155).
-/
namespace Sys2Proof.Machine

section
variable {s : State} {r : Record} {k : Nat}

/-! ## A cycle served alone -/

theorem foldl_answerPort {β : Type} {f : State → β → State} {x : PortResult}
    (hf : ∀ t b, f (t.answerPort x) b = (f t b).answerPort x) (l : List β) (s : State) :
    l.foldl f (s.answerPort x) = (l.foldl f s).answerPort x := by
  induction l generalizing s with
  | nil => rfl
  | cons b l ih => rw [List.foldl_cons, List.foldl_cons, hf, ih]

theorem State.linesRestarted_answerPort (x : PortResult) :
    (s.answerPort x).linesRestarted = s.linesRestarted.answerPort x :=
  foldl_answerPort (f := fun t n => t.modLine n Line.restarted) (fun _ _ => rfl) _
    (s.modJournal fun j => { j with kindMask := 0x7FFF })

theorem State.restartMonitors_answerPort (x : PortResult) :
    (s.answerPort x).restartMonitors = s.restartMonitors.answerPort x :=
  foldl_answerPort (f := fun t i => t.setMonitor i (t.monitor i).restarted) (fun _ _ => rfl) _
    (s.modMonitorUnit fun u => { u with freeze := false })

theorem State.memWriteAll_answerPort (s : State) (x : PortResult) (l : List (Nat × Word)) :
    (s.answerPort x).memWriteAll l = (s.memWriteAll l).answerPort x :=
  ((aside_answerPort x).memWriteAll s l).symm

theorem State.clearSerials_answerPort (x : PortResult) (r : Record) :
    (s.answerPort x).clearSerials r = (s.clearSerials r).answerPort x := by
  let cleared := s.setHead r { s.head r with appser := 0, actser := 0 }
  exact (congrArg (fun t => State.advanceUpdcnt t r) (cleared.memWriteAll_answerPort x
    (reportWrites r (cleared.head r).updcnt [(17, 0), (18, 0)]))).trans
      ((aside_answerPort x).advanceUpdcnt _ r).symm

/-- The port's answer to a restart comes before or after it takes hold. -/
theorem State.takeRestart_answerPort (x : PortResult) :
    (s.answerPort x).takeRestart = s.takeRestart.answerPort x := by
  have hblocks : (s.answerPort x).blocksRestarted = s.blocksRestarted.answerPort x := by
    unfold State.blocksRestarted
    rw [State.linesRestarted_answerPort, State.restartMonitors_answerPort]
    generalize s.linesRestarted.restartMonitors = t
    rfl
  rw [State.takeRestart_eq, State.takeRestart_eq, hblocks]
  exact foldl_answerPort (fun t r => t.clearSerials_answerPort x r) _ _

theorem State.settleRestart_of_phase {t : State} (h : t.phase = s.phase) : s.settleRestart t = t := by
  cases hr : s.ready with
  | false => exact s.settleRestart_of_not_ready hr
  | true =>
    refine s.settleRestart_of_ne ?_
    rw [h, of_decide_eq_true hr]
    decide

theorem State.serveAlone_singleton {j : Nat} {c : HostCycle} (h : k ≤ j) :
    s.serveAlone [(j, c)] k = s.settleRestart (s.hostCycle c) := by
  simp [State.serveAlone, h]

/-- A restart asked for with no step in progress takes hold at once, and the cycle is answered (R149,
R155). -/
theorem State.settleRestart_restart (hp : s.phase = .ready) (hstep : s.patrol.step = none) {x : Word}
    (hx : x.getLsbD 0 = true) :
    s.settleRestart (s.hostCycle (.registerWrite 2 x)) = s.writeRestart := by
  have hready := State.ready_of_phase hp
  have hopen := State.portClosed_of_open (.inl hp)
  have hasked : s.hostCycle (.registerWrite 2 x) = s.askRestart.answerPort (.writeDone false) := by
    show s.registerWrite (if x.getLsbD 0 && s.ready then s.askRestart else s) = _
    rw [hx, hready, State.registerWrite_of_open hopen]
    rfl
  have hnone : s.askRestart.patrol.step = none := by rw [State.askRestart_frame]; exact hstep
  have hphase : s.askRestart.phase = .restarting := by rw [State.askRestart_frame]
  have hfinish : (s.askRestart.answerPort (.writeDone false)).finishStep =
      s.askRestart.answerPort (.writeDone false) := State.finishStep_of_none hnone
  have htakes : (s.ready && (s.askRestart.answerPort (.writeDone false)).phase == .restarting) = true := by
    rw [hready, show (s.askRestart.answerPort (.writeDone false)).phase = .restarting from hphase]
    rfl
  rw [hasked, State.settleRestart, if_pos htakes, hfinish, State.takeRestart_answerPort, State.writeRestart,
    State.registerWrite_of_open hopen, if_pos hready, State.beginRestart, State.finishStep_of_none hnone]

theorem State.hostCycle_restart (hp : s.phase = .ready) (hcurrent : s.journal.current = none) {x : Word}
    (hx : x.getLsbD 0 = true) : s.hostCycle (.registerWrite 2 x) = s.restartAsked := by
  have hready := State.ready_of_phase hp
  show s.registerWrite (if x.getLsbD 0 && s.ready then s.askRestart else s) = _
  rw [hx, hready, State.registerWrite_of_open (State.portClosed_of_open (.inl hp)),
    Bool.and_true, if_pos rfl, State.askRestart_of_none hcurrent]
  rfl

theorem State.recordTaken_step : s.recordTaken.patrol.step = s.patrol.step := by
  rw [State.recordTaken_eq]
  dsimp only
  split <;> rfl

theorem State.visited_rest (l : List (Nat × Word)) :
    (s.visited r l).patrol = s.patrol ∧ (s.visited r l).journal = s.journal := by
  rw [State.visited, State.memWriteAll_frame]
  exact ⟨rfl, rfl⟩

/-! ## What the host reads and writes among the grants -/

theorem State.Calm.hostRead_updcnt (h : s.Calm) (hp : s.phase = .ready) :
    s.hostRead (r.base + 16) = s.answerPort (.readDone (s.memWord (r.base + 16)).raw false) := by
  rw [State.hostRead_of_owned (State.portClosed_of_open (.inl hp)) (by rw [ownerOf_updcnt]; decide),
    MemWord.condition_eq_clean.mp (h.clean _)]

theorem State.hostWrite_reqser (hp : s.phase = .ready) (x : Word) :
    s.hostWrite r.base x = s.storeHostWord r.base x :=
  State.hostWrite_of_host (State.portClosed_of_open (.inl hp)) (ownerOf_reqser r) (takeserSlot_reqser r) x

theorem State.visitWrites_length : (s.visitWrites r).length = 6 + (s.reportBody r).length := by
  have hhead : (placedFrom 17 (s.head r).words).length = 4 := rfl
  rw [State.visitWrites_eq, reportWrites_eq, State.visitBody]
  simp only [List.length_append, List.length_cons, List.length_map, List.length_nil, hhead]
  omega

/-- UPDCNT is odd from the first word of a report to the last (R151). -/
theorem State.take_visitWrites_updcnt {m : Nat} (h0 : 0 < m) (hm : m < (s.visitWrites r).length) :
    (s.memWriteAll ((s.visitWrites r).take m)).memWord (r.base + 16) =
      { raw := (s.head r).updcnt + 1 } := by
  obtain ⟨m, rfl⟩ := Nat.exists_eq_add_one_of_ne_zero h0.ne'
  have hlen : m ≤ ((s.visitBody r).map fun p => (r.base + p.1, p.2)).length := by
    rw [State.visitWrites_eq, reportWrites_eq] at hm
    simp only [List.length_append, List.length_cons, List.length_nil] at hm
    omega
  rw [State.visitWrites_eq, reportWrites_eq, List.cons_append, List.take_succ_cons,
    List.take_append_of_le_length hlen, State.memWriteAll_cons, State.memWriteAll_memWord_ne]
  · exact State.memWrite_memWord_same _ _ _
  · intro p hp
    obtain ⟨q, hq, rfl⟩ := List.mem_map.mp (List.mem_of_mem_take hp)
    have hoffset : q.1 ≠ 16 := fun e => s.visitBody_updcnt r (List.mem_map.mpr ⟨q, hq, e⟩)
    show r.base + q.1 ≠ _
    omega

/-- UPDCNT as a host cycle before grant k reads it (R151). -/
theorem State.partWay_updcnt (hword : (s.memWord (r.base + 16)).raw = (s.head r).updcnt) :
    ((s.partWay r k).memWord (r.base + 16)).raw =
      if k ≤ (snapshotOffsets r).length then (s.head r).updcnt
      else if k < (snapshotOffsets r).length + (s.visitWrites r).length then (s.head r).updcnt + 1
      else (s.head r).updcnt + 2 := by
  have hwritten : ((s.memWriteAll (s.visitWrites r)).memWord (r.base + 16)).raw = (s.head r).updcnt + 2 := by
    rw [State.visitWrites_eq, State.reportWrites_updcnt]
  unfold State.partWay
  by_cases hread : k < (snapshotOffsets r).length
  · rw [if_pos hread, if_pos hread.le, hword]
  · rw [if_neg hread]
    have hlen : 0 < (s.visitWrites r).length := by rw [State.visitWrites_length]; omega
    by_cases hwrite : k < (snapshotOffsets r).length + (s.visitWrites r).length
    · rw [if_pos hwrite]
      by_cases hfirst : k = (snapshotOffsets r).length
      · rw [if_pos hfirst.le, hfirst, Nat.sub_self, List.take_zero]
        exact hword
      · rw [if_neg (by omega), if_pos hwrite, State.take_visitWrites_updcnt (by omega) (by omega)]
    · rw [if_neg hwrite, if_neg hwrite, if_neg (show ¬k ≤ (snapshotOffsets r).length by omega)]
      generalize s.visitWrites r = l at hwritten
      split
      · exact hwritten
      · exact hwritten

/-! ## A torn snapshot -/

theorem State.Calm.storeHostWord (h : s.Calm) (a : Nat) (x : Word) : (s.storeHostWord a x).Calm :=
  ⟨(h.memWrite a x).current, (h.memWrite a x).clean⟩

/-- REQSER written between its two readings makes the snapshot torn: the scrub follows (R158). -/
theorem State.Calm.step_torn (hs : s.Calm) (hp : s.phase = .ready) {x : Word}
    (hx : x ≠ (s.memWord r.base).raw) (h0 : 0 < k) (hk : k < (snapshotOffsets r).length) :
    s.readStage [(k, .write (BitVec.ofNat 13 r.base) x)] r [] (snapshotOffsets r) 0 =
      ((s.storeHostWord r.base x).advanceScrub, (snapshotOffsets r).length + Config.scrubWords) := by
  have hcalm := hs.storeHostWord r.base x
  have hserved : s.hostBefore (.write (BitVec.ofNat 13 r.base) x) = s.storeHostWord r.base x := by
    rw [State.hostBefore_of_none hs.current, ← State.hostWrite_reqser hp]
    exact congrArg (s.hostWrite · x) (r.toNat_base (i := 0) (by omega))
  generalize hs' : s.storeHostWord r.base x = s' at hcalm hserved
  have hlen : ((snapshotOffsets r).take k).length = k := List.length_take_of_le hk.le
  have hstart := hs.readStage_append (r := r) (between := [(k, .write (BitVec.ofNat 13 r.base) x)]) (k := 0) []
    ((snapshotOffsets r).take k) ((snapshotOffsets r).drop k) (by
      intro d hd i hi
      rw [List.mem_singleton.mp hd]
      rw [hlen] at hi
      show k ≠ _
      omega)
  rw [List.take_append_drop, hlen, Nat.zero_add, List.nil_append] at hstart
  have hend := hcalm.readStage_append (r := r) (between := []) (k := k)
    (((snapshotOffsets r).take k).map (s.reading r)) ((snapshotOffsets r).drop k) [] (by simp)
  obtain ⟨j, rfl⟩ := Nat.exists_eq_add_one_of_ne_zero h0.ne'
  have hj : j ≤ (requestFields r).length := by
    simp only [snapshotOffsets, List.cons_append, List.length_cons, List.length_append, List.length_nil] at hk
    omega
  have htake : (snapshotOffsets r).take (j + 1) = 0 :: (requestFields r).take j := by
    rw [snapshotOffsets, List.cons_append, List.take_succ_cons, List.take_append_of_le_length hj]
  have hdrop : (snapshotOffsets r).drop (j + 1) = (requestFields r).drop j ++ [0] := by
    rw [snapshotOffsets, List.cons_append, List.drop_succ_cons, List.drop_append_of_le_length hj]
  have hfirst : s.reading r 0 = some (s.memWord r.base).raw := rfl
  have hlast : s'.reading r 0 = some x := by
    rw [← hs']
    exact congrArg (fun w : MemWord => some w.raw) (s.memWrite_memWord_same r.base x)
  have htorn : judgeReadings (s'.head r).appser (((snapshotOffsets r).take (j + 1)).map (s.reading r) ++
      ((snapshotOffsets r).drop (j + 1)).map (s'.reading r)) = .torn := by
    rw [htake, hdrop, List.map_cons, List.map_append, List.map_singleton, hlast, ← List.append_assoc,
      List.cons_append, hfirst, judgeReadings_snapshot, judgeSnapshot_torn hx.symm]
  rw [List.append_nil, State.readStage_done, State.judgeStage, htorn, if_pos rfl, hcalm.scrubStage_nil,
    List.length_drop, Nat.add_sub_cancel' hk.le] at hend
  rw [hstart, List.drop_eq_getElem_cons hk, State.readStage_cycle (by simp), hserved,
    ← List.drop_eq_getElem_cons hk, hend]

end

end Sys2Proof.Machine
end

section
/-!
PROOFS. Host cycles between the grants of a patrol step.
-/
namespace Sys2Proof.Proofs

open Sys2Proof.Machine

/-- A host cycle as a command of its own (R144, R149). -/
def served (c : HostCycle) (s : State) : Host.Outcome State Fault Refusal :=
  match c with
  | .read a => exec (.hostMemoryRead false a) s
  | .write a x => exec (.hostMemoryWrite a x) s
  | .registerRead reg => exec (.hostMemoryRead true (BitVec.ofNat 13 reg.val)) s
  | .registerWrite reg x => exec (.registerWriteOther reg x) s
  | .wait => .next s

/-- A cycle served alone is the cycle as a command, where no step is in progress (R148). -/
theorem settled_hostCycle (s : State) (h : s.phase = .ready → s.patrol.step = none) (c : HostCycle) :
    .next (s.settleRestart (s.hostCycle c)) = served c s := by
  cases c with
  | read a => exact congrArg _ (State.settleRestart_of_phase (s.hostRead_phase _))
  | write a x => exact congrArg _ (State.settleRestart_of_phase (s.hostWrite_phase _ x))
  | registerRead reg =>
    have hreg : Fin.ofNat 8 (BitVec.ofNat 13 reg.val).toNat = reg := by
      apply Fin.ext
      simp [Fin.ofNat]
    have hread : s.settleRestart (s.readRegister reg) = s.readRegister reg := State.settleRestart_of_phase rfl
    exact congrArg Host.Outcome.next (hread.trans (congrArg s.readRegister hreg.symm))
  | wait => exact congrArg _ (State.settleRestart_of_phase rfl)
  | registerWrite reg x =>
    show _ = Host.Outcome.next (if reg = 2 ∧ x.getLsbD 0 = true then s.writeRestart else s.writeRegister reg x)
    split
    · next hr =>
      obtain ⟨rfl, hx⟩ := hr
      by_cases hp : s.phase = .ready
      · rw [State.settleRestart_restart hp (h hp) hx]
      · have hready : s.ready = false := by simpa [State.ready] using hp
        rw [s.settleRestart_of_not_ready hready, State.writeRestart, hready]
        show Host.Outcome.next (s.registerWrite (if x.getLsbD 0 && s.ready then s.askRestart else s)) = _
        rw [hready, Bool.and_false, if_neg Bool.false_ne_true, if_neg Bool.false_ne_true]
    · next hr => exact congrArg _ (State.settleRestart_of_phase (s.writeRegister_phase hr))

section
variable {s : State} (hp : s.phase = .ready) (hstep : s.patrol.step = none) (hs : s.Calm)
  (hold : (s.memWord s.patrol.choose.1.base).raw = (s.head s.patrol.choose.1).appser)
include hp hstep hs hold

/-- The step that reports an old request, with nothing between its grants. -/
theorem patrolStep_old : s.patrolStep [] =
    s.recordTaken.visited s.patrol.choose.1 (s.recordTaken.visitWrites s.patrol.choose.1) := by
  have hcalm : s.recordTaken.Calm := ⟨hs.current, hs.clean⟩
  refine State.patrolStep_nil hp hstep (hcalm.step_of_old _ hold) ?_
  rw [State.visited_phase, show s.recordTaken.phase = .ready from hp]
  decide

/-- A cycle anywhere in the command, where it may be taken after the step as well. -/
theorem patrolStep_cycle {g : State → State} (hg : Aside g) {c : HostCycle} (hc : c ≠ .wait) {k : Nat}
    (hcycle : (s.recordTaken.partWay s.patrol.choose.1 k).hostCycle c =
      g (s.recordTaken.partWay s.patrol.choose.1 k)) :
    s.patrolStep [(k, c)] = s.settleRestart (g (s.patrolStep [])) := by
  have hcalm : s.recordTaken.Calm := ⟨hs.current, hs.clean⟩
  rw [patrolStep_old hp hstep hs hold, State.patrolStep_of_ready hp hstep]
  generalize hr : s.patrol.choose.1 = r at *
  by_cases hk : k < s.recordTaken.grants r
  · rw [hcalm.step_cycle hold hg hc hcycle hk]
    exact State.serveAlone_of_lt _ (by simpa using hk)
  · have hlast : s.recordTaken.partWay r k = s.recordTaken.visited r (s.recordTaken.visitWrites r) := by
      have := hk
      unfold State.grants at this
      rw [State.partWay, if_neg (by omega), if_neg (by omega), if_neg hk]
    rw [hlast] at hcycle
    have hphase := State.visited_phase s.recordTaken r (s.recordTaken.visitWrites r)
    rw [hcalm.step_free hold (by simpa using hk)]
    dsimp only
    rw [State.settleRestart_of_phase (s := s) hphase, State.serveAlone_singleton (Nat.not_lt.mp hk), hcycle]
    exact State.settleRestart_congr hphase _

end

/-- With no work for the patrol, what comes with a command is served alone. -/
theorem patrolTurn_idle {s : State} (hstep : s.patrol.step = none) (hdue : s.patrol.due = false) (k : Nat)
    (c : HostCycle) : s.patrolTurn [(k, c)] = s.settleRestart (s.hostCycle c) := by
  have halone : s.serveAlone [(k, c)] 0 = s.settleRestart (s.hostCycle c) :=
    State.serveAlone_singleton (Nat.zero_le k)
  cases hr : s.ready with
  | false => rw [State.patrolTurn_of_not_ready _ hr, halone]
  | true =>
    rw [State.patrolTurn_of_ready _ hr, State.patrolWork_of_idle hstep hdue]
    dsimp only
    rw [State.settleRestart_of_phase rfl, halone]

/-- The clocks of a local cycle come before the patrol and what comes with the cycle (R148, R156). -/
theorem localCycle_clocked {s : State} (holdreq : Bool) (hp : s.phase ≠ .inReset) :
    ∃ w : State, w.patrol = s.patrol ∧ ∀ l : List (Nat × HostCycle),
      exec (.localOscillatorCycle holdreq (l.map fun c => .host c.1 c.2)) s = .next (w.cyclePatrol l) := by
  let x : State := if holdreq then (s.goOn.setHoldreq holdreq).latchHold else s.goOn.setHoldreq holdreq
  have hx : x.patrol = s.patrol := by
    have hset : (s.goOn.setHoldreq holdreq).patrol = s.patrol := by
      rw [State.goOn_frame]
      rfl
    show (if holdreq = true then _ else _ : State).patrol = _
    split
    · exact (State.latchHold_kept _).patrol.trans hset
    · exact hset
  have hclocks := ((x.cycleBus_kept .a).trans ((x.cycleBus .a).cycleBus_kept .b)).trans
    (((x.cycleBus .a).cycleBus .b).cycleNco_kept)
  refine ⟨_, hclocks.patrol.trans hx, fun l => ?_⟩
  rw [exec_localCycle_of_ne s _ _ hp, State.localCycle, s.foldl_struck_host, hostCycles_map]
  rfl

/-- Settles O41: a cycle among the grants commutes with the words of the step, one that tears the snapshot
leaves the scrub, and any other cycle is served alone. -/
theorem hostCyclesFallBetweenGrants : Obligations.HostCyclesFallBetweenGrants := by
  unfold Obligations.HostCyclesFallBetweenGrants
  refine ⟨fun s u r k hp hstep hcurrent hclean hpointer hr hold hword hu => ?_, fun s k c hp => ?_,
    fun s u holdreq k c hp hstep hdue htimer hu => ?_, fun s x hx => ?_⟩
  · have hs : s.Calm := ⟨hcurrent, fun a => MemWord.condition_of_nil (hclean a)⟩
    obtain rfl : r = s.patrol.choose.1 := hr.trans s.patrol.choose_record.symm
    have hu : s.patrolStep [] = u := Host.Outcome.next.inj hu
    have hcalm : s.recordTaken.Calm := ⟨hs.current, hs.clean⟩
    have hpart : (s.recordTaken.partWay s.patrol.choose.1 k).phase = .ready := State.partWay_phase.trans hp
    have hupart := (patrolStep_old hp hstep hs hold).symm.trans hu
    have huphase : u.phase = .ready := by
      rw [← hupart, State.visited_phase]
      exact hp
    have hreads : (snapshotOffsets s.patrol.choose.1).length = 2 + (requestFields s.patrol.choose.1).length := by
      rw [snapshotOffsets, List.length_append, List.length_cons, List.length_singleton]
      omega
    have hbody : s.recordTaken.reportBody s.patrol.choose.1 = s.reportBody s.patrol.choose.1 := by
      cases s.patrol.choose.1 <;> rfl
    have hwrites := s.recordTaken.visitWrites_length (r := s.patrol.choose.1)
    rw [hbody] at hwrites
    refine ⟨?_, fun x h0 hk hx => ?_, fun x hx => ?_⟩
    · have hseen := State.partWay_updcnt (s := s.recordTaken) (k := k) hword
      rw [hreads, hwrites] at hseen
      have hread : (s.recordTaken.partWay s.patrol.choose.1 k).hostCycle
          (.read (BitVec.ofNat 13 (s.patrol.choose.1.base + 16))) = _ :=
        (congrArg (s.recordTaken.partWay s.patrol.choose.1 k).hostRead (Record.toNat_base _ (by omega))).trans
          (hcalm.partWay.hostRead_updcnt hpart)
      rw [hseen] at hread
      refine congrArg Host.Outcome.next ?_
      rw [patrolStep_cycle hp hstep hs hold (aside_answerPort _) (by simp) hread, hu]
      exact State.settleRestart_of_phase (s := s) (t := u.answerPort _) (huphase.trans hp.symm)
    · rw [← hreads] at hk
      refine ⟨(s.recordTaken.storeHostWord s.patrol.choose.1.base x).advanceScrub, ?_, ?_,
        s.recordTaken.memWrite_memWord_same _ _, fun a ha => s.recordTaken.memWrite_memWord_ne ha _⟩
      · refine congrArg Host.Outcome.next ?_
        rw [State.patrolStep_of_ready hp hstep, hcalm.step_torn hp (fun e => hx (e.trans hold)) h0 hk]
        dsimp only
        rw [State.settleRestart_of_phase, State.serveAlone_of_lt]
        · intro c hc
          rw [List.mem_singleton.mp hc]
          omega
        · rfl
      · rw [← hupart]
        generalize s.recordTaken.visitWrites s.patrol.choose.1 = l
        rw [State.visited, State.memWriteAll_frame]
        rfl
    · obtain ⟨hupatrol, hujournal⟩ := s.recordTaken.visited_rest (r := s.patrol.choose.1)
        (s.recordTaken.visitWrites s.patrol.choose.1)
      rw [hupart] at hupatrol hujournal
      refine congrArg Host.Outcome.next ?_
      rw [patrolStep_cycle hp hstep hs hold aside_restartAsked (by simp)
        (State.hostCycle_restart hpart hcalm.partWay.current hx), hu,
        State.settleRestart_congr (hp.trans huphase.symm),
        ← State.hostCycle_restart huphase (hujournal ▸ hcurrent) hx]
      exact State.settleRestart_restart huphase (by rw [hupatrol, State.recordTaken_step, hstep]) hx
  · have hready : s.ready = false := by simpa [State.ready] using hp
    refine Eq.trans (congrArg Host.Outcome.next ?_) (settled_hostCycle s (fun h => absurd h hp) c)
    rw [State.patrolStep, State.dueStep, hready, if_neg Bool.false_ne_true, State.patrolTurn_of_not_ready _ hready,
      State.serveAlone_singleton (Nat.zero_le k)]
  · obtain ⟨w, hw, hcycle⟩ := localCycle_clocked holdreq hp
    have hadvance : w.advancePatrol = w.modPatrol fun p => { p with timer := w.patrol.timer + 1 } :=
      w.advancePatrol_of_lt (by rw [hw]; exact htimer)
    have hidle : w.advancePatrol.patrol.step = none ∧ w.advancePatrol.patrol.due = false := by
      rw [hadvance]
      exact ⟨(congrArg Patrol.step hw).trans hstep, (congrArg Patrol.due hw).trans hdue⟩
    have hend : w.advancePatrol = u := by
      refine Eq.trans ?_ (Host.Outcome.next.inj ((hcycle []).symm.trans hu))
      exact (State.patrolTurn_of_idle _ hidle.1 hidle.2).symm
    rw [hend] at hidle
    refine (hcycle [(k, c)]).trans ?_
    rw [State.cyclePatrol, hend, patrolTurn_idle hidle.1 hidle.2]
    exact settled_hostCycle u (fun _ => hidle.1) c
  · exact congrArg Host.Outcome.next (if_pos ⟨rfl, hx⟩)

end Sys2Proof.Proofs
end

section
/-!
SUPPORT. The patrol is not seen by the blocks: a request acts alike whatever the prompts, the round and the
interval are (R156, R159).
-/
namespace Sys2Proof.Machine

section
variable (s : State) (f : Patrol → Patrol)

/-! ## Changes of one part -/

@[simp] theorem State.setLine_modPatrol (n : LineNo) (l : Line) :
    (s.modPatrol f).setLine n l = (s.setLine n l).modPatrol f := rfl

@[simp] theorem State.modLine_modPatrol (n : LineNo) (g : Line → Line) :
    (s.modPatrol f).modLine n g = (s.modLine n g).modPatrol f := rfl

@[simp] theorem State.setCover_modPatrol (n : LineNo) (c : Coverage) :
    (s.modPatrol f).setCover n c = (s.setCover n c).modPatrol f := rfl

@[simp] theorem State.setBank_modPatrol (b : Fin 9) (c : BankCounts) :
    (s.modPatrol f).setBank b c = (s.setBank b c).modPatrol f := rfl

@[simp] theorem State.setMonitor_modPatrol (i : MonitorNo) (m : Monitor) :
    (s.modPatrol f).setMonitor i m = (s.setMonitor i m).modPatrol f := rfl

@[simp] theorem State.setGathered_modPatrol (n : LineNo) (x : Gathered) :
    (s.modPatrol f).setGathered n x = (s.setGathered n x).modPatrol f := rfl

@[simp] theorem State.setSlot_modPatrol (b : Fin 9) (i : Nat) (x : Slot) :
    (s.modPatrol f).setSlot b i x = (s.setSlot b i x).modPatrol f := rfl

@[simp] theorem State.modSpare_modPatrol (g : Spare → Spare) :
    (s.modPatrol f).modSpare g = (s.modSpare g).modPatrol f := rfl

@[simp] theorem State.modMonitorUnit_modPatrol (g : MonitorUnit → MonitorUnit) :
    (s.modPatrol f).modMonitorUnit g = (s.modMonitorUnit g).modPatrol f := rfl

@[simp] theorem State.modHighway_modPatrol (g : Highway → Highway) :
    (s.modPatrol f).modHighway g = (s.modHighway g).modPatrol f := rfl

@[simp] theorem State.modTiming_modPatrol (g : Timing → Timing) :
    (s.modPatrol f).modTiming g = (s.modTiming g).modPatrol f := rfl

@[simp] theorem State.setHead_modPatrol (r : Record) (x : ReportHead) :
    (s.modPatrol f).setHead r x = (s.setHead r x).modPatrol f := rfl

@[simp] theorem State.ite_modPatrol (c : Prop) [Decidable c] (t : State) :
    (if c then s.modPatrol f else t.modPatrol f) = (if c then s else t).modPatrol f :=
  (apply_ite (fun x : State => x.modPatrol f) c s t).symm

theorem foldl_modPatrol {β : Type} {g : State → β → State}
    (hg : ∀ t b, g (t.modPatrol f) b = (g t b).modPatrol f) (l : List β) (s : State) :
    l.foldl g (s.modPatrol f) = (l.foldl g s).modPatrol f := by
  induction l generalizing s with
  | nil => rfl
  | cons b l ih => rw [List.foldl_cons, List.foldl_cons, hg, ih]

@[simp] theorem State.post_modPatrol (k : Kind) (record : Nat) (detail : List Word) :
    (s.modPatrol f).post k record detail = (s.post k record detail).modPatrol f := by
  rw [State.post_of_agree (t := s.modPatrol f) (s := s) rfl rfl rfl rfl rfl, s.post_frame k record detail]
  rfl

@[simp] theorem State.postLine_modPatrol (k : Kind) (n : LineNo) (detail : List Word) :
    (s.modPatrol f).postLine k n detail = (s.postLine k n detail).modPatrol f :=
  s.post_modPatrol f k _ detail

/-! ## Spare control and the store -/

@[simp] theorem State.writeSlot_modPatrol (k : Fin 8) (i : Nat) (x : Slot) :
    (s.modPatrol f).writeSlot k i x = (s.writeSlot k i x).modPatrol f :=
  foldl_modPatrol f (fun _ _ => rfl) _ s

@[simp] theorem State.enterSpare_modPatrol (new : SpareState) (cause : SpareCause) (b : Fin 8) :
    (s.modPatrol f).enterSpare new cause b = (s.enterSpare new cause b).modPatrol f := by
  have hmarks : (s.modPatrol f).startCoverage = s.startCoverage := rfl
  unfold State.enterSpare
  rw [hmarks]
  simp

@[simp] theorem State.settleSpare_modPatrol : (s.modPatrol f).settleSpare = s.settleSpare.modPatrol f := by
  unfold State.settleSpare
  rw [State.modPatrol_spare]
  cases s.spare.state.operating <;> simp

@[simp] theorem State.startSpare_modPatrol (new : SpareState) (cause : SpareCause) (b : Fin 8) :
    (s.modPatrol f).startSpare new cause b = (s.startSpare new cause b).modPatrol f := by
  simp [State.startSpare]

@[simp] theorem State.coverLine_modPatrol (n : LineNo) :
    (s.modPatrol f).coverLine n = (s.coverLine n).modPatrol f := by
  unfold State.coverLine
  rw [State.modPatrol_cover]
  cases (s.cover n).mark <;> simp

@[simp] theorem State.autoSwap_modPatrol (b : Fin 9) :
    (s.modPatrol f).autoSwap b = (s.autoSwap b).modPatrol f := by
  unfold State.autoSwap
  split <;> simp

@[simp] theorem State.takeSwap_modPatrol (k : Fin 8) :
    (s.modPatrol f).takeSwap k = (s.takeSwap k).modPatrol f := by
  unfold State.takeSwap
  rw [State.modPatrol_spare]
  cases s.spare.state <;> simp

@[simp] theorem State.takeReturn_modPatrol : (s.modPatrol f).takeReturn = s.takeReturn.modPatrol f := by
  unfold State.takeReturn
  rw [State.modPatrol_spare]
  cases s.spare.state <;> simp

@[simp] theorem State.takeCancel_modPatrol : (s.modPatrol f).takeCancel = s.takeCancel.modPatrol f := by
  unfold State.takeCancel
  rw [State.modPatrol_spare]
  cases s.spare.state <;> simp

@[simp] theorem State.changeLine_modPatrol (n : LineNo) (new : LineState) (cause : LineCause) :
    (s.modPatrol f).changeLine n new cause = (s.changeLine n new cause).modPatrol f := by
  simp only [State.changeLine, State.modPatrol_line, State.modLine_modPatrol, State.postLine_modPatrol]
  rfl

@[simp] theorem State.storeReset_modPatrol (n : LineNo) :
    (s.modPatrol f).storeReset n = (s.storeReset n).modPatrol f := by
  unfold State.storeReset
  dsimp only
  rw [State.modLine_modPatrol, State.modPatrol_line,
    foldl_modPatrol f (fun t j => t.writeSlot_modPatrol f _ _ _), State.coverLine_modPatrol]

@[simp] theorem State.refill_modPatrol (n : LineNo) (cause : LineCause) :
    (s.modPatrol f).refill n cause = (s.refill n cause).modPatrol f := by
  simp [State.refill]

/-! ## The window unit -/

@[simp] theorem State.endWindow_modPatrol (n : LineNo) :
    (s.modPatrol f).endWindow n = (s.endWindow n).modPatrol f := by
  simp [State.endWindow]

@[simp] theorem State.closeWindowFrame_modPatrol (n : LineNo) (busTimed : Bool) :
    (s.modPatrol f).closeWindowFrame n busTimed = (s.closeWindowFrame n busTimed).modPatrol f := by
  simp [State.closeWindowFrame]

/-! ## The reader -/

@[simp] theorem State.enterDead_modPatrol (n : LineNo) :
    (s.modPatrol f).enterDead n = (s.enterDead n).modPatrol f := by
  simp [State.enterDead]

@[simp] theorem State.deadStage_modPatrol (n : LineNo) :
    (s.modPatrol f).deadStage n = (s.deadStage n).modPatrol f := by
  unfold State.deadStage
  simp only [State.modPatrol_line]
  cases (s.line n).state <;> simp

@[simp] theorem State.countRead_modPatrol (n : LineNo) (b : Fin 9) (x : SlotResult) :
    (s.modPatrol f).countRead n b x = (s.countRead n b x).modPatrol f := by cases x <;> rfl

@[simp] theorem State.advanceRing_modPatrol (n : LineNo) (k : Nat) :
    (s.modPatrol f).advanceRing n k = (s.advanceRing n k).modPatrol f := rfl

@[simp] theorem State.tagMismatch_modPatrol (n : LineNo) :
    (s.modPatrol f).tagMismatch n = (s.tagMismatch n).modPatrol f := by
  simp [State.tagMismatch]

@[simp] theorem State.startLine_modPatrol (n : LineNo) (start : Bool) :
    (s.modPatrol f).startLine n start = (s.startLine n start).modPatrol f := by
  cases start <;> simp [State.startLine]

/-- What an action yields, with the patrol changed. -/
def Acted.modPatrol (a : Acted) (f : Patrol → Patrol) : Acted := { a with state := a.state.modPatrol f }

@[simp] theorem Acted.ite_modPatrol (c : Prop) [Decidable c] (a b : Acted) :
    (if c then a.modPatrol f else b.modPatrol f) = (if c then a else b).modPatrol f :=
  (apply_ite (fun x : Acted => x.modPatrol f) c a b).symm

@[simp] theorem filled_modPatrol (d : Decision) : filled (s.modPatrol f) d = (filled s d).modPatrol f := rfl

@[simp] theorem State.normalRead_modPatrol (n : LineNo) (g : GroupPos) (d : Decision) (fill : Nat)
    (start : Bool) :
    (s.modPatrol f).normalRead n g d fill start = (s.normalRead n g d fill start).modPatrol f := by
  unfold State.normalRead
  simp only [State.modPatrol_line, State.modPatrol_spare, State.modPatrol_slot, State.countRead_modPatrol,
    State.startLine_modPatrol, State.postLine_modPatrol, State.autoSwap_modPatrol, State.advanceRing_modPatrol,
    State.tagMismatch_modPatrol]
  split
  · rfl
  · split <;> rfl

@[simp] theorem State.fillingAct_modPatrol (n : LineNo) (g : GroupPos) (fill : Nat) :
    (s.modPatrol f).fillingAct n g fill = (s.fillingAct n g fill).modPatrol f := by
  unfold State.fillingAct
  simp only [State.modPatrol_line]
  cases (s.line n).placement.unit <;> simp

@[simp] theorem Acted.countSlip_modPatrol (a : Acted) (n : LineNo) (l : Line) (direction fill : Nat) :
    (a.modPatrol f).countSlip n l direction fill = (a.countSlip n l direction fill).modPatrol f := by
  simp [Acted.countSlip, Acted.modPatrol]

@[simp] theorem State.slipAct_modPatrol (n : LineNo) (g : GroupPos) (fill : Nat) :
    (s.modPatrol f).slipAct n g fill = (s.slipAct n g fill).modPatrol f := by
  simp [State.slipAct]

@[simp] theorem State.underrun_modPatrol (n : LineNo) :
    (s.modPatrol f).underrun n = (s.underrun n).modPatrol f := by
  simp [State.underrun, Acted.modPatrol]

@[simp] theorem State.runningAct_modPatrol (n : LineNo) (g : GroupPos) (fill : Nat) :
    (s.modPatrol f).runningAct n g fill = (s.runningAct n g fill).modPatrol f := by
  unfold State.runningAct
  simp only [State.modPatrol_line]
  cases (s.line n).placement.unit <;> simp

@[simp] theorem State.readerAct_modPatrol (n : LineNo) (g : GroupPos) (fill : Nat) :
    (s.modPatrol f).readerAct n g fill = (s.readerAct n g fill).modPatrol f := by
  unfold State.readerAct
  simp only [State.modPatrol_line]
  cases (s.line n).state <;> simp
  rfl

@[simp] theorem State.handOctets_modPatrol (n : LineNo) (octets : List Octet) :
    (s.modPatrol f).handOctets n octets = (s.handOctets n octets).modPatrol f := by
  unfold State.handOctets
  rw [State.modPatrol_highway]
  cases s.highway.inHand <;> rfl

@[simp] theorem State.handOver_modPatrol (n : LineNo) (fill : Nat) (a : Acted) :
    State.handOver n fill (a.modPatrol f) = (State.handOver n fill a).modPatrol f := by
  unfold State.handOver
  dsimp only [Acted.modPatrol]
  rw [State.modLine_modPatrol, State.modPatrol_line, State.setGathered_modPatrol, State.handOctets_modPatrol]
  rfl

@[simp] theorem State.readerEvent_modPatrol (n : LineNo) (g : GroupPos) :
    (s.modPatrol f).readerEvent n g = (s.readerEvent n g).modPatrol f := by
  simp [State.readerEvent]

/-! ## The tick -/

@[simp] theorem State.overflowMonitor_modPatrol (i : MonitorNo) :
    (s.modPatrol f).overflowMonitor i = (s.overflowMonitor i).modPatrol f := by
  cases hfreezes : (s.monitor i).settings.overflowAction.freezes <;>
    cases hposts : (s.monitor i).settings.overflowAction.posts <;>
    simp [State.overflowMonitor, hfreezes, hposts]

@[simp] theorem State.countMonitor_modPatrol (i : MonitorNo) :
    (s.modPatrol f).countMonitor i = (s.countMonitor i).modPatrol f := by
  simp [State.countMonitor]

@[simp] theorem State.closeMonitor_modPatrol (frozen : Bool) (i : MonitorNo) :
    (s.modPatrol f).closeMonitor frozen i = (s.closeMonitor frozen i).modPatrol f := by
  simp [State.closeMonitor]

@[simp] theorem State.closeMonitors_modPatrol : (s.modPatrol f).closeMonitors = s.closeMonitors.modPatrol f :=
  foldl_modPatrol f (fun t i => t.closeMonitor_modPatrol f _ i) _ s

@[simp] theorem State.sendOctets_modPatrol : (s.modPatrol f).sendOctets = s.sendOctets.modPatrol f := by
  unfold State.sendOctets
  rw [State.modPatrol_highway]
  cases s.highway.inHand <;> rfl

@[simp] theorem State.openFrame_modPatrol : (s.modPatrol f).openFrame = s.openFrame.modPatrol f := rfl

@[simp] theorem State.tickLine_modPatrol (busTimed : Bool) (g : GroupPos) (n : LineNo) :
    (s.modPatrol f).tickLine busTimed g n = (s.tickLine busTimed g n).modPatrol f := by
  simp [State.tickLine]

@[simp] theorem State.tick_modPatrol : (s.modPatrol f).tick = s.tick.modPatrol f := by
  unfold State.tick
  dsimp only
  rw [State.modTiming_modPatrol, State.closeMonitors_modPatrol, State.openFrame_modPatrol, State.modPatrol_timing]
  refine (congrArg State.sendOctets ?_).trans (State.sendOctets_modPatrol _ f)
  generalize (s.modTiming Timing.tick).closeMonitors.openFrame = t
  exact foldl_modPatrol f (g := fun u n => u.tickLine s.timing.busTimed t.timing.position n)
    (fun u n => u.tickLine_modPatrol f _ _ n) _ t

@[simp] theorem State.takeSelector_modPatrol (cause : SelectorCause) :
    (s.modPatrol f).takeSelector cause = (s.takeSelector cause).modPatrol f := by
  simp [State.takeSelector, State.changeSelector]

/-! ## Requests -/

@[simp] theorem State.leaveService_modPatrol (n : LineNo) :
    (s.modPatrol f).leaveService n = (s.leaveService n).modPatrol f := by
  simp [State.leaveService]

@[simp] theorem State.enterService_modPatrol (n : LineNo) :
    (s.modPatrol f).enterService n = (s.enterService n).modPatrol f := by
  simp [State.enterService]

@[simp] theorem State.setFramer_modPatrol (n : LineNo) (x : Framer) :
    (s.modPatrol f).setFramer n x = (s.setFramer n x).modPatrol f := rfl

@[simp] theorem State.restartLine_modPatrol (n : LineNo) :
    (s.modPatrol f).restartLine n = (s.restartLine n).modPatrol f := by
  unfold State.restartLine
  rw [State.modPatrol_line]
  cases (s.line n).state <;> simp

@[simp] theorem State.moveCoverage_modPatrol (n : LineNo) :
    (s.modPatrol f).moveCoverage n = (s.moveCoverage n).modPatrol f := by
  unfold State.moveCoverage
  rw [State.modPatrol_spare]
  cases s.spare.state.operating <;> rfl

@[simp] theorem State.changePlacement_modPatrol (n : LineNo) (p : Placement) :
    (s.modPatrol f).changePlacement n p = (s.changePlacement n p).modPatrol f := by
  unfold State.changePlacement
  rw [State.modPatrol_line]
  cases (s.line n).state <;> simp

@[simp] theorem State.applyLineSettings_modPatrol (n : LineNo) (v : LineSettings) :
    (s.modPatrol f).applyLineSettings n v = (s.applyLineSettings n v).modPatrol f := by
  simp [State.applyLineSettings]

@[simp] theorem State.applyLine_modPatrol (n : LineNo) (q : LineRequest) :
    (s.modPatrol f).applyLine n q = (s.applyLine n q).modPatrol f := by
  simp [State.applyLine, State.pendRecentre, State.armWindow, State.clearCounts]

@[simp] theorem State.applyTiming_modPatrol (q : TimingRequest) :
    (s.modPatrol f).applyTiming q = (s.applyTiming q).modPatrol f := by
  simp [State.applyTiming, State.pendRealign]

@[simp] theorem State.applyStore_modPatrol (q : StoreRequest) :
    (s.modPatrol f).applyStore q = (s.applyStore q).modPatrol f := by
  have hclear (t : State) : (t.modPatrol f).clearBankCounts = t.clearBankCounts.modPatrol f := rfl
  simp [State.applyStore, hclear]

@[simp] theorem State.applyMonitor_modPatrol (i : MonitorNo) (q : MonitorRequest) :
    (s.modPatrol f).applyMonitor i q = (s.applyMonitor i q).modPatrol f := by
  simp [State.applyMonitor, State.loadPreset, State.clearOverflow]

@[simp] theorem State.applyDirectory_modPatrol (q : DirectoryRequest) :
    (s.modPatrol f).applyDirectory q = (s.applyDirectory q).modPatrol f := by
  have hfreeze (t : State) : (t.modPatrol f).unfreeze = t.unfreeze.modPatrol f :=
    foldl_modPatrol f (fun _ _ => rfl) _ (t.modMonitorUnit fun u => { u with freeze := false })
  have hcleared : (s.modPatrol f).cleared q = (s.cleared q).modPatrol f := by
    unfold State.cleared
    split_ifs <;> rfl
  simp [State.applyDirectory_eq, hfreeze, hcleared]

theorem State.answerRequest_modPatrol (r : Record) (serial : Word) (v : Verdict) (accepted : State) :
    (s.modPatrol f).answerRequest r serial v (accepted.modPatrol f) =
      (s.answerRequest r serial v accepted).modPatrol f := by
  cases v <;> simp [State.answerRequest]

/-- A request is taken alike whatever the patrol does (R159). -/
theorem State.takeRequest_modPatrol (r : Record) (l : List Word) :
    (s.modPatrol f).takeRequest r l = (s.takeRequest r l).modPatrol f := by
  cases r with
  | directory =>
    simp only [State.takeRequest, State.takeDirectoryRequest, State.applyDirectory_modPatrol]
    exact s.answerRequest_modPatrol f _ _ _ _
  | timing =>
    simp only [State.takeRequest, State.takeTimingRequest, State.applyTiming_modPatrol]
    exact s.answerRequest_modPatrol f _ _ _ _
  | store =>
    simp only [State.takeRequest, State.takeStoreRequest, State.applyStore_modPatrol]
    exact s.answerRequest_modPatrol f _ _ _ _
  | monitor m =>
    simp only [State.takeRequest, State.takeMonitorRequest, State.applyMonitor_modPatrol]
    exact s.answerRequest_modPatrol f _ _ _ _
  | line n =>
    simp only [State.takeRequest, State.takeLineRequest, State.applyLine_modPatrol]
    exact s.answerRequest_modPatrol f _ _ _ _

end

end Sys2Proof.Machine
end

section
/-!
SUPPORT. A patrol step that waits, and one that is completed: the stages with nothing between their grants,
whatever the grants are numbered and whatever is due (R148, R155, R156).
-/
namespace Sys2Proof.Machine

section
variable {s : State} {r : Record}

/-! ## What the stages leave of the patrol -/

/-- The phase and the patrol as they stand. -/
def State.PatrolStands (s t : State) : Prop := t.phase = s.phase ∧ t.patrol = s.patrol

theorem State.PatrolStands.trans {t u : State} (h : s.PatrolStands t) (k : t.PatrolStands u) :
    s.PatrolStands u := ⟨k.1.trans h.1, k.2.trans h.2⟩

theorem State.drainPosts_stands : s.PatrolStands s.drainPosts := by
  rw [State.drainPosts_frame]
  exact ⟨rfl, rfl⟩

theorem State.offerBadWord_stands (x : Nat) : s.PatrolStands (s.offerBadWord x) := by
  unfold State.offerBadWord
  split_ifs
  · exact ⟨rfl, rfl⟩
  · have hk := (s.modBadWords fun b => { b with offsets := s.badWords.offsets ++ [x] }).post_kept .controlEcc 0
      [word x, word (s.badWords.offsets ++ [x]).length]
    exact ⟨hk.phase, hk.patrol⟩
  · exact ⟨rfl, rfl⟩

theorem State.readRequest_stands (i : Nat) : s.PatrolStands (s.readRequest r i).1 := by
  by_cases h : (s.memWord (r.base + i)).condition = .uncorrectable
  · rw [State.readRequest_of_uncorrectable h]
    exact State.offerBadWord_stands _
  · rw [State.readRequest_of_read h]
    exact ⟨rfl, rfl⟩

theorem State.scrubWord_stands (a : Nat) : s.PatrolStands (s.scrubWord a) := by
  unfold State.scrubWord
  split
  · exact ⟨rfl, rfl⟩
  · exact ⟨rfl, rfl⟩
  · split
    · exact State.offerBadWord_stands _
    all_goals exact ⟨rfl, rfl⟩

theorem State.actOn_stands (j : Judgement) : s.PatrolStands (s.actOn r j) := by
  cases j with
  | new l =>
    obtain ⟨hphase, -, hpatrol⟩ := s.takeRequest_stage r l
    exact ⟨hphase, hpatrol⟩
  | _ => exact ⟨rfl, rfl⟩

theorem State.scrubStage_stands (left k : Nat) : s.PatrolStands (s.scrubStage [] r left k).1 := by
  induction left generalizing s k with
  | zero => exact ⟨rfl, rfl⟩
  | succ left ih =>
    rw [State.scrubStage_nil]
    exact (State.drainPosts_stands.trans (State.scrubWord_stands _)).trans (ih _)

theorem State.writeStage_stands (l : List (Nat × Word)) (k : Nat) :
    s.PatrolStands (s.writeStage [] r l k).1 := by
  induction l generalizing s k with
  | nil => exact State.scrubStage_stands (s := s.advanceUpdcnt r) _ k
  | cons p l ih =>
    rw [State.writeStage_nil]
    exact State.drainPosts_stands.trans (ih (s := s.drainPosts.memWrite p.1 p.2) _)

theorem State.judgeStage_stands (read : List (Option Word)) (k : Nat) :
    s.PatrolStands (s.judgeStage [] r read k).1 := by
  unfold State.judgeStage
  dsimp only
  split
  · exact State.scrubStage_stands _ _
  · exact (State.actOn_stands _).trans (State.writeStage_stands _ _)

theorem State.readStage_stands (read : List (Option Word)) (l : List Nat) (k : Nat) :
    s.PatrolStands (s.readStage [] r read l k).1 := by
  induction l generalizing s read k with
  | nil => exact State.judgeStage_stands read k
  | cons i l ih =>
    rw [State.readStage_nil]
    exact (State.drainPosts_stands.trans (State.readRequest_stands i)).trans (ih _ _)

/-! ## The numbers of the grants -/

theorem State.scrubStage_number (left k k' : Nat) :
    (s.scrubStage [] r left k).1 = (s.scrubStage [] r left k').1 := by
  induction left generalizing s k k' with
  | zero => rfl
  | succ left ih => rw [State.scrubStage_nil, State.scrubStage_nil, ih]

theorem State.writeStage_number (l : List (Nat × Word)) (k k' : Nat) :
    (s.writeStage [] r l k).1 = (s.writeStage [] r l k').1 := by
  induction l generalizing s k k' with
  | nil => exact State.scrubStage_number _ k k'
  | cons p l ih => rw [State.writeStage_nil, State.writeStage_nil, ih]

theorem State.judgeStage_number (read : List (Option Word)) (k k' : Nat) :
    (s.judgeStage [] r read k).1 = (s.judgeStage [] r read k').1 := by
  unfold State.judgeStage
  dsimp only
  split
  · exact State.scrubStage_number _ k k'
  · exact State.writeStage_number _ k k'

theorem State.readStage_number (read : List (Option Word)) (l : List Nat) (k k' : Nat) :
    (s.readStage [] r read l k).1 = (s.readStage [] r read l k').1 := by
  induction l generalizing s read k k' with
  | nil => exact State.judgeStage_number read k k'
  | cons i l ih => rw [State.readStage_nil, State.readStage_nil, ih]

/-! ## A step that may wait -/

/-- Where a step that may wait has come to: it has ended in y, or it waits and goes on to y (R148). -/
def State.WaitsFor (x y : State) : Prop :=
  x = y ∨ x.phase = y.phase ∧ x.patrol.due = y.patrol.due ∧ x.patrol.step ≠ none ∧ (x.resumeStep [] 0).1 = y

variable {m k : Nat}

theorem State.serveBefore_wait (s : State) : s.serveBefore [(m, .wait)] k = s :=
  s.serveBefore_of_ne (by simp)

/-- A step that waits goes on from the state in which it was suspended. -/
theorem State.suspend_waitsFor (h : s.patrol.step = none) (w : StepWork) {y : State}
    (hy : s.PatrolStands y)
    (hresume : (match w with
      | .reading todo read => s.readStage [] r read todo 0
      | .writing todo => s.writeStage [] r todo 0
      | .scrubbing left => s.scrubStage [] r left 0).1 = y) : (s.suspend r w).WaitsFor y := by
  have hback : (s.suspend r w).modPatrol (fun p => { p with step := none }) = s := by
    have hpatrol : ({ s.patrol with step := none } : Patrol) = s.patrol := by rw [← h]
    unfold State.suspend State.modPatrol
    dsimp only
    rw [hpatrol]
  refine .inr ⟨hy.1.symm, (congrArg Patrol.due hy.2.symm : s.patrol.due = _), by simp [State.suspend], ?_⟩
  rw [← hresume, State.resumeStep]
  dsimp only [State.suspend, State.modPatrol_patrol]
  change (match w with
    | .reading todo read => ((s.suspend r w).modPatrol _).readStage [] r read todo 0
    | .writing todo => ((s.suspend r w).modPatrol _).writeStage [] r todo 0
    | .scrubbing left => ((s.suspend r w).modPatrol _).scrubStage [] r left 0).1 = _
  rw [hback]

theorem State.scrubStage_waitsFor (h : s.patrol.step = none) (left k : Nat) :
    (s.scrubStage [(m, .wait)] r left k).1.WaitsFor (s.scrubStage [] r left k).1 := by
  induction left generalizing s k with
  | zero => exact .inl rfl
  | succ left ih =>
    have hstands := State.scrubStage_stands (s := s) (r := r) (left + 1) k
    rw [State.scrubStage, State.serveBefore_wait]
    dsimp only
    split
    · exact State.suspend_waitsFor h _ hstands (State.scrubStage_number _ _ _)
    · rw [State.scrubStage_nil]
      refine ih ?_ _
      rw [(State.drainPosts_stands.trans (State.scrubWord_stands _)).2, h]

theorem State.writeStage_waitsFor (h : s.patrol.step = none) (l : List (Nat × Word)) (k : Nat) :
    (s.writeStage [(m, .wait)] r l k).1.WaitsFor (s.writeStage [] r l k).1 := by
  induction l generalizing s k with
  | nil => exact State.scrubStage_waitsFor (s := s.advanceUpdcnt r) h _ k
  | cons p l ih =>
    have hstands := State.writeStage_stands (s := s) (r := r) (p :: l) k
    rw [State.writeStage, State.serveBefore_wait]
    split
    · exact State.suspend_waitsFor h _ hstands (State.writeStage_number _ _ _)
    · rw [State.writeStage_nil]
      refine ih ?_ _
      exact (congrArg Patrol.step State.drainPosts_stands.2).trans h

theorem State.judgeStage_waitsFor (h : s.patrol.step = none) (read : List (Option Word)) (k : Nat) :
    (s.judgeStage [(m, .wait)] r read k).1.WaitsFor (s.judgeStage [] r read k).1 := by
  unfold State.judgeStage
  dsimp only
  split
  · exact State.scrubStage_waitsFor h _ k
  · exact State.writeStage_waitsFor ((congrArg Patrol.step (State.actOn_stands _).2).trans h) _ k

theorem State.readStage_waitsFor (h : s.patrol.step = none) (read : List (Option Word)) (l : List Nat)
    (k : Nat) : (s.readStage [(m, .wait)] r read l k).1.WaitsFor (s.readStage [] r read l k).1 := by
  induction l generalizing s read k with
  | nil => exact State.judgeStage_waitsFor h read k
  | cons i l ih =>
    have hstands := State.readStage_stands (s := s) (r := r) read (i :: l) k
    rw [State.readStage, State.serveBefore_wait]
    dsimp only
    split
    · exact State.suspend_waitsFor h _ hstands (State.readStage_number _ _ _ _)
    · rw [State.readStage_nil]
      refine ih ?_ _ _
      exact (congrArg Patrol.step (State.drainPosts_stands.trans (State.readRequest_stands i)).2).trans h

/-! ## The stages whatever is due -/

variable (f : Patrol → Patrol)

@[simp] theorem State.memWrite_modPatrol (a : Nat) (x : Word) :
    (s.modPatrol f).memWrite a x = (s.memWrite a x).modPatrol f := rfl

@[simp] theorem State.offerBadWord_modPatrol (x : Nat) :
    (s.modPatrol f).offerBadWord x = (s.offerBadWord x).modPatrol f := by
  have hlist (g : BadWords → BadWords) : (s.modPatrol f).modBadWords g = (s.modBadWords g).modPatrol f := rfl
  simp [State.offerBadWord, hlist]

theorem State.readRequest_modPatrol (i : Nat) :
    (s.modPatrol f).readRequest r i = ((s.readRequest r i).1.modPatrol f, (s.readRequest r i).2) := by
  unfold State.readRequest
  rw [State.modPatrol_memWord]
  cases (s.memWord (r.base + i)).condition <;> simp

theorem State.scrubWord_modPatrol (a : Nat) :
    (s.modPatrol f).scrubWord a = (s.scrubWord a).modPatrol f := by
  have hscrub (t : State) (g : Scrub → Scrub) : (t.modPatrol f).modScrub g = (t.modScrub g).modPatrol f := rfl
  unfold State.scrubWord
  rw [State.modPatrol_memWord]
  cases (s.memWord a).condition <;> cases ownerOf a <;> simp [hscrub]

theorem State.actOn_modPatrol (j : Judgement) : (s.modPatrol f).actOn r j = (s.actOn r j).modPatrol f := by
  cases j with
  | new l => exact s.takeRequest_modPatrol f r l
  | _ => rfl

/-- The state a stage leaves, with the patrol changed. -/
def changedPatrol (f : Patrol → Patrol) (x : State × Nat) : State × Nat := (x.1.modPatrol f, x.2)

theorem State.scrubStage_modPatrol (left k : Nat) :
    (s.modPatrol f).scrubStage [] r left k = changedPatrol f (s.scrubStage [] r left k) := by
  induction left generalizing s k with
  | zero => rfl
  | succ left ih =>
    rw [State.scrubStage_nil, State.scrubStage_nil, State.drainPosts_modPatrol, State.scrubWord_modPatrol, ih]
    rfl

theorem State.writeStage_modPatrol (l : List (Nat × Word)) (k : Nat) :
    (s.modPatrol f).writeStage [] r l k = changedPatrol f (s.writeStage [] r l k) := by
  induction l generalizing s k with
  | nil => exact State.scrubStage_modPatrol (s := s.advanceUpdcnt r) f _ k
  | cons p l ih =>
    rw [State.writeStage_nil, State.writeStage_nil, State.drainPosts_modPatrol, State.memWrite_modPatrol, ih]

theorem State.visitWrites_modPatrol : (s.modPatrol f).visitWrites r = s.visitWrites r := by
  cases r <;> rfl

theorem State.judgeStage_modPatrol (read : List (Option Word)) (k : Nat) :
    (s.modPatrol f).judgeStage [] r read k = changedPatrol f (s.judgeStage [] r read k) := by
  unfold State.judgeStage
  dsimp only
  rw [State.modPatrol_head]
  split
  · exact State.scrubStage_modPatrol f _ k
  · rw [State.actOn_modPatrol, State.visitWrites_modPatrol]
    exact State.writeStage_modPatrol f _ k

theorem State.readStage_modPatrol (read : List (Option Word)) (l : List Nat) (k : Nat) :
    (s.modPatrol f).readStage [] r read l k = changedPatrol f (s.readStage [] r read l k) := by
  induction l generalizing s read k with
  | nil => exact State.judgeStage_modPatrol f read k
  | cons i l ih =>
    rw [State.readStage_nil, State.readStage_nil, State.drainPosts_modPatrol, State.readRequest_modPatrol, ih]

end

/-! ## The step in progress -/

section
variable {s : State} {m k : Nat}

/-- What is left of the patrol when the step in progress has ended. -/
theorem State.resumeStep_stands (k : Nat) :
    (s.resumeStep [] k).1.phase = s.phase ∧ (s.resumeStep [] k).1.patrol = { s.patrol with step := none } := by
  have hended : (s.modPatrol fun p => { p with step := none }).patrol = { s.patrol with step := none } := rfl
  unfold State.resumeStep
  split
  · next h => exact ⟨rfl, by rw [← h]⟩
  · dsimp only
    split
    · obtain ⟨hphase, hpatrol⟩ := State.readStage_stands (s := s.modPatrol fun p => { p with step := none }) _ _ k
      exact ⟨hphase, hpatrol⟩
    · obtain ⟨hphase, hpatrol⟩ := State.writeStage_stands (s := s.modPatrol fun p => { p with step := none }) _ k
      exact ⟨hphase, hpatrol⟩
    · obtain ⟨hphase, hpatrol⟩ := State.scrubStage_stands (s := s.modPatrol fun p => { p with step := none }) _ k
      exact ⟨hphase, hpatrol⟩

theorem State.resumeStep_waitsFor : (s.resumeStep [(m, .wait)] 0).1.WaitsFor s.finishStep := by
  unfold State.finishStep State.resumeStep
  split
  · exact .inl rfl
  · dsimp only
    split
    · exact State.readStage_waitsFor rfl _ _ _
    · exact State.writeStage_waitsFor rfl _ _
    · exact State.scrubStage_waitsFor rfl _ _

/-- The step in progress ends alike whatever is due. -/
theorem State.finishStep_modPatrol_due (d : Bool) :
    (s.modPatrol fun p => { p with due := d }).finishStep =
      s.finishStep.modPatrol fun p => { p with due := d } := by
  unfold State.finishStep State.resumeStep
  rw [State.modPatrol_patrol]
  dsimp only
  split
  · rfl
  · split
    · exact congrArg Prod.fst (State.readStage_modPatrol (s := s.modPatrol fun p => { p with step := none })
        (fun p => { p with due := d }) _ _ _)
    · exact congrArg Prod.fst (State.writeStage_modPatrol (s := s.modPatrol fun p => { p with step := none })
        (fun p => { p with due := d }) _ _)
    · exact congrArg Prod.fst (State.scrubStage_modPatrol (s := s.modPatrol fun p => { p with step := none })
        (fun p => { p with due := d }) _ _)

theorem State.finishStep_step : s.finishStep.patrol.step = none := by
  rw [State.finishStep, (State.resumeStep_stands 0).2]

theorem State.finishStep_due : s.finishStep.patrol.due = s.patrol.due := by
  rw [State.finishStep, (State.resumeStep_stands 0).2]

theorem State.finishStep_phase : s.finishStep.phase = s.phase := (State.resumeStep_stands 0).1

/-! ## The step that is due -/

/-- The step that is due, taken from its beginning to its end (R156). -/
def State.begun (s : State) : State := (s.beginStep [] 0).1

theorem State.beginStep_number (k : Nat) : (s.beginStep [] k).1 = s.begun := State.readStage_number _ _ _ _

theorem State.begun_phase : s.begun.phase = s.phase :=
  (State.readStage_stands (s := s.recordTaken) _ _ _).1

theorem State.begun_patrol : s.begun.patrol = s.recordTaken.patrol :=
  (State.readStage_stands (s := s.recordTaken) _ _ _).2

theorem State.begun_step (h : s.patrol.step = none) : s.begun.patrol.step = none := by
  rw [State.begun_patrol, State.recordTaken_step, h]

theorem State.begun_due : s.begun.patrol.due = false := by
  rw [State.begun_patrol]
  rfl

theorem State.beginStep_waitsFor (h : s.patrol.step = none) (k : Nat) :
    (s.beginStep [(m, .wait)] k).1.WaitsFor s.begun := by
  rw [← State.beginStep_number k]
  exact State.readStage_waitsFor (s := s.recordTaken) (State.recordTaken_step.trans h) _ _ _

/-! ## The patrol's turn -/

/-- The patrol's turn with nothing between its grants (R156). -/
theorem State.patrolTurn_nil (hp : s.phase = .ready) :
    s.patrolTurn [] = if s.patrol.due then s.finishStep.begun else s.finishStep := by
  have hready := State.ready_of_phase hp
  have hwork : (s.patrolWork []).1 = if s.patrol.due then s.finishStep.begun else s.finishStep := by
    have hfinished := State.ready_of_phase (State.finishStep_phase.trans hp)
    unfold State.patrolWork
    dsimp only
    rw [show (s.resumeStep [] 0).1 = s.finishStep from rfl, hfinished, State.finishStep_step,
      State.finishStep_due]
    cases s.patrol.due with
    | false => rfl
    | true => exact State.beginStep_number _
  have hphase : (s.patrolWork []).1.phase = s.phase := by
    rw [hwork]
    split
    · exact State.begun_phase.trans State.finishStep_phase
    · exact State.finishStep_phase
  rw [State.patrolTurn_of_ready _ hready]
  rw [State.settleRestart_of_phase hphase, State.serveAlone_nil, hwork]

theorem State.serveAlone_wait (s : State) (m k : Nat) : s.serveAlone [(m, .wait)] k = s := by
  unfold State.serveAlone
  by_cases h : k ≤ m
  · exact (State.serveAlone_singleton h).trans (State.settleRestart_of_phase rfl)
  · simp [h]

theorem State.patrolTurn_wait (hp : s.phase = .ready)
    (h : (s.patrolWork [(m, .wait)]).1.phase = .ready) :
    s.patrolTurn [(m, .wait)] = (s.patrolWork [(m, .wait)]).1 := by
  have hready := State.ready_of_phase hp
  rw [State.patrolTurn_of_ready _ hready, State.settleRestart_of_phase (h.trans hp.symm), State.serveAlone_wait]

/-- What the patrol does in a turn in which it may wait (R156). -/
theorem State.patrolWork_wait (hp : s.phase = .ready) :
    (s.patrolWork [(m, .wait)]).1.phase = .ready ∧
      (s.patrolWork [(m, .wait)]).1.patrolTurn [] = s.patrolTurn [] := by
  have hfinished : s.finishStep.phase = .ready := State.finishStep_phase.trans hp
  have hend := State.patrolTurn_nil hp
  unfold State.patrolWork
  dsimp only
  rcases State.resumeStep_waitsFor (s := s) (m := m) with hx | ⟨hphase, hdue, hstep, hresume⟩
  · have hready := State.ready_of_phase hfinished
    rw [hx, hready, State.finishStep_step, State.finishStep_due]
    cases hd : s.patrol.due with
    | false =>
      rw [hd] at hend
      refine ⟨by simpa [hx] using hfinished, ?_⟩
      rw [hend]
      have hidle := State.patrolTurn_of_idle _ State.finishStep_step (State.finishStep_due.trans hd)
      simpa [hx] using hidle
    | true =>
      rw [hd] at hend
      have hbegun : s.finishStep.begun.phase = .ready := State.begun_phase.trans hfinished
      rw [hend]
      show (s.finishStep.beginStep [(m, .wait)] _).1.phase = .ready ∧
        (s.finishStep.beginStep [(m, .wait)] _).1.patrolTurn [] = s.finishStep.begun
      rcases State.beginStep_waitsFor (m := m) (s := s.finishStep) State.finishStep_step
        (s.resumeStep [(m, .wait)] 0).2 with hz | ⟨hphase, hdue, -, hresume⟩
      · rw [hz]
        exact ⟨hbegun, State.patrolTurn_of_idle _ (State.begun_step State.finishStep_step) State.begun_due⟩
      · refine ⟨hphase.trans hbegun, ?_⟩
        rw [State.patrolTurn_nil (hphase.trans hbegun), hdue, State.begun_due]
        exact hresume
  · have hsome : (s.resumeStep [(m, .wait)] 0).1.patrol.step.isNone = false := by
      rw [Option.isNone_eq_false_iff, Option.isSome_iff_ne_none]
      exact hstep
    rw [hsome, Bool.and_false, if_neg Bool.false_ne_true]
    refine ⟨hphase.trans hfinished, ?_⟩
    rw [State.patrolTurn_nil (hphase.trans hfinished), hend, hdue, State.finishStep_due]
    unfold State.finishStep at hresume ⊢
    rw [hresume]

end

/-! ## A step completed by a restart -/

section
variable {s : State}

/-- A restart asked for with no post in progress (R155, R169). -/
def State.asked (t : State) : State :=
  { t with
    phase := .restarting, patrol := { t.patrol with prompts := [], due := false }
    journal := { t.journal with
      waiting := [], dropCount := satAdd 65535 t.journal.dropCount t.journal.waiting.length
      heldBeforeRestart := t.journal.heldCount } }

theorem aside_asked : Aside State.asked :=
  ⟨fun _ _ _ => rfl, fun _ _ => rfl, fun _ => rfl, fun _ _ => rfl, fun _ => rfl, fun _ _ => rfl,
    fun t r => by cases r <;> rfl⟩

/-- On a calm memory a step with no request left to judge writes what it has left, and scrubs (R152,
R161). -/
theorem State.Calm.finishStep {x : StepInProgress} (hs : s.Calm) (hx : s.patrol.step = some x)
    (hwork : ∀ todo read, x.work ≠ .reading todo read) :
    s.finishStep = match x.work with
      | .writing todo => (s.modPatrol fun p => { p with step := none }).visited x.record todo
      | _ => (s.modPatrol fun p => { p with step := none }).advanceScrub := by
  have hcalm : (s.modPatrol fun p => { p with step := none }).Calm := ⟨hs.current, hs.clean⟩
  unfold State.finishStep State.resumeStep
  rw [hx]
  dsimp only
  cases hw : x.work with
  | reading todo read => exact absurd hw (hwork todo read)
  | writing todo => exact congrArg Prod.fst (hcalm.writeStage_nil todo)
  | scrubbing left => exact congrArg Prod.fst (hcalm.scrubStage_nil left)

section
variable {x : StepInProgress} (hs : s.Calm) (hx : s.patrol.step = some x)
  (hwork : ∀ todo read, x.work ≠ .reading todo read)
include hs hx hwork

theorem State.finishStep_current : s.finishStep.journal.current = none := by
  rw [hs.finishStep hx hwork]
  split
  · rw [(State.visited_rest _).2]
    exact hs.current
  · exact hs.current

/-- Such a step is completed alike before a restart is asked for and after it (R155). -/
theorem State.asked_finishStep : s.asked.finishStep = s.finishStep.asked := by
  rw [(aside_asked.calm hs).finishStep hx hwork, hs.finishStep hx hwork]
  split
  · exact (aside_asked.visited (s.modPatrol fun p => { p with step := none }) _ _).symm
  · rfl

end

end

end Sys2Proof.Machine
end

section
/-!
PROOFS. A patrol step waits, goes on, and is completed by a restart.
-/
namespace Sys2Proof.Proofs

open Sys2Proof.Machine

/-- Settles O40: a step that waits by the stage in which it does, one that is due by the patrol's
invisibility to the step before it, and the restart on a calm memory by the closed forms of the step. -/
theorem patrolStepWaitsAndGoesOn : Obligations.PatrolStepWaitsAndGoesOn := by
  unfold Obligations.PatrolStepWaitsAndGoesOn
  refine ⟨fun s k hp => ?_, fun s r hp hstep hr => ?_, fun s hp => ⟨s.patrolTurn_of_idle, fun hstep => ?_,
    fun hstep hdue => ?_⟩, fun s x hp hcurrent hclean hx hwork => ?_⟩
  · obtain ⟨hphase, hturn⟩ := State.patrolWork_wait (m := k) hp
    rw [State.patrolTurn_wait hp hphase, hturn]
  · obtain rfl : r = s.patrol.choose.1 := hr.trans s.patrol.choose_record.symm
    have hready : s.recordTaken.ready = true := State.ready_of_phase hp
    have hwaits : s.recordTaken.waitsAt [(0, .wait)] 0 = true := by rw [State.waitsAt, hready]; rfl
    have hstage : s.recordTaken.readStage [(0, .wait)] s.patrol.choose.1 [] (snapshotOffsets s.patrol.choose.1) 0 =
        (s.recordTaken.suspend s.patrol.choose.1
          (.reading (snapshotOffsets s.patrol.choose.1) []), 1) := by
      rw [snapshotOffsets, List.cons_append, State.readStage, State.serveBefore_wait]
      exact if_pos hwaits
    refine congrArg Host.Outcome.next ?_
    rw [State.patrolStep_of_ready hp hstep, hstage]
    dsimp only
    rw [State.settleRestart_of_phase (s := s) (t := s.recordTaken.suspend _ _) rfl, State.serveAlone_wait,
      State.recordTaken_eq]
    refine congrArg (fun p : Patrol => ({ s with patrol := p } : State)) ?_
    dsimp only
    generalize s.patrol = p
    obtain ⟨pointer, prompts, timer, due, step⟩ := p
    cases prompts <;> rfl
  · have hready := State.ready_of_phase hp
    have hdueStep (t : State) (ht : t.ready = true) :
        t.dueStep = t.modPatrol fun p => { p with due := true } := if_pos ht
    have hturn : (s.modPatrol fun p => { p with due := false }).patrolTurn [] =
        s.finishStep.modPatrol fun p => { p with due := false } := by
      rw [State.patrolTurn_nil (s := s.modPatrol fun p => { p with due := false }) hp,
        State.finishStep_modPatrol_due]
      rfl
    have hagain : ((s.finishStep.modPatrol fun p => { p with due := false }).modPatrol
          fun p => { p with due := true }).finishStep =
        (s.finishStep.modPatrol fun p => { p with due := false }).modPatrol fun p => { p with due := true } :=
      State.finishStep_of_none State.finishStep_step
    have hended : (s.finishStep.modPatrol fun p => { p with due := false }).phase = .ready :=
      State.finishStep_phase.trans hp
    refine congrArg Host.Outcome.next ?_
    show s.patrolStep [] = ((s.modPatrol fun p => { p with due := false }).patrolTurn []).patrolStep []
    rw [hturn, State.patrolStep, State.patrolStep, hdueStep _ hready,
      hdueStep _ (State.ready_of_phase hended),
      State.patrolTurn_nil (s := s.modPatrol fun p => { p with due := true }) hp,
      State.finishStep_modPatrol_due, State.patrolTurn_nil (by exact hended), hagain]
    rfl
  · have hready := State.ready_of_phase hp
    have hsame : s.dueStep = s := by
      rw [State.dueStep, if_pos hready, State.modPatrol, ← hdue]
    refine congrArg Host.Outcome.next ?_
    rw [State.patrolStep, hsame]
  · have hs : s.Calm := ⟨hcurrent, fun a => MemWord.condition_of_nil (hclean a)⟩
    have hturn : (s.modPatrol fun p => { p with due := false }).patrolTurn [] =
        s.finishStep.modPatrol fun p => { p with due := false } := by
      rw [State.patrolTurn_nil (s := s.modPatrol fun p => { p with due := false }) hp,
        State.finishStep_modPatrol_due]
      rfl
    have hv : (s.finishStep.modPatrol fun p => { p with due := false }).askRestart = s.finishStep.asked :=
      State.askRestart_of_none (State.finishStep_current hs hx hwork)
    have hended : s.finishStep.asked.finishStep = s.finishStep.asked :=
      State.finishStep_of_none State.finishStep_step
    have hasked : s.askRestart.finishStep = s.finishStep.asked := by
      rw [State.askRestart_of_none hcurrent]
      exact State.asked_finishStep hs hx hwork
    refine Eq.trans ?_ (congrArg (exec .engineRestart) hturn.symm)
    rw [exec_engineRestart_of_ready hp, exec_engineRestart_of_ready (by exact State.finishStep_phase.trans hp), hv,
      hended, hasked]

end Sys2Proof.Proofs
end
